-- ==== Sys2Proof/Word.lean ====
section
/-! DEFINITION. The word types of the Ocbel S9 and their plainest arithmetic (R5, R34, R114). -/

namespace Sys2Proof

/-- A byte of memory. -/
abbrev Byte := BitVec 8

/-- A 32-bit instruction word (R34). -/
abbrev IWord := BitVec 32

/-- A 64-bit register value (Table 1.4). -/
abbrev Word := BitVec 64

/-- The 2,048 bytes of a vector register or of one entry of mf, sq or rx (R19, R179): byte `j` is bits `8j+7..8j`. -/
abbrev VWord := BitVec 16384

/-- A 64-bit value of a Boolean: 1 when true, 0 when false (R114). -/
def Word.ofBool (b : Bool) : Word := if b then 1#64 else 0#64

/-! ### What instructions carry -/

/-- The trap causes of Table 19.1 (R329). NOTPRESENT from a walk that met a malformed entry is told apart, for MAL of the fault record
(R316): its code, its priority and its class are those of NOTPRESENT. -/
inductive Cause where
  | underwait | memerr | htfull | perm | badva | stoff | align | notpresent | notpresentMal | xlate
  | illenc | priv | badpc | loopform | ringerr | cmdopnd | badwbar | badq | shadowfull | mereout | swtrap
  | badlnr | watchdog
deriving DecidableEq, Repr

/-- A 128-bit command record (Table 2.11) less its stop bit, its major and its res0 bit 4. -/
structure Record where
  /-- [23:20] command-specific variant -/
  variant : BitVec 4
  /-- [19:16] ordering class -/
  cls : BitVec 4
  /-- [15:11] token awaited -/
  wtok : BitVec 5
  /-- [10:6] token raised on completion -/
  ptok : BitVec 5
  /-- [5] WE: await `wtok` -/
  we : Bool
  /-- [3:0] type code of R50 -/
  typ : BitVec 4
  /-- [63:48] aux field of R54 -/
  aux : BitVec 16
  /-- [47:32] wait threshold -/
  thr : BitVec 16
  /-- [95:64] first address operand (source) -/
  opA : BitVec 32
  /-- [127:96] second address operand (destination) -/
  opB : BitVec 32
deriving DecidableEq, Repr

/-- A session command of R284 as the host wrote it: 32 bytes, less its res0 byte 3. -/
structure SessCmd where
  stamp : BitVec 16
  op : BitVec 8
  session : BitVec 32
  arg0 : BitVec 64
  arg1 : BitVec 64
  arg2 : BitVec 64
deriving DecidableEq, Repr

/-- A management request of R391: the port it came through (0 I3C, 1 PF0 mailbox), its header fields and its payload. -/
structure MgmtReq where
  port : Nat
  tag : BitVec 16
  code : BitVec 8
  payload : List (BitVec 8)
deriving DecidableEq, Repr

/-- Where a SECDED check of R401 meets an error: a 64-byte line of memory named by its key, a handle-table entry, a vector register of a
bank (0 active, 1 shadow) of one of the core's sub-cores, or an entry of that bank's matrix feed, store engine or ring ingress queue
(7, 8 or 9). -/
inductive SramSite where
  | line (key : Nat)
  | handle (fen index : Nat)
  | vreg (sub bank r : Nat)
  | queue (sub bank q i : Nat)
deriving DecidableEq, Repr

end Sys2Proof
end

