-- ==== Sys2Proof/Machine/RegMap.lean ====
section
/-! DEFINITION. The numbers of system registers and counters (Tables 8.6, 8.7 and 8.9). -/

namespace Sys2Proof.Machine

/-- Read level and write level of a register number: 0 U, 1 S, 3 M, 4 none. A number that is not listed names no register. -/
def sysReg (n : Nat) : Option (Nat × Nat) :=
  if n = 0x000 || n = 0x001 || n = 0x003 || n = 0x020 || n = 0x026 then some (0, 0)
  else if n = 0x002 || n = 0x010 || (0x021 ≤ n && n ≤ 0x025) then some (0, 1)
  else if (0x008 ≤ n && n ≤ 0x00E) || n = 0x018 || n = 0x019 then some (0, 4)
  else if n = 0x102 || (0x107 ≤ n && n ≤ 0x10D) || n = 0x112 || n = 0x142 || n = 0x144 || n = 0x146 || n = 0x147 || n = 0x163 ||
      n = 0x170 then some (1, 4)
  else if n = 0x114 || n = 0x129 || n = 0x140 then some (1, 3)
  else if n = 0x100 || n = 0x101 || (0x103 ≤ n && n ≤ 0x106) || n = 0x110 || n = 0x111 || n = 0x116 || n = 0x120 || n = 0x121 ||
      n = 0x128 || n = 0x141 || n = 0x145 || (0x148 ≤ n && n ≤ 0x14B) || (0x160 ≤ n && n ≤ 0x162) || n = 0x164 then some (1, 1)
  else if (0x200 ≤ n && n ≤ 0x202) || n = 0x204 || n = 0x208 then some (3, 3)
  else if n = 0x203 || n = 0x210 then some (3, 4)
  else none

/-- A number names a fen-local counter (R225). -/
def isCounter (n : Nat) : Bool := n ≤ 8 || (32 ≤ n && n ≤ 255)

/-- The registers whose CSRW is a row of its own in the opcode table. -/
def hasOwnWrite (n : Nat) : Bool :=
  n == 0x010 || n == 0x001 || n == 0x116 || n == 0x021 || n == 0x121 || n == 0x111 || n == 0x114 || n == 0x129 || n == 0x160

end Sys2Proof.Machine
end

