-- ==== Sys2Proof/Syntax.lean ====
section
/-! DEFINITION. The instructions of the Ocbel S9: one constructor per row of the opcode table.

The table's rows are of three kinds. Encoded words (R34 to R51) carry their fields, most significant first, as bit
vectors of the field's own width; the stop bit S frames the group (R35) and is no part of the instruction. Command
records (R52 to R55) carry one `Record`. Events carry what names the place where they happen. The constructors that words decode to
come first, those without operands after them: Lean's runtime numbers at most 245 constructors that have fields. -/

namespace Sys2Proof

/-- Every row of the opcode table. -/
inductive Instr where
  /-- DLY: Holds the engine's next group until n unfrozen clocks have passed. (R93) -/
  | dly (n : BitVec 16)
  /-- BR: Unconditional branch to a word offset. (R95) -/
  | br (o : BitVec 24)
  /-- BEQ: Branches when two a registers are equal. (R95) -/
  | beq (a b : BitVec 4) (o : BitVec 16)
  /-- BNE: Branches when two a registers differ. (R95) -/
  | bne (a b : BitVec 4) (o : BitVec 16)
  /-- BLT: Branches on a signed less-than of two a registers. (R95) -/
  | blt (a b : BitVec 4) (o : BitVec 16)
  /-- BGE: Branches on a signed greater-or-equal of two a registers. (R95) -/
  | bge (a b : BitVec 4) (o : BitVec 16)
  /-- BLTU: Branches on an unsigned less-than of two a registers. (R95) -/
  | bltu (a b : BitVec 4) (o : BitVec 16)
  /-- BGEU: Branches on an unsigned greater-or-equal of two a registers. (R95) -/
  | bgeu (a b : BitVec 4) (o : BitVec 16)
  /-- BQT: Vector engine pops bq and branches when the entry is 1. (R96) -/
  | bqt (o : BitVec 16)
  /-- BQF: Vector engine pops bq and branches when the entry is 0. (R96) -/
  | bqf (o : BitVec 16)
  /-- JAL: Writes the return address to lr or a14 and jumps. (R97) -/
  | jal (o : BitVec 24)
  /-- JR: Jumps to the address in an a register, checked for BADPC. (R97) -/
  | jr (a : BitVec 4)
  /-- LOOP: Enters a hardware loop whose trip count comes from an a register. (R98) -/
  | loop (l : BitVec 2) (a : BitVec 4) (b : BitVec 16)
  /-- LOOPI: Enters a hardware loop with an immediate trip count. (R98) -/
  | loopi (l : BitVec 2) (n : BitVec 16) (b : BitVec 6)
  /-- ADDA: Adds two a registers. (R102) -/
  | adda (d a b : BitVec 4)
  /-- SUBA: Subtracts two a registers. (R102) -/
  | suba (d a b : BitVec 4)
  /-- ADDMA: Adds an a register and the product of two others. (R102) -/
  | addma (d a b c : BitVec 4)
  /-- ADDIA: Adds a sign-extended immediate to an a register. (R102) -/
  | addia (d a : BitVec 4) (i : BitVec 16)
  /-- ANDIA: ANDs an a register with a zero-extended immediate. (R102) -/
  | andia (d a : BitVec 4) (i : BitVec 16)
  /-- SLLIA: Shifts an a register left by an immediate amount. (R102) -/
  | sllia (d a : BitVec 4) (n : BitVec 6)
  /-- SRLIA: Shifts an a register right logically by an immediate amount. (R102) -/
  | srlia (d a : BitVec 4) (n : BitVec 6)
  /-- MOVIA: Writes a shifted 16-bit immediate to an a register. (R102) -/
  | movia (d : BitVec 4) (h : BitVec 2) (i : BitVec 16)
  /-- MOVKA: Inserts a 16-bit immediate into one half-word of an a register. (R102) -/
  | movka (d : BitVec 4) (h : BitVec 2) (i : BitVec 16)
  /-- MOVAL: Copies a loop counter's count into an a register. (R102) -/
  | moval (l : BitVec 2) (a : BitVec 4)
  /-- MOVLA: Sets a loop counter's count from an a register. (R101) -/
  | movla (l : BitVec 2) (a : BitVec 4)
  /-- TWAIT: Waits for a token to reach an immediate threshold and clears covered pending tags. (R104) -/
  | twait (t : BitVec 5) (n : BitVec 16)
  /-- TWAIT_REG: Waits for a token to reach a threshold taken from an a register. (R104) -/
  | twaitReg (t : BitVec 5) (a : BitVec 4)
  /-- TPOST: Raises a token n times in its issue clock. (R106) -/
  | tpost (t : BitVec 5) (n : BitVec 8)
  /-- TSTAT: Reads a token's status word, optionally clearing it. (R107) -/
  | tstat (t : BitVec 5) (d : BitVec 4) (c : BitVec 1)
  /-- CHK: Traps if the named register is poisoned or pending. (R109) -/
  | chk (f : BitVec 2) (n : BitVec 6)
  /-- SELC_SHARED: Commits one of two speculative arms by a consumed condition, in a registers. (R110) -/
  | selcShared (d c x y : BitVec 4)
  /-- PFX: Prefix carrying token post, predicate, rounding and destination-mask fields for the next word. (R40) -/
  | pfx (t : BitVec 1) (k : BitVec 5) (p : BitVec 4) (r : BitVec 3) (x q m n : BitVec 1)
  /-- ADD: 64-bit add. (R114) -/
  | add (d a b : BitVec 6)
  /-- SUB: 64-bit subtract. (R114) -/
  | sub (d a b : BitVec 6)
  /-- AND: Bitwise AND. (R114) -/
  | and (d a b : BitVec 6)
  /-- OR: Bitwise OR. (R114) -/
  | or (d a b : BitVec 6)
  /-- XOR: Bitwise XOR. (R114) -/
  | xor (d a b : BitVec 6)
  /-- ANDN: sa AND NOT sb. (R114) -/
  | andn (d a b : BitVec 6)
  /-- ORN: sa OR NOT sb. (R114) -/
  | orn (d a b : BitVec 6)
  /-- XNOR: NOT (sa XOR sb). (R114) -/
  | xnor (d a b : BitVec 6)
  /-- SLL: Shift left by register. (R114) -/
  | sll (d a b : BitVec 6)
  /-- SRL: Logical shift right by register. (R114) -/
  | srl (d a b : BitVec 6)
  /-- SRA: Arithmetic shift right by register. (R114) -/
  | sra (d a b : BitVec 6)
  /-- ROL: Rotate left by register. (R114) -/
  | rol (d a b : BitVec 6)
  /-- ROR: Rotate right by register. (R114) -/
  | ror (d a b : BitVec 6)
  /-- MUL: Low 64 bits of the product. (R114) -/
  | mul (d a b : BitVec 6)
  /-- MULH: High 64 bits of the signed product. (R114) -/
  | mulh (d a b : BitVec 6)
  /-- MULHU: High 64 bits of the unsigned product. (R114) -/
  | mulhu (d a b : BitVec 6)
  /-- MULHSU: High 64 bits of the signed-by-unsigned product. (R114) -/
  | mulhsu (d a b : BitVec 6)
  /-- DIV: Signed division rounded towards zero, never trapping. (R115) -/
  | div (d a b : BitVec 6)
  /-- DIVU: Unsigned division. (R115) -/
  | divu (d a b : BitVec 6)
  /-- REM: Signed remainder. (R115) -/
  | rem (d a b : BitVec 6)
  /-- REMU: Unsigned remainder. (R115) -/
  | remu (d a b : BitVec 6)
  /-- MIN: Signed minimum. (R114) -/
  | min (d a b : BitVec 6)
  /-- MAX: Signed maximum. (R114) -/
  | max (d a b : BitVec 6)
  /-- MINU: Unsigned minimum. (R114) -/
  | minu (d a b : BitVec 6)
  /-- MAXU: Unsigned maximum. (R114) -/
  | maxu (d a b : BitVec 6)
  /-- SLT: Signed set-less-than. (R114) -/
  | slt (d a b : BitVec 6)
  /-- SLTU: Unsigned set-less-than. (R114) -/
  | sltu (d a b : BitVec 6)
  /-- SEQ: Set if equal. (R114) -/
  | seq (d a b : BitVec 6)
  /-- SNE: Set if not equal. (R114) -/
  | sne (d a b : BitVec 6)
  /-- ADDW: 32-bit add, sign-extended. (R114) -/
  | addw (d a b : BitVec 6)
  /-- SUBW: 32-bit subtract, sign-extended. (R114) -/
  | subw (d a b : BitVec 6)
  /-- SLLW: 32-bit shift left. (R114) -/
  | sllw (d a b : BitVec 6)
  /-- SRLW: 32-bit logical shift right. (R114) -/
  | srlw (d a b : BitVec 6)
  /-- SRAW: 32-bit arithmetic shift right. (R114) -/
  | sraw (d a b : BitVec 6)
  /-- MULW: 32-bit low product, sign-extended. (R114) -/
  | mulw (d a b : BitVec 6)
  /-- CLMUL: Low 64 bits of the carry-less product. (R114) -/
  | clmul (d a b : BitVec 6)
  /-- CLMULH: High bits of the carry-less product. (R114) -/
  | clmulh (d a b : BitVec 6)
  /-- CLZ: Counts leading zero bits. (R114) -/
  | clz (d a : BitVec 6)
  /-- CTZ: Counts trailing zero bits. (R114) -/
  | ctz (d a : BitVec 6)
  /-- POPC: Counts one bits. (R114) -/
  | popc (d a : BitVec 6)
  /-- BREV: Reverses the bits. (R114) -/
  | brev (d a : BitVec 6)
  /-- BSWAP: Reverses the bytes. (R114) -/
  | bswap (d a : BitVec 6)
  /-- SEXTB: Sign-extends the low byte. (R114) -/
  | sextb (d a : BitVec 6)
  /-- SEXTH: Sign-extends the low half-word. (R114) -/
  | sexth (d a : BitVec 6)
  /-- SEXTW: Sign-extends the low word. (R114) -/
  | sextw (d a : BitVec 6)
  /-- ADDI: Adds a sign-extended 12-bit immediate. (R116) -/
  | addi (d a : BitVec 6) (i : BitVec 12)
  /-- ANDI: ANDs with a zero-extended immediate. (R116) -/
  | andi (d a : BitVec 6) (i : BitVec 12)
  /-- ORI: ORs with a zero-extended immediate. (R116) -/
  | ori (d a : BitVec 6) (i : BitVec 12)
  /-- XORI: XORs with a zero-extended immediate. (R116) -/
  | xori (d a : BitVec 6) (i : BitVec 12)
  /-- SLLI: Shifts left by an immediate amount. (R116) -/
  | slli (d a n : BitVec 6)
  /-- SRLI: Shifts right logically by an immediate amount. (R116) -/
  | srli (d a n : BitVec 6)
  /-- SRAI: Shifts right arithmetically by an immediate amount. (R116) -/
  | srai (d a n : BitVec 6)
  /-- RORI: Rotates right by an immediate amount. (R116) -/
  | rori (d a n : BitVec 6)
  /-- SLTI: Signed compare with a sign-extended immediate. (R116) -/
  | slti (d a : BitVec 6) (i : BitVec 12)
  /-- SLTIU: Unsigned compare with a zero-extended immediate. (R116) -/
  | sltiu (d a : BitVec 6) (i : BitVec 12)
  /-- MOVW: Writes a shifted 16-bit immediate. (R117) -/
  | movw (d : BitVec 6) (h : BitVec 2) (i : BitVec 16)
  /-- MOVK: Inserts a 16-bit immediate into one half-word. (R117) -/
  | movk (d : BitVec 6) (h : BitVec 2) (i : BitVec 16)
  /-- SEL: Selects one of two registers, poison from all sources. (R118) -/
  | sel (d c x y : BitVec 6)
  /-- SELC: Commits one speculative arm of s registers on a consumed condition. (R118) -/
  | selc (d c x y : BitVec 6)
  /-- KSET: Writes a k register from an s register. (R119) -/
  | kset (k : BitVec 3) (a : BitVec 6)
  /-- KGET: Reads a k register into an s register. (R119) -/
  | kget (d : BitVec 6) (k : BitVec 3)
  /-- LDB: Loads from a ring slot named by descriptor and index. (R121) -/
  | ldb (d b x : BitVec 6) (z : BitVec 2) (c : BitVec 4)
  /-- STB: Stores into a ring slot named by descriptor and index. (R121) -/
  | stb (d b x : BitVec 6) (z : BitVec 2) (c : BitVec 4)
  /-- LD_SCRATCH: Zero-extending load from global scratch. (R121) -/
  | ldScratch (d b : BitVec 6) (p : BitVec 1) (o : BitVec 5) (z : BitVec 2) (c : BitVec 4)
  /-- LDX_SCRATCH: Sign-extending load from global scratch. (R121) -/
  | ldxScratch (d b : BitVec 6) (p : BitVec 1) (o : BitVec 5) (z : BitVec 2) (c : BitVec 4)
  /-- ST_SCRATCH: Store to global scratch, discarded with a pending error on an error response. (R123) -/
  | stScratch (d b : BitVec 6) (o : BitVec 5) (z : BitVec 2) (c : BitVec 4)
  /-- LD_STATE: Load from the core's state store. (R121) -/
  | ldState (d b : BitVec 6) (p : BitVec 1) (o : BitVec 5) (z : BitVec 2) (c : BitVec 4)
  /-- ST_STATE: Store to the core's state store. (R121) -/
  | stState (d b : BitVec 6) (o : BitVec 5) (z : BitVec 2) (c : BitVec 4)
  /-- LD_HANDLE: Token-posting zero-extending load through a handle. (R125) -/
  | ldHandle (d : BitVec 6) (h : BitVec 4) (x : BitVec 6) (p : BitVec 1) (z : BitVec 2) (c : BitVec 4)
  /-- LDX_HANDLE: Token-posting sign-extending load through a handle. (R125) -/
  | ldxHandle (d : BitVec 6) (h : BitVec 4) (x : BitVec 6) (p : BitVec 1) (z : BitVec 2) (c : BitVec 4)
  /-- ST_HANDLE: Store through a handle, optionally raising a token when performed. (R125) -/
  | stHandle (d : BitVec 6) (h : BitVec 4) (x : BitVec 6) (z : BitVec 2) (c : BitVec 4)
  /-- AMO_32: 32-bit atomic at the receive agent of a scratch address, value returned by token. (R128) -/
  | amo32 (v : BitVec 6) (b : BitVec 4) (x : BitVec 6) (o c : BitVec 4)
  /-- AMO_64: 64-bit atomic on a scratch address. (R128) -/
  | amo64 (v : BitVec 6) (b : BitVec 4) (x : BitVec 6) (o c : BitVec 4)
  /-- AMOH_32: 32-bit atomic through a handle. (R128) -/
  | amoh32 (v : BitVec 6) (h : BitVec 4) (x : BitVec 6) (o c : BitVec 4)
  /-- AMOH_64: 64-bit atomic through a handle. (R128) -/
  | amoh64 (v : BitVec 6) (h : BitVec 4) (x : BitVec 6) (o c : BitVec 4)
  /-- RED_32: 32-bit non-returning reduction that rests or merges in the combining buffer. (R129) -/
  | red32 (v : BitVec 6) (b : BitVec 4) (x : BitVec 6) (o c : BitVec 4)
  /-- RED_64: 64-bit resting reduction on scratch. (R129) -/
  | red64 (v : BitVec 6) (b : BitVec 4) (x : BitVec 6) (o c : BitVec 4)
  /-- REDH_32: 32-bit resting reduction through a handle. (R129) -/
  | redh32 (v : BitVec 6) (h : BitVec 4) (x : BitVec 6) (o c : BitVec 4)
  /-- REDH_64: 64-bit resting reduction through a handle. (R129) -/
  | redh64 (v : BitVec 6) (h : BitVec 4) (x : BitVec 6) (o c : BitVec 4)
  /-- FENCE: Holds issue until earlier accesses of the named classes have returned or performed at the scope. (R130) -/
  | fence (k : BitVec 2) (p : BitVec 3) (m : BitVec 16)
  /-- PUBL: Publishes selected shadow destinations in one act, swapping frame-region halves. (R133) -/
  | publ (a : BitVec 6)
  /-- TRN: Translates a virtual address into a handle, poisoning on miss, refusal or bad address. (R134) -/
  | trn (d : BitVec 4) (a : BitVec 6) (p : BitVec 1) (k : BitVec 2)
  /-- HMOV: Copies a handle register with its tags. (R135) -/
  | hmov (d a : BitVec 4)
  /-- HRD: Reads a handle's 64-bit value into an s register. (R135) -/
  | hrd (d : BitVec 6) (a : BitVec 4)
  /-- HWR: Writes a handle register from an s register. (R135) -/
  | hwr (d : BitVec 4) (a : BitVec 6)
  /-- HNARROW: Allocates a narrowed handle window within an existing handle. (R135) -/
  | hnarrow (d a : BitVec 4) (b : BitVec 6)
  /-- HREV: Revokes a handle-table entry by bumping its generation. (R135) -/
  | hrev (a : BitVec 4)
  /-- RCLAIM: Claims n positions of a program ring, waiting for room. (R136) -/
  | rclaim (d b x : BitVec 6)
  /-- RCOMMIT: Commits a claimed position, writes its phase and moves tail, with release. (R136) -/
  | rcommit (b x : BitVec 6)
  /-- RWAITF: Waits until a position is committed or released, with acquire. (R292) -/
  | rwaitf (b x : BitVec 6)
  /-- RWAITE: Waits until a position's slot is free, with acquire. (R292) -/
  | rwaite (b x : BitVec 6)
  /-- RREL: Releases n positions by advancing head, with release. (R136) -/
  | rrel (b x : BitVec 6)
  /-- RTAIL: Reads a program ring's tail. (R136) -/
  | rtail (d b : BitVec 6)
  /-- CPUSH: Writes one 16-byte slot at the tail of a fed engine ring, with release. (R137) -/
  | cpush (b x : BitVec 6)
  /-- QPUSH: Pushes an s register with its tags onto q0-q3. (R138) -/
  | qpush (a : BitVec 6) (q : BitVec 3)
  /-- QPOP: Pops q4 or q5 into an s register. (R138) -/
  | qpop (d : BitVec 6) (q : BitVec 3)
  /-- BQPUSH: Pushes a branch outcome bit onto bq. (R138) -/
  | bqpush (a : BitVec 6)
  /-- PARK: Parks the sub-core in the wait table while a slice word holds the expected value. (R139) -/
  | park (a b : BitVec 6) (c : BitVec 4)
  /-- MLEASE: Requests the matrix lease with a run length. (R140) -/
  | mlease (n : BitVec 7)
  /-- SLEASE: Requests the scan lease with a run length. (R140) -/
  | slease (n : BitVec 7)
  /-- RAND: Draws 64 bits from Philox4x32-10 and advances RNDCTR. (R141) -/
  | rand (d a : BitVec 6)
  /-- FRM_LD: Loads a frame into the shadow half of a held region, checking block CRCs. (R209) -/
  | frmLd (d a b : BitVec 6)
  /-- FRM_ST: Stores a region to a frame with fresh CRCs, copying shared pages on write. (R210) -/
  | frmSt (d a b : BitVec 6)
  /-- FRM_SNAP: Makes an immutable snapshot of a frame, optionally inserting it in the prefix cache. (R211) -/
  | frmSnap (d a b : BitVec 6)
  /-- FRM_FORK: Makes a writable frame sharing every page of a frame or snapshot. (R212) -/
  | frmFork (d a : BitVec 6)
  /-- FRM_RBK: Rolls a frame back to a snapshot's pages. (R213) -/
  | frmRbk (d a b : BitVec 6)
  /-- FRM_FIND: Returns the newest cached snapshot under a key. (R214) -/
  | frmFind (d a : BitVec 6)
  /-- FRM_FINDV: Returns the newest cached snapshot whose token record matches. (R214) -/
  | frmFindv (d a b : BitVec 6)
  /-- CSRR: Reads a system register. (R224) -/
  | csrr (d : BitVec 6) (n : BitVec 12)
  /-- CSRW: Writes a system register that has no behaviour of its own. (R224) -/
  | csrw (a : BitVec 6) (n : BitVec 12)
  /-- CNTR: Reads a fen-local counter. (R225) -/
  | cntr (d : BitVec 6) (n : BitVec 12)
  /-- WGET: Takes the next index of a resident step's range. (R216) -/
  | wget (d : BitVec 6)
  /-- WSTEAL: Asks another sub-core for half its range and waits for the reply. (R217) -/
  | wsteal (d a : BitVec 6)
  /-- WBAR: Gang barrier at a gang level with full fence and acquire. (R218) -/
  | wbar (l : BitVec 6)
  /-- LNCH: Copies a loop-nest record into a launch queue, with release. (R220) -/
  | lnch (a b : BitVec 6)
  /-- TRAP: Raises SWTRAP with a 16-bit code. (R221) -/
  | trap (i : BitVec 16)
  /-- BZ: Branches when an s register is zero. (R120) -/
  | bz (a : BitVec 6) (o : BitVec 18)
  /-- BNZ: Branches when an s register is not zero. (R120) -/
  | bnz (a : BitVec 6) (o : BitVec 18)
  /-- VADD: Elementwise floating add, rounded once. (R149) -/
  | vadd (d a b : BitVec 6) (t : BitVec 4)
  /-- VSUB: Elementwise floating subtract. (R149) -/
  | vsub (d a b : BitVec 6) (t : BitVec 4)
  /-- VMUL: Elementwise floating multiply. (R149) -/
  | vmul (d a b : BitVec 6) (t : BitVec 4)
  /-- VFMA: Fused va × vb + vd. (R149) -/
  | vfma (d a b : BitVec 6) (t : BitVec 4)
  /-- VFMS: Fused va × vb − vd. (R149) -/
  | vfms (d a b : BitVec 6) (t : BitVec 4)
  /-- VFNMA: Fused vd − va × vb. (R149) -/
  | vfnma (d a b : BitVec 6) (t : BitVec 4)
  /-- VMIN: Elementwise floating minimum. (R149) -/
  | vmin (d a b : BitVec 6) (t : BitVec 4)
  /-- VMAX: Elementwise floating maximum. (R149) -/
  | vmax (d a b : BitVec 6) (t : BitVec 4)
  /-- VABS: Clears each element's sign bit. (R150) -/
  | vabs (d a : BitVec 6) (t : BitVec 4)
  /-- VNEG: Inverts each element's sign bit. (R150) -/
  | vneg (d a : BitVec 6) (t : BitVec 4)
  /-- VEXP2: Correctly rounded 2^x per f32 element. (R87) -/
  | vexp2 (d a : BitVec 6) (t : BitVec 4)
  /-- VLOG2: Correctly rounded log2 per f32 element. (R87) -/
  | vlog2 (d a : BitVec 6) (t : BitVec 4)
  /-- VRCP: Correctly rounded reciprocal per f32 element. (R87) -/
  | vrcp (d a : BitVec 6) (t : BitVec 4)
  /-- VRSQ: Correctly rounded reciprocal square root per f32 element. (R87) -/
  | vrsq (d a : BitVec 6) (t : BitVec 4)
  /-- VSQRT: Correctly rounded square root per element. (R87) -/
  | vsqrt (d a : BitVec 6) (t : BitVec 4)
  /-- VFLOOR: Rounds each element down to an integer. (R150) -/
  | vfloor (d a : BitVec 6) (t : BitVec 4)
  /-- VCEIL: Rounds each element up to an integer. (R150) -/
  | vceil (d a : BitVec 6) (t : BitVec 4)
  /-- VRINT: Rounds each element to an integer in the current mode. (R150) -/
  | vrint (d a : BitVec 6) (t : BitVec 4)
  /-- VCMP: Elementwise compare EQ, LT, LE or UN writing all-ones or zero. (R151) -/
  | vcmp (d a b : BitVec 6) (t : BitVec 4) (c : BitVec 2)
  /-- VSEL: Selects va or vb per element by the old vd. (R152) -/
  | vsel (d a b : BitVec 6) (t : BitVec 4)
  /-- VSELC: Pops bq and commits va or vb whole. (R152) -/
  | vselc (d a b : BitVec 6) (t : BitVec 4)
  /-- VIADD: Integer add, wrapping or saturating. (R153) -/
  | viadd (d a b : BitVec 6) (t : BitVec 4) (w : BitVec 2)
  /-- VISUB: Integer subtract, wrapping or saturating. (R153) -/
  | visub (d a b : BitVec 6) (t : BitVec 4) (w : BitVec 2)
  /-- VIMUL: Low bits of the integer product. (R153) -/
  | vimul (d a b : BitVec 6) (t : BitVec 4)
  /-- VIMULH: High bits of the signed integer product. (R153) -/
  | vimulh (d a b : BitVec 6) (t : BitVec 4)
  /-- VIMULHU: High bits of the unsigned integer product. (R153) -/
  | vimulhu (d a b : BitVec 6) (t : BitVec 4)
  /-- VAND: Bitwise AND. (R153) -/
  | vand (d a b : BitVec 6) (t : BitVec 4)
  /-- VOR: Bitwise OR. (R153) -/
  | vor (d a b : BitVec 6) (t : BitVec 4)
  /-- VXOR: Bitwise XOR. (R153) -/
  | vxor (d a b : BitVec 6) (t : BitVec 4)
  /-- VANDN: Bitwise a AND NOT b. (R153) -/
  | vandn (d a b : BitVec 6) (t : BitVec 4)
  /-- VSHL: Shift left by element amounts. (R153) -/
  | vshl (d a b : BitVec 6) (t : BitVec 4)
  /-- VSHR: Logical shift right by element amounts. (R153) -/
  | vshr (d a b : BitVec 6) (t : BitVec 4)
  /-- VSRA: Arithmetic shift right by element amounts. (R153) -/
  | vsra (d a b : BitVec 6) (t : BitVec 4)
  /-- VIMIN: Signed integer minimum. (R153) -/
  | vimin (d a b : BitVec 6) (t : BitVec 4)
  /-- VIMAX: Signed integer maximum. (R153) -/
  | vimax (d a b : BitVec 6) (t : BitVec 4)
  /-- VIMINU: Unsigned integer minimum. (R153) -/
  | viminu (d a b : BitVec 6) (t : BitVec 4)
  /-- VIMAXU: Unsigned integer maximum. (R153) -/
  | vimaxu (d a b : BitVec 6) (t : BitVec 4)
  /-- VCVT: Converts elements between an accepted from-type and to-type. (R154) -/
  | vcvt (d a : BitVec 6) (o : BitVec 4) (x : BitVec 1) (i : BitVec 4)
  /-- VQBLK: Block-quantises 16 blocks of 32 f32 values with e8m0 scales. (R155) -/
  | vqblk (d a v : BitVec 6) (t : BitVec 4)
  /-- VDQBLK: Dequantises blocks to f32 using e8m0 scales. (R156) -/
  | vdqblk (d a v : BitVec 6) (t : BitVec 4)
  /-- VPSUM: Inclusive prefix sum within each row. (R157) -/
  | vpsum (d a : BitVec 6) (t : BitVec 4)
  /-- VPSUMX: Exclusive prefix sum within each row. (R157) -/
  | vpsumx (d a : BitVec 6) (t : BitVec 4)
  /-- VPMAX: Prefix maximum within each row. (R157) -/
  | vpmax (d a : BitVec 6) (t : BitVec 4)
  /-- VPXOR: Prefix XOR within each row. (R157) -/
  | vpxor (d a : BitVec 6) (t : BitVec 4)
  /-- VREDSUM: Row sum rounded once. (R157) -/
  | vredsum (d a : BitVec 6) (t : BitVec 4)
  /-- VREDMAX: Row maximum. (R157) -/
  | vredmax (d a : BitVec 6) (t : BitVec 4)
  /-- VREDMIN: Row minimum. (R157) -/
  | vredmin (d a : BitVec 6) (t : BitVec 4)
  /-- VREDSQ: Row sum of squares rounded once. (R157) -/
  | vredsq (d a : BitVec 6) (t : BitVec 4)
  /-- VTOPK: Ranks the top k values of each row with their columns. (R158) -/
  | vtopk (d a v : BitVec 6) (t : BitVec 4) (k : BitVec 2)
  /-- VPERM: Permutes elements within rows by an index register. (R159) -/
  | vperm (d a b : BitVec 6) (t : BitVec 4)
  /-- VROT: Rotates a register by bytes. (R160) -/
  | vrot (d a : BitVec 6) (n : BitVec 12)
  /-- VWIN: Masks scores outside a sliding window to minus infinity. (R161) -/
  | vwin (d : BitVec 6) (p l : BitVec 4)
  /-- VSMAX: Advances one block of an online soft-maximum per row. (R163) -/
  | vsmax (d a v : BitVec 6) (t : BitVec 4)
  /-- VLD: Loads 2,048 bytes from the own scratch slice. (R164) -/
  | vld (v : BitVec 6) (b : BitVec 4) (o : BitVec 10) (c : BitVec 4)
  /-- VST: Stores 2,048 bytes to the own scratch slice. (R164) -/
  | vst (v : BitVec 6) (b : BitVec 4) (o : BitVec 10) (c : BitVec 4)
  /-- VLD_STATE: Loads 2,048 bytes from the state store. (R164) -/
  | vldState (v : BitVec 6) (b : BitVec 4) (o : BitVec 10) (c : BitVec 4)
  /-- VST_STATE: Stores 2,048 bytes to the state store. (R164) -/
  | vstState (v : BitVec 6) (b : BitVec 4) (o : BitVec 10) (c : BitVec 4)
  /-- VPOPQ: Pops q0-q3 and splats the entry across a register. (R166) -/
  | vpopq (d : BitVec 6) (q : BitVec 3) (t : BitVec 4)
  /-- VPUSHQ: Pushes element 0 of a register onto q4 or q5. (R166) -/
  | vpushq (a : BitVec 6) (q : BitVec 3) (t : BitVec 4)
  /-- VSPLAT: Writes an immediate to every unclipped element. (R167) -/
  | vsplat (d : BitVec 6) (k : BitVec 2) (i : BitVec 16)
  /-- VMOV: Copies a register with its tag. (R167) -/
  | vmov (d a : BitVec 6) (t : BitVec 4)
  /-- VRXPOP: Pops one entry from the ring ingress queue. (R168) -/
  | vrxpop (d : BitVec 6)
  /-- STATUS_WRITE: CSRW of STATUS, trapping with PRIV on a forbidden privilege level. (R31) -/
  | statusWrite (a : BitVec 6)
  /-- FADEFL_WRITE: Writes the fade floor, clamping an all-ones exponent. (R85) -/
  | fadeflWrite (a : BitVec 6)
  /-- FADEDEF_WRITE: Writes the fen's default fade floor for later steps. (R86) -/
  | fadedefWrite (a : BitVec 6)
  /-- RDCFG_WRITE: Configures a ring descriptor, checked as it issues. (R290) -/
  | rdcfgWrite (a : BitVec 6)
  /-- CNTCFG_WRITE: Configures a counter and zeroes it. (R382) -/
  | cntcfgWrite (a : BitVec 6)
  /-- QCFG_WRITE: Sets a queue's budget, threshold and priority, clamped by the fen's limits. (R378) -/
  | qcfgWrite (a : BitVec 6)
  /-- FENCFG_WRITE: Sets a fen's WDMAX, WEIGHT and PFLOOR, clamping every queue. (R378) -/
  | fencfgWrite (a : BitVec 6)
  /-- REGRATE_WRITE: Sets a bandwidth regulator's rates and buckets. (R381) -/
  | regrateWrite (a : BitVec 6)
  /-- OLCTL_WRITE: Sets the order-log mode and restarts launch tags. (R363) -/
  | olctlWrite (a : BitVec 6)
  /-- FCOPY: Fetch record copying a source stream byte for byte into the core. (R199) -/
  | fcopy (r : Record)
  /-- FGATH: Fetch record gathering rows by an index list. (R200) -/
  | fgath (r : Record)
  /-- FXFM: Fetch record expanding codebook indices, widening or narrowing. (R203) -/
  | fxfm (r : Record)
  /-- CBLOAD: Loads a codebook bank after its use count reaches zero. (R205) -/
  | cbload (r : Record)
  /-- FCRC: Fetch record computing CRC-64 over a source stream. (R206) -/
  | fcrc (r : Record)
  /-- SCOPY: Store record copying a source stream out of the core. (R199) -/
  | scopy (r : Record)
  /-- SSCAT: Store record scattering rows by an index list. (R200) -/
  | sscat (r : Record)
  /-- SREDS: Store record applying a stream as non-returning reductions. (R202) -/
  | sreds (r : Record)
  /-- SMCAST: Store record writing a stream to the same offset in several cores. (R201) -/
  | smcast (r : Record)
  /-- SCRC: Store record computing CRC-64 over a source stream. (R206) -/
  | scrc (r : Record)
  /-- MLDW: Loads the shadow weight plane and sets its descriptor. (R182) -/
  | mldw (r : Record)
  /-- MSTRM: Streams activation rows past the active plane into an accumulator tile. (R184) -/
  | mstrm (r : Record)
  /-- MSWAP: Exchanges the active and shadow weight planes. (R183) -/
  | mswap (r : Record)
  /-- MDRAIN: Converts an accumulator tile and writes or sends it. (R185) -/
  | mdrain (r : Record)
  /-- MZERO: Zeroes an accumulator tile. (R187) -/
  | mzero (r : Record)
  /-- MCVT: Converts an accumulator tile to a row-major tile, optionally block-quantised. (R186) -/
  | mcvt (r : Record)
  /-- SCAND: Diagonal compensated scan over a chunk of tokens. (R190) -/
  | scand (r : Record)
  /-- SCANM: Matrix-state compensated scan over a chunk of tokens. (R191) -/
  | scanm (r : Record)
  /-- SEMIT: Reads out a resident state without advancing it. (R192) -/
  | semit (r : Record)
  /-- SCMPCT: Renormalises and fades pairs, or packs them to f32. (R193) -/
  | scmpct (r : Record)
  /-- NOP: Shared-half word that has no effect. (R93) -/
  | nop
  /-- RET: Sequencer return: jumps to lr. (R97) -/
  | ret
  /-- ESTOP: Ends the executing non-sequencer engine's stream for the step. (R94) -/
  | estop
  /-- MREL: Withdraws the matrix lease request. (R140) -/
  | mrel
  /-- SREL: Withdraws the scan lease request. (R140) -/
  | srel
  /-- WDONE: Ends the step: waits for outstanding work, publishes, fences, withdraws leases and reports. (R219) -/
  | wdone
  /-- ERET: Returns from a trap, restoring the level and re-injecting in-flight results. (R336) -/
  | eret
  /-- SWAPX: Exchanges context banks to enter or leave a service context. (R342) -/
  | swapx
  /-- REDUCTION_APPLIED: A flushed combining-buffer entry is applied at its home as one write. (R307) -/
  | reductionApplied (id : Nat)
  /-- WALK: A page-table walk or level-2 fill ends with page, no page or refused. (R316) -/
  | walk (id : Nat)
  /-- LEASE_GRANT: A free matrix or scan unit grants its lease round-robin to a requester. (R14) -/
  | leaseGrant (core unit : Nat)
  /-- RESULT_LANDS: A fixed-latency result is written at the end of its L-th unfrozen clock. (R227) -/
  | resultLands (g e : Nat)
  /-- OPERATION_COMPLETES: A token-posting operation completes, lands its destination and raises its token. (R242) -/
  | operationCompletes (id : Nat)
  /-- WAIT_ENDS: A waiting group's condition becomes true and the group issues. (R237) -/
  | waitEnds (g e : Nat)
  /-- TRANSFER_RECORD_BEGINS: A transfer record whose wait is met and operands pass begins, up to eight in flight. (R198) -/
  | transferRecordBegins (g e : Nat)
  /-- TRANSFER_RECORD_COMPLETES: A transfer record's writes have performed and it raises ptok. (R198) -/
  | transferRecordCompletes (id : Nat)
  /-- COMMAND_BEGINS: An accepted matrix or scan command begins on its path in acceptance order. (R170) -/
  | commandBegins (core path : Nat)
  /-- COMMAND_COMPLETES: A matrix or scan command's writes have performed and it raises ptok with status. (R171) -/
  | commandCompletes (core path : Nat)
  /-- TRAP_TAKEN: A trap captures the exposed pipelines, writes the trap frame and enters the handler. (R331) -/
  | trapTaken (g e : Nat) (c : Cause) (tval : BitVec 64) (sw : BitVec 16)
  /-- SHADOW_SWAP: Exchanges the active and shadow context banks over 24 clocks. (R339) -/
  | shadowSwap (g : Nat)
  /-- SPILL_DONE: The spill engine finishes writing a displaced context image. (R341) -/
  | spillDone (g : Nat)
  /-- CONTEXT_FILL: A spilled context is read back into the shadow bank. (R342) -/
  | contextFill (g : Nat)
  /-- LAUNCH_START: A queue starts its head launch once its record passes checks and its conditions hold. (R259) -/
  | launchStart (q : Nat)
  /-- REFUSED_LAUNCH: A refused record completes with BADLNR once the previous launch of its queue completes. (R254) -/
  | refusedLaunch (q : Nat)
  /-- PLACEMENT: A walker chooses a queue by priority and deficit and places one step. (R262) -/
  | placement (die : Nat)
  /-- GANG_PLACEMENT: A walker places every item of a gang in one act once enough sub-cores are free. (R257) -/
  | gangPlacement (die : Nat)
  /-- PREEMPTION: A walker places an urgent step on a victim sub-core by a shadow swap. (R264) -/
  | preemption (die : Nat)
  /-- WITHDRAWAL: The walker withdraws an unpublished step and discards its shadows for a later rerun. (R261) -/
  | withdrawal (g bank : Nat)
  /-- LAUNCH_END: A launch ends normally, on a terminal fault or on expiry, and its running steps are ended. (R266) -/
  | launchEnd (lid : Nat)
  /-- COMPLETION_RECORD: The walker writes a completion record, advances QDONE and raises the LNCH token. (R267) -/
  | completionRecord (q : Nat)
  /-- WATCHDOG_EXPIRY: A launch's budget expires and the launch ends with STATUS 2. (R379) -/
  | watchdogExpiry (lid : Nat)
  /-- COPY_RECORD: The walker performs the copies of a FORMAT 2 record. (R403) -/
  | copyRecord (lid : Nat)
  /-- MERE_EXTENSION: After 256 stalled clocks the Mere lends one extension to the smallest full queue or ring. (R298) -/
  | mereExtension (core : Nat)
  /-- PACKET_APPLIED: A receive agent applies the next in-sequence packet of a stream. (R353) -/
  | packetApplied (id : Nat)
  /-- CREDIT_RETURN: A credit packet returns a credit to a core's network interface. (R352) -/
  | creditReturn (core agent : Nat)
  /-- TIMEOUT_FIRES: An adaptive lane's detector fires after 2,048 clocks without progress. (R354) -/
  | timeoutFires (id : Nat)
  /-- WISP_CAPTURE: A router with a fired detector captures the Wisp and drains one packet to the Slough lane. (R355) -/
  | wispCapture (die : Nat)
  /-- SLOUGH_ARRIVAL: A drained packet reaches its receive agent over the Slough lane. (R356) -/
  | sloughArrival (id : Nat)
  /-- FLIT_RETRY: A hop whose flit check fails sends the flit again. (R349) -/
  | flitRetry (core port : Nat)
  /-- RING_ENTRY_DELIVERED: A ring entry reaches its ring ingress queue. (R359) -/
  | ringEntryDelivered (core ch : Nat)
  /-- PEER_LINK_UP: An enabled peer ring link trains and joins the bound fen's ring. (R361) -/
  | peerLinkUp (link : Nat)
  /-- PEER_LINK_DOWN: A peer ring link goes down and sends are refused until it returns. (R361) -/
  | peerLinkDown (link : Nat)
  /-- HELD: In replay an operation has waited 2,048 clocks for its logged turn. (R366) -/
  | held (fen : Nat)
  /-- XINV_FLUSH: Drops cached translations of a page. (R319) -/
  | xinvFlush (fen : Nat) (va : BitVec 56)
  /-- XINV_REVOKE: Flushes a page and frees its handle-table entries. (R319) -/
  | xinvRevoke (fen : Nat) (va : BitVec 56)
  /-- XINV_SUSPEND: Flushes a page and marks its handle entries absent. (R319) -/
  | xinvSuspend (fen : Nat) (va : BitVec 56)
  /-- XINV_RESUME: Re-walks a page and makes surviving handle entries present. (R319) -/
  | xinvResume (fen : Nat) (va : BitVec 56)
  /-- REGISTER_WRITE: Host write to a BAR register that has no behaviour of its own. (R385) -/
  | registerWrite (vf off : Nat) (v : BitVec 64)
  /-- SESSION_REGISTER_WRITE: Host write to a fen's frame-area registers, ignored with BADCMD while in use. (R278) -/
  | sessionRegisterWrite (vf off : Nat) (v : BitVec 64)
  /-- QUEUE_CONFIG_WRITE: Writes a queue block's ring configuration, refused with KERR while busy. (R386) -/
  | queueConfigWrite (vf q off : Nat) (v : BitVec 64)
  /-- QKICK: Host kick; the device reads stamps and appends matching entries to the launch queue. (R388) -/
  | qkick (vf q : Nat) (v : BitVec 32)
  /-- STAMP_RETRY: The device re-reads a non-matching stamp 250 ns later, up to eight times. (R388) -/
  | stampRetry (q : Nat)
  /-- QPOLL: A poll tick resumes taking host entries at QHEAD. (R388) -/
  | qpoll (q : Nat)
  /-- CHEAD: Host consumes completion records, freeing room for held completions. (R389) -/
  | chead (vf q : Nat) (v : BitVec 32)
  /-- SCRKICK: Kicks the session command ring. (R390) -/
  | scrkick (vf : Nat) (v : BitVec 32)
  /-- SEVHEAD: Host consumes session events, freeing room for held events and commands. (R390) -/
  | sevhead (vf : Nat) (v : BitVec 32)
  /-- EVHEAD: Host consumes device event-log entries. (R393) -/
  | evhead (v : BitVec 32)
  /-- CREATE: Session command creating a session entry. (R280) -/
  | create (fen : Nat) (c : SessCmd)
  /-- APPEND: Session command counting appended token records. (R280) -/
  | append (fen : Nat) (c : SessCmd)
  /-- CLOSE: Session command freeing a session, deferred while BATCHED. (R280) -/
  | close (fen : Nat) (c : SessCmd)
  /-- ENABLE: Session command returning a HELD session to IDLE. (R280) -/
  | enable (fen : Nat) (c : SessCmd)
  /-- FCREATE: Session command allocating a zeroed frame. (R284) -/
  | fcreate (fen : Nat) (c : SessCmd)
  /-- FFREE: Session command freeing a frame. (R284) -/
  | ffree (fen : Nat) (c : SessCmd)
  /-- SDROP: Session command clearing a snapshot's software hold. (R275) -/
  | sdrop (fen : Nat) (c : SessCmd)
  /-- SESSION_AGE: A partial chunk reaches MAXWAIT and the session becomes READY. (R280) -/
  | sessionAge (fen sess : Nat)
  /-- BATCH_FORM: The session sequencer forms a batch into a free region set. (R281) -/
  | batchForm (fen model : Nat)
  /-- STORE_BACK: After the batch launch completes, stores each session's state back to its frame. (R282) -/
  | storeBack (fen model set : Nat)
  /-- FENFORM: Management request forming a fen. (R391) -/
  | fenform (r : MgmtReq)
  /-- FENEND: Management request ending a fen. (R391) -/
  | fenend (r : MgmtReq)
  /-- COREMOVE: Management request moving a core; LEAVING begins. (R373) -/
  | coremove (r : MgmtReq)
  /-- PEERLINK: Management request enabling, disabling and binding a peer link. (R361) -/
  | peerlink (r : MgmtReq)
  /-- REGSET: Management request setting a regulator. (R381) -/
  | regset (r : MgmtReq)
  /-- ATTEST: Management request returning a signed attestation report. (R395) -/
  | attest (r : MgmtReq)
  /-- HEALTH: Management request returning error counts and margins. (R392) -/
  | health (r : MgmtReq)
  /-- SVNRAISE: Management request raising the fused minimum security version. (R391) -/
  | svnraise (r : MgmtReq)
  /-- SCRUB_POINT: LEAVING conditions hold and the core's scrub begins. (R374) -/
  | scrubPoint (core : Nat)
  /-- JOINING: Zeroing ends and the core joins its target fen or becomes UNOWNED. (R375) -/
  | joining (core : Nat)
  /-- MEMBER: JOINING ends and the core becomes a member. (R375) -/
  | member (core : Nat)
  /-- BOOT: At reset the ROM verifies the image and firmware brings the device to READY. (R394) -/
  | boot
  /-- BANK_RETENTION: A state-store bank idle for 4,096 clocks enters retention. (R397) -/
  | bankRetention (core bank : Nat)
  /-- LIMITER_WINDOW: Each 64-clock window the current limiter freezes every engine for F clocks. (R398) -/
  | limiterWindow (f : Nat)
  /-- MARGIN_REPORT: Path-delay monitors report margin; an emergency forces the limiter's maximum. (R399) -/
  | marginReport (core : Nat) (ps : Int)
  /-- VOLTAGE_ADJUST: Firmware reads margins every 100 ms and raises supply voltage. (R399) -/
  | voltageAdjust (core : Nat)
  /-- SRAM_ERROR: A SECDED check corrects a single-bit error or poisons on a double-bit one. (R401) -/
  | sramError (core : Nat) (site : SramSite) (double : Bool)
  /-- RESERVED_SESSION_COMMAND: A session command with OP 0 or 8-255 is taken from the command ring, changes nothing and posts BADCMD. (R284) -/
  | reservedSessionCommand (fen : Nat) (c : SessCmd)
  /-- RESERVED_MANAGEMENT_REQUEST: A management request with CODE 0 or 9-255 is served, changes nothing and returns status BADREQ. (R391) -/
  | reservedManagementRequest (r : MgmtReq)
deriving DecidableEq, Repr

end Sys2Proof
end

