-- ==== Sys2Proof/WellFormed.lean ====
section
/-! DEFINITION. Which instructions are well formed, from the instruction alone (R40, R43 to R55, R148 to R167, R175, R194 to R196,
Table 2.14), and which engines have them (R34, R44). What a group refuses (R37 to R39) is in Machine/Group.lean. -/

namespace Sys2Proof

/-! ### Types (R50) -/

/-- f32, bf16 or f16. -/
def isF (t : BitVec 4) : Bool := t.toNat ≤ 2
/-- i8 to i64. -/
def isI (t : BitVec 4) : Bool := 7 ≤ t.toNat && t.toNat ≤ 10
/-- b8 to b64. -/
def isB (t : BitVec 4) : Bool := 11 ≤ t.toNat && t.toNat ≤ 14
/-- e4m3, e5m2 or i8. -/
def isQ (t : BitVec 4) : Bool := t == 3#4 || t == 4#4 || t == 7#4
/-- bf16, f16, e4m3, e5m2 or i8. -/
def isCb (t : Nat) : Bool := (1 ≤ t && t ≤ 4) || t == 7

/-- The pairs of Table 6.6: from-type, to-type. -/
def cvtOk (i o : Nat) : Bool :=
  let int := 7 ≤ o && o ≤ 10
  let raw := 11 ≤ o && o ≤ 14
  i != o &&
  (if i = 0 then (1 ≤ o && o ≤ 4) || int
   else if i = 1 || i = 2 then o ≤ 4 || int
   else if i = 3 || i = 4 then o ≤ 4
   else if i = 5 then o ≤ 1
   else if i = 7 || i = 8 then o ≤ 3 || o == 4 || int || raw
   else if i = 9 || i = 10 then o ≤ 2 || int || raw
   else if 11 ≤ i && i ≤ 14 then int || raw
   else false)

/-! ### Registers and operators -/

/-- A v field names v0–v47 (R49). -/
def vOk (v : BitVec 6) : Bool := v.toNat ≤ 47
def v2 (d a : BitVec 6) : Bool := vOk d && vOk a
def v3 (d a b : BitVec 6) : Bool := vOk d && vOk a && vOk b

/-- A CHK number lies in its file in some engine (Table 2.5). -/
def chkOk (f n : Nat) : Bool :=
  match f with | 0 => n ≤ 15 | 1 => n ≤ 3 | 2 => true | _ => n ≤ 23

/-- A CHK of file f and number n in engine e (Table 2.5). -/
def chkIn (e f n : Nat) : Bool := f ≤ 1 || e = 0 || (e = 1 && f = 2 && n ≤ 47)

/-- A PFX is legal in some engine (R40). -/
def pfxOk (t : BitVec 1) (k : BitVec 5) (p : BitVec 4) (r : BitVec 3) (x q m n : BitVec 1) : Bool :=
  (p == 0#4 || 8 ≤ p.toNat) && (r == 0#3 || 4 ≤ r.toNat) && (t == 1#1 || k == 0#5) &&
  !(t == 0#1 && p == 0#4 && r == 0#3 && x == 0#1 && q == 0#1 && m == 0#1 && n == 0#1) &&
  !(n == 1#1 && x == 0#1 && q == 0#1 && m == 0#1)

/-- The op field of AMO and AMOH: 0–10, FADD only at 32 bits, CAS with an even sv (R48). -/
def amoOk (v : BitVec 6) (o : BitVec 4) (w32 : Bool) : Bool :=
  o.toNat ≤ 10 && (o != 10#4 || w32) && (o != 9#4 || v.toNat % 2 == 0)
/-- The op field of RED and REDH: no SWAP and no CAS (R48). -/
def redOk (o : BitVec 4) (w32 : Bool) : Bool := o.toNat ≤ 7 || (o == 10#4 && w32)

/-! ### Records (R52 to R55, R194 to R196) -/

/-- A threshold that is not zero needs WE (R52). -/
def headerOk (r : Record) : Bool := r.we || r.thr == 0#16
def v3b (r : Record) : Bool := 8 ≤ r.variant.toNat
def v2b (r : Record) : Bool := r.variant.toNat / 4 % 2 == 1
def v0b (r : Record) : Bool := r.variant.toNat % 2 == 1
/-- SH of a transfer record (R54). -/
def isShaped (r : Record) : Bool := r.aux.toNat / 2048 % 2 == 1
/-- Header and aux of a transfer record (R52, R54). -/
def transferOk (r : Record) : Bool :=
  headerOk r && (if isShaped r then r.aux.toNat % 2048 == 0 else r.aux.toNat / 4096 == 0)

/-- A literal operand is in an accepted set: scratch, targets of the core-local space with their res0 bits (and the offset of mf
and sq) zero. Handles are accepted where the record takes them; what a handle or a register names is checked when the record
begins (R53, R175, R196). -/
def opIs (w : BitVec 32) (scratch : Bool) (targets : List Nat) : Bool :=
  match w.toNat / 2 ^ 30 with
  | 0 => scratch
  | 1 =>
    let t := w.toNat / 2 ^ 24 % 64
    targets.contains t && w.toNat / 2 ^ 22 % 4 == 0 && ((t != 1 && t != 3) || w.toNat % 2 ^ 22 == 0)
  | _ => true

/-- The sources of fetch and of store records (Table 8.2). -/
def fsrc (r : Record) : Bool := opIs r.opA true [0]
def ssrc (r : Record) : Bool := opIs r.opA true [0, 3]

/-- FXFM's transform and type (Table 8.3). -/
def fxfmOk (r : Record) : Bool :=
  let xf := r.variant.toNat % 8
  let t := r.typ.toNat
  (xf == 0 && t == 6) || ((xf == 1 || xf == 2) && 1 ≤ t && t ≤ 4 && !v3b r)

/-- SREDS's op and type (Table 8.2). -/
def sredsOk (op t : Nat) : Bool := (op ≤ 7 && (t == 9 || t == 10 || t == 13 || t == 14)) || (op == 10 && t == 0)

/-- Types of MDRAIN and MCVT (Table 7.3). -/
def drainType (t : Nat) : Bool := t ≤ 4 || (7 ≤ t && t ≤ 9)
def mcvtType (r : Record) : Bool :=
  let t := r.typ.toNat
  if v3b r then !v2b r && (t == 3 || t == 4 || t == 7) else if v2b r then t ≤ 2 else drainType t

/-- A chunk length of 0–64 (R54). -/
def chunkOk (r : Record) : Bool := r.aux.toNat / 256 ≤ 64
/-- Groups within the range that dv allows, which starts at 1 (R188, R194). -/
def groupsOk (r : Record) : Bool := 1 ≤ r.aux.toNat % 256 && r.aux.toNat % 256 ≤ 8 * 2 ^ (r.variant.toNat % 4)

/-! ### Events -/

/-- A site of an SRAM error (R401). -/
def siteOk : SramSite → Bool
  | .line k => k < 2 ^ 60
  | .handle f i => f < 16 && i < 8192
  | .vreg n bank r => n < 4 && bank < 2 && r < 48
  | .queue n bank q _ => n < 4 && bank < 2 && 7 ≤ q && q ≤ 9

/-- A management request as a port can carry it (R391). -/
def mgmtOk (r : MgmtReq) : Bool := r.port < 2 && r.payload.length ≤ 252

/-- The instruction is well formed. -/
def Instr.wf : Instr → Bool
  | .dly n => n != 0#16
  | .br _ => true
  | .beq _ _ _ => true
  | .bne _ _ _ => true
  | .blt _ _ _ => true
  | .bge _ _ _ => true
  | .bltu _ _ _ => true
  | .bgeu _ _ _ => true
  | .bqt _ => true
  | .bqf _ => true
  | .jal _ => true
  | .jr _ => true
  | .loop _ _ b => b != 0#16
  | .loopi _ _ b => b != 0#6
  | .adda _ _ _ => true
  | .suba _ _ _ => true
  | .addma _ _ _ _ => true
  | .addia _ _ _ => true
  | .andia _ _ _ => true
  | .sllia _ _ _ => true
  | .srlia _ _ _ => true
  | .movia _ _ _ => true
  | .movka _ _ _ => true
  | .moval _ _ => true
  | .movla _ _ => true
  | .twait _ _ => true
  | .twaitReg _ _ => true
  | .tpost _ n => n != 0#8
  | .tstat _ _ _ => true
  | .chk f n => chkOk f.toNat n.toNat
  | .selcShared _ _ _ _ => true
  | .pfx t k p r x q m n => pfxOk t k p r x q m n
  | .add _ _ _ => true
  | .sub _ _ _ => true
  | .and _ _ _ => true
  | .or _ _ _ => true
  | .xor _ _ _ => true
  | .andn _ _ _ => true
  | .orn _ _ _ => true
  | .xnor _ _ _ => true
  | .sll _ _ _ => true
  | .srl _ _ _ => true
  | .sra _ _ _ => true
  | .rol _ _ _ => true
  | .ror _ _ _ => true
  | .mul _ _ _ => true
  | .mulh _ _ _ => true
  | .mulhu _ _ _ => true
  | .mulhsu _ _ _ => true
  | .div _ _ _ => true
  | .divu _ _ _ => true
  | .rem _ _ _ => true
  | .remu _ _ _ => true
  | .min _ _ _ => true
  | .max _ _ _ => true
  | .minu _ _ _ => true
  | .maxu _ _ _ => true
  | .slt _ _ _ => true
  | .sltu _ _ _ => true
  | .seq _ _ _ => true
  | .sne _ _ _ => true
  | .addw _ _ _ => true
  | .subw _ _ _ => true
  | .sllw _ _ _ => true
  | .srlw _ _ _ => true
  | .sraw _ _ _ => true
  | .mulw _ _ _ => true
  | .clmul _ _ _ => true
  | .clmulh _ _ _ => true
  | .clz _ _ => true
  | .ctz _ _ => true
  | .popc _ _ => true
  | .brev _ _ => true
  | .bswap _ _ => true
  | .sextb _ _ => true
  | .sexth _ _ => true
  | .sextw _ _ => true
  | .addi _ _ _ => true
  | .andi _ _ _ => true
  | .ori _ _ _ => true
  | .xori _ _ _ => true
  | .slli _ _ _ => true
  | .srli _ _ _ => true
  | .srai _ _ _ => true
  | .rori _ _ _ => true
  | .slti _ _ _ => true
  | .sltiu _ _ _ => true
  | .movw _ _ _ => true
  | .movk _ _ _ => true
  | .sel _ _ _ _ => true
  | .selc _ _ _ _ => true
  | .kset _ _ => true
  | .kget _ _ => true
  | .ldb _ _ _ _ _ => true
  | .stb _ _ _ _ _ => true
  | .ldScratch _ _ _ _ _ _ => true
  | .ldxScratch _ _ _ _ z _ => z != 3#2
  | .stScratch _ _ _ _ _ => true
  | .ldState _ _ _ _ _ _ => true
  | .stState _ _ _ _ _ => true
  | .ldHandle _ _ _ _ _ _ => true
  | .ldxHandle _ _ _ _ z _ => z != 3#2
  | .stHandle _ _ _ _ _ => true
  | .amo32 v _ _ o _ => amoOk v o true
  | .amo64 v _ _ o _ => amoOk v o false
  | .amoh32 v _ _ o _ => amoOk v o true
  | .amoh64 v _ _ o _ => amoOk v o false
  | .red32 _ _ _ o _ => redOk o true
  | .red64 _ _ _ o _ => redOk o false
  | .redh32 _ _ _ o _ => redOk o true
  | .redh64 _ _ _ o _ => redOk o false
  | .fence k p m => k != 3#2 && p.toNat ≤ 4 && m != 0#16
  | .publ _ => true
  | .trn _ _ _ k => k != 3#2
  | .hmov _ _ => true
  | .hrd _ _ => true
  | .hwr _ _ => true
  | .hnarrow _ _ _ => true
  | .hrev _ => true
  | .rclaim _ _ _ => true
  | .rcommit _ _ => true
  | .rwaitf _ _ => true
  | .rwaite _ _ => true
  | .rrel _ _ => true
  | .rtail _ _ => true
  | .cpush _ x => x.toNat % 2 == 0 && 2 ≤ x.toNat && x.toNat ≤ 62
  | .qpush _ q => q.toNat ≤ 3
  | .qpop _ q => q == 4#3 || q == 5#3
  | .bqpush _ => true
  | .park _ _ _ => true
  | .mlease n => 1 ≤ n.toNat && n.toNat ≤ 64
  | .slease n => 1 ≤ n.toNat && n.toNat ≤ 64
  | .rand _ _ => true
  | .frmLd _ _ _ => true
  | .frmSt _ _ _ => true
  | .frmSnap _ _ _ => true
  | .frmFork _ _ => true
  | .frmRbk _ _ _ => true
  | .frmFind _ _ => true
  | .frmFindv _ _ _ => true
  | .csrr _ n => (Machine.sysReg n.toNat).isSome
  | .csrw _ n => (Machine.sysReg n.toNat).isSome && !Machine.hasOwnWrite n.toNat
  | .cntr _ n => Machine.isCounter n.toNat
  | .wget _ => true
  | .wsteal _ _ => true
  | .wbar l => 1 ≤ l.toNat && l.toNat ≤ 6
  | .lnch _ _ => true
  | .trap _ => true
  | .bz _ _ => true
  | .bnz _ _ => true
  | .vadd d a b t => v3 d a b && isF t
  | .vsub d a b t => v3 d a b && isF t
  | .vmul d a b t => v3 d a b && isF t
  | .vfma d a b t => v3 d a b && isF t
  | .vfms d a b t => v3 d a b && isF t
  | .vfnma d a b t => v3 d a b && isF t
  | .vmin d a b t => v3 d a b && isF t
  | .vmax d a b t => v3 d a b && isF t
  | .vabs d a t => v2 d a && isF t
  | .vneg d a t => v2 d a && isF t
  | .vexp2 d a t => v2 d a && t == 0#4
  | .vlog2 d a t => v2 d a && t == 0#4
  | .vrcp d a t => v2 d a && t == 0#4
  | .vrsq d a t => v2 d a && t == 0#4
  | .vsqrt d a t => v2 d a && isF t
  | .vfloor d a t => v2 d a && isF t
  | .vceil d a t => v2 d a && isF t
  | .vrint d a t => v2 d a && isF t
  | .vcmp d a b t c => v3 d a b && (isF t || isI t) && (c != 3#2 || isF t)
  | .vsel d a b t => v3 d a b && t != 15#4
  | .vselc d a b t => v3 d a b && t != 15#4
  | .viadd d a b t w => v3 d a b && isI t && w.toNat ≤ 1
  | .visub d a b t w => v3 d a b && isI t && w.toNat ≤ 1
  | .vimul d a b t => v3 d a b && isI t
  | .vimulh d a b t => v3 d a b && isI t
  | .vimulhu d a b t => v3 d a b && isI t
  | .vand d a b t => v3 d a b && isB t
  | .vor d a b t => v3 d a b && isB t
  | .vxor d a b t => v3 d a b && isB t
  | .vandn d a b t => v3 d a b && isB t
  | .vshl d a b t => v3 d a b && (isI t || isB t)
  | .vshr d a b t => v3 d a b && (isI t || isB t)
  | .vsra d a b t => v3 d a b && (isI t || isB t)
  | .vimin d a b t => v3 d a b && isI t
  | .vimax d a b t => v3 d a b && isI t
  | .viminu d a b t => v3 d a b && isI t
  | .vimaxu d a b t => v3 d a b && isI t
  | .vcvt d a o _ i => v2 d a && cvtOk i.toNat o.toNat
  | .vqblk d a v t => v3 d a v && isQ t && d != v
  | .vdqblk d a v t => v3 d a v && isQ t
  | .vpsum d a t => v2 d a && (t == 0#4 || t == 9#4)
  | .vpsumx d a t => v2 d a && (t == 0#4 || t == 9#4)
  | .vpmax d a t => v2 d a && (t == 0#4 || t == 9#4)
  | .vpxor d a t => v2 d a && t == 13#4
  | .vredsum d a t => v2 d a && (t == 0#4 || t == 9#4)
  | .vredmax d a t => v2 d a && (t == 0#4 || t == 9#4)
  | .vredmin d a t => v2 d a && (t == 0#4 || t == 9#4)
  | .vredsq d a t => v2 d a && (t == 0#4 || t == 9#4)
  | .vtopk d a v t _ => v3 d a v && (t == 0#4 || t == 1#4) && d != v
  | .vperm d a b t => v3 d a b && t != 6#4 && t != 15#4
  | .vrot d a n => v2 d a && n.toNat ≤ 2047
  | .vwin d _ _ => vOk d
  | .vsmax d a v t => v3 d a v && t == 0#4 && v.toNat % 2 == 0 && v.toNat ≤ 46 && d != v && d.toNat != v.toNat + 1
  | .vld v _ _ _ => vOk v
  | .vst v _ _ _ => vOk v
  | .vldState v _ _ _ => vOk v
  | .vstState v _ _ _ => vOk v
  | .vpopq d q t => vOk d && q.toNat ≤ 3 && (t == 0#4 || t == 1#4 || t == 9#4 || t == 10#4 || t == 14#4)
  | .vpushq a q t => vOk a && (q == 4#3 || q == 5#3) && (t == 0#4 || t == 9#4 || t == 13#4 || t == 14#4)
  | .vsplat d k _ => vOk d && k != 3#2
  | .vmov d a t => v2 d a && t != 15#4
  | .vrxpop d => vOk d
  | .statusWrite _ => true
  | .fadeflWrite _ => true
  | .fadedefWrite _ => true
  | .rdcfgWrite _ => true
  | .cntcfgWrite _ => true
  | .qcfgWrite _ => true
  | .fencfgWrite _ => true
  | .regrateWrite _ => true
  | .olctlWrite _ => true
  | .fcopy r => transferOk r && r.variant == 0#4 && r.typ.toNat == 11 && fsrc r && opIs r.opB true [0, 1, 2]
  | .fgath r => transferOk r && isShaped r && (r.typ.toNat == 12 || r.typ.toNat == 13) && fsrc r && opIs r.opB true [0, 1]
  | .fxfm r => transferOk r && fxfmOk r && fsrc r && opIs r.opB true [0, 1, 2]
  | .cbload r => transferOk r && r.variant.toNat % 8 == 0 && isCb r.typ.toNat && !isShaped r && r.aux == 1#16 && fsrc r && r.opB == 0#32
  | .fcrc r => transferOk r && r.variant.toNat % 8 == 0 && r.typ.toNat == 14 && fsrc r && opIs r.opB true [0]
  | .scopy r => transferOk r && r.variant == 0#4 && r.typ.toNat == 11 && ssrc r && opIs r.opB true []
  | .sscat r => transferOk r && isShaped r && (r.typ.toNat == 12 || r.typ.toNat == 13) && ssrc r && opIs r.opB true []
  | .sreds r => transferOk r && sredsOk r.variant.toNat r.typ.toNat && ssrc r && opIs r.opB true []
  | .smcast r => transferOk r && r.typ.toNat == 11 && ssrc r && opIs r.opB true []
  | .scrc r => transferOk r && r.variant.toNat % 8 == 0 && r.typ.toNat == 14 && ssrc r && opIs r.opB true [0]
  | .mldw r => headerOk r && r.variant.toNat % 4 == 0 && isCb r.typ.toNat && !(r.typ.toNat == 7 && v3b r) && r.opB == 0x42000000#32 && (if v2b r then r.opA == 0#32 else opIs r.opA true [0, 1])
  | .mstrm r => headerOk r && r.variant.toNat % 4 == 0 && isCb r.typ.toNat && !(r.typ.toNat == 7 && v3b r) && opIs r.opA true [0, 1] && opIs r.opB false [0]
  | .mswap r => headerOk r && r.variant == 0#4 && r.typ.toNat == 0 && r.opA == 0#32 && r.opB == 0#32 && r.aux == 0#16
  | .mdrain r => headerOk r && drainType r.typ.toNat && opIs r.opA false [0] && (if v0b r then 2 ≤ r.variant.toNat && r.opB == 0#32 else opIs r.opB true [0])
  | .mzero r => headerOk r && r.variant == 0#4 && (r.typ.toNat == 0 || r.typ.toNat == 9) && r.opA == 0#32 && r.aux == 0#16 && opIs r.opB false [0]
  | .mcvt r => headerOk r && r.variant.toNat % 4 == 0 && mcvtType r && opIs r.opA false [0] && opIs r.opB true [0]
  | .scand r => headerOk r && r.variant.toNat % 8 == 0 && r.typ.toNat == 0 && chunkOk r && opIs r.opA true (if v3b r then [0] else [0, 1]) && opIs r.opB false [0]
  | .scanm r => headerOk r && !v2b r && r.typ.toNat == 0 && chunkOk r && groupsOk r && opIs r.opA true (if v3b r then [0] else [0, 1]) && opIs r.opB false [0]
  | .semit r => headerOk r && !v2b r && (if v3b r then groupsOk r else r.variant == 0#4) && r.typ.toNat == 0 && chunkOk r && opIs r.opA false [0] && opIs r.opB true [0]
  | .scmpct r => headerOk r && r.variant.toNat % 8 == 0 && r.typ.toNat == 0 && chunkOk r && (if v3b r then opIs r.opA true [0] else r.opA == 0#32) && opIs r.opB (v3b r) [0]
  | .nop => true
  | .ret => true
  | .estop => true
  | .mrel => true
  | .srel => true
  | .wdone => true
  | .eret => true
  | .swapx => true
  | .reductionApplied _ => true
  | .walk _ => true
  | .leaseGrant core unit => core < 96 && unit < 2
  | .resultLands g e => g < 384 && e < 5
  | .operationCompletes _ => true
  | .waitEnds g e => g < 384 && e < 5
  | .transferRecordBegins g e => g < 384 && (e == 2 || e == 3)
  | .transferRecordCompletes _ => true
  | .commandBegins core path => core < 96 && path < 4
  | .commandCompletes core path => core < 96 && path < 4
  | .trapTaken g e _ _ _ => g < 384 && e < 5
  | .shadowSwap g => g < 384
  | .spillDone g => g < 384
  | .contextFill g => g < 384
  | .launchStart q => q < 256
  | .refusedLaunch q => q < 256
  | .placement die => die < 2
  | .gangPlacement die => die < 2
  | .preemption die => die < 2
  | .withdrawal g bank => g < 384 && bank < 2
  | .launchEnd _ => true
  | .completionRecord q => q < 256
  | .watchdogExpiry _ => true
  | .copyRecord _ => true
  | .mereExtension core => core < 96
  | .packetApplied _ => true
  | .creditReturn core _ => core < 96
  | .timeoutFires _ => true
  | .wispCapture die => die < 2
  | .sloughArrival _ => true
  | .flitRetry core port => core < 96 && port < 6
  | .ringEntryDelivered core ch => core < 97 && ch < 4
  | .peerLinkUp link => link < 2
  | .peerLinkDown link => link < 2
  | .held fen => fen < 16
  | .xinvFlush fen _ => fen < 16
  | .xinvRevoke fen _ => fen < 16
  | .xinvSuspend fen _ => fen < 16
  | .xinvResume fen _ => fen < 16
  | .registerWrite vf _ _ => vf < 65
  | .sessionRegisterWrite vf _ _ => vf < 65
  | .queueConfigWrite vf q _ _ => vf < 65 && q < 256
  | .qkick vf q _ => vf < 65 && q < 256
  | .stampRetry q => q < 256
  | .qpoll q => q < 256
  | .chead vf q _ => vf < 65 && q < 256
  | .scrkick vf _ => vf < 65
  | .sevhead vf _ => vf < 65
  | .evhead _ => true
  | .create fen c => fen < 16 && c.op == 1#8
  | .append fen c => fen < 16 && c.op == 2#8
  | .close fen c => fen < 16 && c.op == 3#8
  | .enable fen c => fen < 16 && c.op == 4#8
  | .fcreate fen c => fen < 16 && c.op == 5#8
  | .ffree fen c => fen < 16 && c.op == 6#8
  | .sdrop fen c => fen < 16 && c.op == 7#8
  | .sessionAge fen sess => fen < 16 && sess < 65536
  | .batchForm fen model => fen < 16 && model < 64
  | .storeBack fen model set => fen < 16 && model < 64 && set < 2
  | .fenform r => mgmtOk r && r.code == 1#8
  | .fenend r => mgmtOk r && r.code == 2#8
  | .coremove r => mgmtOk r && r.code == 3#8
  | .peerlink r => mgmtOk r && r.code == 4#8
  | .regset r => mgmtOk r && r.code == 5#8
  | .attest r => mgmtOk r && r.code == 6#8
  | .health r => mgmtOk r && r.code == 7#8
  | .svnraise r => mgmtOk r && r.code == 8#8
  | .scrubPoint core => core < 96
  | .joining core => core < 96
  | .member core => core < 96
  | .boot => true
  | .bankRetention core bank => core < 96 && bank < 16
  | .limiterWindow f => f ≤ 48
  | .marginReport core _ => core < 96
  | .voltageAdjust core => core < 96
  | .sramError core site _ => core < 96 && siteOk site
  | .reservedSessionCommand fen _ => fen < 16
  | .reservedManagementRequest r => mgmtOk r && (r.code == 0#8 || 9 ≤ r.code.toNat)

/-! ### Engines -/

/-- Which engines have an instruction. -/
inductive Home where
  /-- every engine (Table 2.4) -/
  | shared
  /-- CHK of a file and number (Table 2.5) -/
  | check (f n : Nat)
  /-- every engine but the sequencer (ESTOP) -/
  | ring
  /-- PFX: T is clear; only T and token are set (R40) -/
  | prefixed (noT onlyT : Bool)
  | sequencer
  | vector
  /-- a record of the fetch engine (2), store engine (3) or array port (4) (Table 2.13) -/
  | record (e : Nat)
  /-- no word encodes it -/
  | event
deriving DecidableEq, Repr

def Instr.home : Instr → Home
  | .nop | .dly _ | .br _ | .beq _ _ _ | .bne _ _ _ | .blt _ _ _ | .bge _ _ _ | .bltu _ _ _ | .bgeu _ _ _ | .jal _ |
    .jr _ | .loop _ _ _ | .loopi _ _ _ | .adda _ _ _ | .suba _ _ _ | .addma _ _ _ _ | .addia _ _ _ | .andia _ _ _ |
    .sllia _ _ _ | .srlia _ _ _ | .movia _ _ _ | .movka _ _ _ | .moval _ _ | .movla _ _ | .twait _ _ | .twaitReg _ _ |
    .tpost _ _ | .tstat _ _ _ | .selcShared _ _ _ _ => .shared
  | .chk f n => .check f.toNat n.toNat
  | .estop => .ring
  | .pfx t _ p r x q m n => .prefixed (t == 0#1) (p == 0#4 && r == 0#3 && x == 0#1 && q == 0#1 && m == 0#1 && n == 0#1)
  | .ret | .add _ _ _ | .sub _ _ _ | .and _ _ _ | .or _ _ _ | .xor _ _ _ | .andn _ _ _ | .orn _ _ _ | .xnor _ _ _ |
    .sll _ _ _ | .srl _ _ _ | .sra _ _ _ | .rol _ _ _ | .ror _ _ _ | .mul _ _ _ | .mulh _ _ _ | .mulhu _ _ _ |
    .mulhsu _ _ _ | .div _ _ _ | .divu _ _ _ | .rem _ _ _ | .remu _ _ _ | .min _ _ _ | .max _ _ _ | .minu _ _ _ |
    .maxu _ _ _ | .slt _ _ _ | .sltu _ _ _ | .seq _ _ _ | .sne _ _ _ | .addw _ _ _ | .subw _ _ _ | .sllw _ _ _ |
    .srlw _ _ _ | .sraw _ _ _ | .mulw _ _ _ | .clmul _ _ _ | .clmulh _ _ _ | .clz _ _ | .ctz _ _ | .popc _ _ |
    .brev _ _ | .bswap _ _ | .sextb _ _ | .sexth _ _ | .sextw _ _ | .addi _ _ _ | .andi _ _ _ | .ori _ _ _ |
    .xori _ _ _ | .slli _ _ _ | .srli _ _ _ | .srai _ _ _ | .rori _ _ _ | .slti _ _ _ | .sltiu _ _ _ | .movw _ _ _ |
    .movk _ _ _ | .sel _ _ _ _ | .selc _ _ _ _ | .kset _ _ | .kget _ _ | .ldb _ _ _ _ _ | .stb _ _ _ _ _ |
    .ldScratch _ _ _ _ _ _ | .ldxScratch _ _ _ _ _ _ | .stScratch _ _ _ _ _ | .ldState _ _ _ _ _ _ |
    .stState _ _ _ _ _ | .ldHandle _ _ _ _ _ _ | .ldxHandle _ _ _ _ _ _ | .stHandle _ _ _ _ _ | .amo32 _ _ _ _ _ |
    .amo64 _ _ _ _ _ | .amoh32 _ _ _ _ _ | .amoh64 _ _ _ _ _ | .red32 _ _ _ _ _ | .red64 _ _ _ _ _ | .redh32 _ _ _ _ _ |
    .redh64 _ _ _ _ _ | .fence _ _ _ | .publ _ | .trn _ _ _ _ | .hmov _ _ | .hrd _ _ | .hwr _ _ | .hnarrow _ _ _ |
    .hrev _ | .rclaim _ _ _ | .rcommit _ _ | .rwaitf _ _ | .rwaite _ _ | .rrel _ _ | .rtail _ _ | .cpush _ _ |
    .qpush _ _ | .qpop _ _ | .bqpush _ | .park _ _ _ | .mlease _ | .slease _ | .mrel | .srel | .rand _ _ |
    .frmLd _ _ _ | .frmSt _ _ _ | .frmSnap _ _ _ | .frmFork _ _ | .frmRbk _ _ _ | .frmFind _ _ | .frmFindv _ _ _ |
    .csrr _ _ | .csrw _ _ | .cntr _ _ | .wget _ | .wsteal _ _ | .wbar _ | .wdone | .lnch _ _ | .trap _ | .eret |
    .swapx | .bz _ _ | .bnz _ _ | .statusWrite _ | .fadeflWrite _ | .fadedefWrite _ | .rdcfgWrite _ | .cntcfgWrite _ |
    .qcfgWrite _ | .fencfgWrite _ | .regrateWrite _ | .olctlWrite _ => .sequencer
  | .bqt _ | .bqf _ | .vadd _ _ _ _ | .vsub _ _ _ _ | .vmul _ _ _ _ | .vfma _ _ _ _ | .vfms _ _ _ _ | .vfnma _ _ _ _ |
    .vmin _ _ _ _ | .vmax _ _ _ _ | .vabs _ _ _ | .vneg _ _ _ | .vexp2 _ _ _ | .vlog2 _ _ _ | .vrcp _ _ _ |
    .vrsq _ _ _ | .vsqrt _ _ _ | .vfloor _ _ _ | .vceil _ _ _ | .vrint _ _ _ | .vcmp _ _ _ _ _ | .vsel _ _ _ _ |
    .vselc _ _ _ _ | .viadd _ _ _ _ _ | .visub _ _ _ _ _ | .vimul _ _ _ _ | .vimulh _ _ _ _ | .vimulhu _ _ _ _ |
    .vand _ _ _ _ | .vor _ _ _ _ | .vxor _ _ _ _ | .vandn _ _ _ _ | .vshl _ _ _ _ | .vshr _ _ _ _ | .vsra _ _ _ _ |
    .vimin _ _ _ _ | .vimax _ _ _ _ | .viminu _ _ _ _ | .vimaxu _ _ _ _ | .vcvt _ _ _ _ _ | .vqblk _ _ _ _ |
    .vdqblk _ _ _ _ | .vpsum _ _ _ | .vpsumx _ _ _ | .vpmax _ _ _ | .vpxor _ _ _ | .vredsum _ _ _ | .vredmax _ _ _ |
    .vredmin _ _ _ | .vredsq _ _ _ | .vtopk _ _ _ _ _ | .vperm _ _ _ _ | .vrot _ _ _ | .vwin _ _ _ | .vsmax _ _ _ _ |
    .vld _ _ _ _ | .vst _ _ _ _ | .vldState _ _ _ _ | .vstState _ _ _ _ | .vpopq _ _ _ | .vpushq _ _ _ | .vsplat _ _ _ |
    .vmov _ _ _ | .vrxpop _ => .vector
  | .fcopy _ => .record 2
  | .fgath _ => .record 2
  | .fxfm _ => .record 2
  | .cbload _ => .record 2
  | .fcrc _ => .record 2
  | .scopy _ => .record 3
  | .sscat _ => .record 3
  | .sreds _ => .record 3
  | .smcast _ => .record 3
  | .scrc _ => .record 3
  | .mldw _ => .record 4
  | .mstrm _ => .record 4
  | .mswap _ => .record 4
  | .mdrain _ => .record 4
  | .mzero _ => .record 4
  | .mcvt _ => .record 4
  | .scand _ => .record 4
  | .scanm _ => .record 4
  | .semit _ => .record 4
  | .scmpct _ => .record 4
  | .reductionApplied _ | .walk _ | .leaseGrant _ _ | .resultLands _ _ | .operationCompletes _ | .waitEnds _ _ |
    .transferRecordBegins _ _ | .transferRecordCompletes _ | .commandBegins _ _ | .commandCompletes _ _ |
    .trapTaken _ _ _ _ _ | .shadowSwap _ | .spillDone _ | .contextFill _ | .launchStart _ | .refusedLaunch _ |
    .placement _ | .gangPlacement _ | .preemption _ | .withdrawal _ _ | .launchEnd _ | .completionRecord _ |
    .watchdogExpiry _ | .copyRecord _ | .mereExtension _ | .packetApplied _ | .creditReturn _ _ | .timeoutFires _ |
    .wispCapture _ | .sloughArrival _ | .flitRetry _ _ | .ringEntryDelivered _ _ | .peerLinkUp _ | .peerLinkDown _ |
    .held _ | .xinvFlush _ _ | .xinvRevoke _ _ | .xinvSuspend _ _ | .xinvResume _ _ | .registerWrite _ _ _ |
    .sessionRegisterWrite _ _ _ | .queueConfigWrite _ _ _ _ | .qkick _ _ _ | .stampRetry _ | .qpoll _ | .chead _ _ _ |
    .scrkick _ _ | .sevhead _ _ | .evhead _ | .create _ _ | .append _ _ | .close _ _ | .enable _ _ | .fcreate _ _ |
    .ffree _ _ | .sdrop _ _ | .sessionAge _ _ | .batchForm _ _ | .storeBack _ _ _ | .fenform _ | .fenend _ |
    .coremove _ | .peerlink _ | .regset _ | .attest _ | .health _ | .svnraise _ | .scrubPoint _ | .joining _ |
    .member _ | .boot | .bankRetention _ _ | .limiterWindow _ | .marginReport _ _ | .voltageAdjust _ |
    .sramError _ _ _ | .reservedSessionCommand _ _ | .reservedManagementRequest _ => .event

/-- Engine `e` (0 sequencer, 1 vector, 2 fetch, 3 store, 4 array port) has the instruction. -/
def Instr.inEngine (e : Nat) (i : Instr) : Bool :=
  match i.home with
  | .shared => e < 5
  | .check f n => e < 5 && chkIn e f n
  | .ring => 1 ≤ e && e < 5
  | .prefixed noT onlyT => (e == 0 && onlyT) || (e == 1 && noT)
  | .sequencer => e == 0
  | .vector => e == 1
  | .record k => e == k
  | .event => false

end Sys2Proof
end

