-- ==== Sys2Proof/Decode.lean ====
section
/-! DEFINITION. The encoder and the decoder, from the encoding tables of the spec (R34 to R55): an engine reads a word as the
instruction of its map whose fields the word holds, and the word must be the encoding of that instruction, well formed. Any other
word is an illegal encoding (R56). Words are numbers; bit 31 is the stop bit, which no instruction holds. -/

namespace Sys2Proof

/-! ### Encoding -/

/-- A field in its place. -/
def put {n : Nat} (x : BitVec n) (lo : Nat) : Nat := x.toNat * 2 ^ lo

/-- A word from its fixed bits and its fields. -/
def word (m : Nat) (fs : List Nat) : Nat := fs.foldl (· + ·) m

/-- Bits [30:0] of an instruction's word; 0 for what no word encodes. -/
def encodeWord : Instr → Nat
  | .nop => word 0x01000000 []
  | .dly n => word 0x02000000 [put n 0]
  | .br o => word 0x03000000 [put o 0]
  | .beq a b o => word 0x04000000 [put a 20, put b 16, put o 0]
  | .bne a b o => word 0x05000000 [put a 20, put b 16, put o 0]
  | .blt a b o => word 0x06000000 [put a 20, put b 16, put o 0]
  | .bge a b o => word 0x07000000 [put a 20, put b 16, put o 0]
  | .bltu a b o => word 0x08000000 [put a 20, put b 16, put o 0]
  | .bgeu a b o => word 0x09000000 [put a 20, put b 16, put o 0]
  | .bqt o => word 0x0A800000 [put o 0]
  | .bqf o => word 0x0A000000 [put o 0]
  | .jal o => word 0x0B000000 [put o 0]
  | .jr a => word 0x0C000000 [put a 20]
  | .ret => word 0x0C080000 []
  | .loop l a b => word 0x0D000000 [put l 22, put a 18, put b 0]
  | .loopi l n b => word 0x0E000000 [put l 22, put n 6, put b 0]
  | .adda d a b => word 0x10000000 [put d 20, put a 16, put b 12]
  | .suba d a b => word 0x11000000 [put d 20, put a 16, put b 12]
  | .addma d a b c => word 0x12000000 [put d 20, put a 16, put b 12, put c 8]
  | .addia d a i => word 0x13000000 [put d 20, put a 16, put i 0]
  | .andia d a i => word 0x14000000 [put d 20, put a 16, put i 0]
  | .sllia d a n => word 0x15000000 [put d 20, put a 16, put n 0]
  | .srlia d a n => word 0x16000000 [put d 20, put a 16, put n 0]
  | .movia d h i => word 0x17000000 [put d 20, put h 18, put i 0]
  | .movka d h i => word 0x18000000 [put d 20, put h 18, put i 0]
  | .moval l a => word 0x19000000 [put l 21, put a 17]
  | .movla l a => word 0x19800000 [put l 21, put a 17]
  | .twait t n => word 0x20000000 [put t 19, put n 0]
  | .twaitReg t a => word 0x20040000 [put t 19, put a 0]
  | .tpost t n => word 0x21000000 [put t 19, put n 0]
  | .tstat t d c => word 0x22000000 [put t 19, put d 15, put c 14]
  | .chk f n => word 0x23000000 [put f 22, put n 16]
  | .selcShared d c x y => word 0x24000000 [put d 20, put c 16, put x 12, put y 8]
  | .estop => word 0x25000000 []
  | .pfx t k p r x q m n => word 0x3F000000 [put t 23, put k 18, put p 14, put r 11, put x 10, put q 9, put m 8, put n 7]
  | .add d a b => word 0x40000000 [put d 18, put a 12, put b 6]
  | .sub d a b => word 0x40000001 [put d 18, put a 12, put b 6]
  | .and d a b => word 0x40000002 [put d 18, put a 12, put b 6]
  | .or d a b => word 0x40000003 [put d 18, put a 12, put b 6]
  | .xor d a b => word 0x40000004 [put d 18, put a 12, put b 6]
  | .andn d a b => word 0x40000005 [put d 18, put a 12, put b 6]
  | .orn d a b => word 0x40000006 [put d 18, put a 12, put b 6]
  | .xnor d a b => word 0x40000007 [put d 18, put a 12, put b 6]
  | .sll d a b => word 0x40000008 [put d 18, put a 12, put b 6]
  | .srl d a b => word 0x40000009 [put d 18, put a 12, put b 6]
  | .sra d a b => word 0x4000000A [put d 18, put a 12, put b 6]
  | .rol d a b => word 0x4000000B [put d 18, put a 12, put b 6]
  | .ror d a b => word 0x4000000C [put d 18, put a 12, put b 6]
  | .mul d a b => word 0x40000010 [put d 18, put a 12, put b 6]
  | .mulh d a b => word 0x40000011 [put d 18, put a 12, put b 6]
  | .mulhu d a b => word 0x40000012 [put d 18, put a 12, put b 6]
  | .mulhsu d a b => word 0x40000013 [put d 18, put a 12, put b 6]
  | .div d a b => word 0x40000014 [put d 18, put a 12, put b 6]
  | .divu d a b => word 0x40000015 [put d 18, put a 12, put b 6]
  | .rem d a b => word 0x40000016 [put d 18, put a 12, put b 6]
  | .remu d a b => word 0x40000017 [put d 18, put a 12, put b 6]
  | .min d a b => word 0x40000018 [put d 18, put a 12, put b 6]
  | .max d a b => word 0x40000019 [put d 18, put a 12, put b 6]
  | .minu d a b => word 0x4000001A [put d 18, put a 12, put b 6]
  | .maxu d a b => word 0x4000001B [put d 18, put a 12, put b 6]
  | .slt d a b => word 0x4000001C [put d 18, put a 12, put b 6]
  | .sltu d a b => word 0x4000001D [put d 18, put a 12, put b 6]
  | .seq d a b => word 0x4000001E [put d 18, put a 12, put b 6]
  | .sne d a b => word 0x4000001F [put d 18, put a 12, put b 6]
  | .addw d a b => word 0x40000020 [put d 18, put a 12, put b 6]
  | .subw d a b => word 0x40000021 [put d 18, put a 12, put b 6]
  | .sllw d a b => word 0x40000022 [put d 18, put a 12, put b 6]
  | .srlw d a b => word 0x40000023 [put d 18, put a 12, put b 6]
  | .sraw d a b => word 0x40000024 [put d 18, put a 12, put b 6]
  | .mulw d a b => word 0x40000025 [put d 18, put a 12, put b 6]
  | .clmul d a b => word 0x40000028 [put d 18, put a 12, put b 6]
  | .clmulh d a b => word 0x40000029 [put d 18, put a 12, put b 6]
  | .clz d a => word 0x40000030 [put d 18, put a 12]
  | .ctz d a => word 0x40000031 [put d 18, put a 12]
  | .popc d a => word 0x40000032 [put d 18, put a 12]
  | .brev d a => word 0x40000033 [put d 18, put a 12]
  | .bswap d a => word 0x40000034 [put d 18, put a 12]
  | .sextb d a => word 0x40000035 [put d 18, put a 12]
  | .sexth d a => word 0x40000036 [put d 18, put a 12]
  | .sextw d a => word 0x40000037 [put d 18, put a 12]
  | .addi d a i => word 0x41000000 [put d 18, put a 12, put i 0]
  | .andi d a i => word 0x42000000 [put d 18, put a 12, put i 0]
  | .ori d a i => word 0x43000000 [put d 18, put a 12, put i 0]
  | .xori d a i => word 0x44000000 [put d 18, put a 12, put i 0]
  | .slli d a n => word 0x45000000 [put d 18, put a 12, put n 0]
  | .srli d a n => word 0x45000400 [put d 18, put a 12, put n 0]
  | .srai d a n => word 0x45000800 [put d 18, put a 12, put n 0]
  | .rori d a n => word 0x45000C00 [put d 18, put a 12, put n 0]
  | .slti d a i => word 0x46000000 [put d 18, put a 12, put i 0]
  | .sltiu d a i => word 0x47000000 [put d 18, put a 12, put i 0]
  | .movw d h i => word 0x48000000 [put d 18, put h 16, put i 0]
  | .movk d h i => word 0x49000000 [put d 18, put h 16, put i 0]
  | .sel d c x y => word 0x4A000000 [put d 18, put c 12, put x 6, put y 0]
  | .selc d c x y => word 0x4B000000 [put d 18, put c 12, put x 6, put y 0]
  | .kset k a => word 0x4C000000 [put k 21, put a 15]
  | .kget d k => word 0x4D000000 [put d 18, put k 15]
  | .ldb d b x z c => word 0x4E000000 [put d 18, put b 12, put x 6, put z 4, put c 0]
  | .stb d b x z c => word 0x4F000000 [put d 18, put b 12, put x 6, put z 4, put c 0]
  | .ldScratch d b p o z c => word 0x50000000 [put d 18, put b 12, put p 11, put o 6, put z 4, put c 0]
  | .ldxScratch d b p o z c => word 0x51000000 [put d 18, put b 12, put p 11, put o 6, put z 4, put c 0]
  | .stScratch d b o z c => word 0x52000000 [put d 18, put b 12, put o 6, put z 4, put c 0]
  | .ldState d b p o z c => word 0x53000000 [put d 18, put b 12, put p 11, put o 6, put z 4, put c 0]
  | .stState d b o z c => word 0x54000000 [put d 18, put b 12, put o 6, put z 4, put c 0]
  | .ldHandle d h x p z c => word 0x55000000 [put d 18, put h 14, put x 8, put p 7, put z 5, put c 1]
  | .ldxHandle d h x p z c => word 0x56000000 [put d 18, put h 14, put x 8, put p 7, put z 5, put c 1]
  | .stHandle d h x z c => word 0x57000000 [put d 18, put h 14, put x 8, put z 5, put c 1]
  | .amo32 v b x o c => word 0x58000000 [put v 18, put b 14, put x 8, put o 4, put c 0]
  | .amo64 v b x o c => word 0x59000000 [put v 18, put b 14, put x 8, put o 4, put c 0]
  | .amoh32 v h x o c => word 0x5A000000 [put v 18, put h 14, put x 8, put o 4, put c 0]
  | .amoh64 v h x o c => word 0x5B000000 [put v 18, put h 14, put x 8, put o 4, put c 0]
  | .red32 v b x o c => word 0x5C000000 [put v 18, put b 14, put x 8, put o 4, put c 0]
  | .red64 v b x o c => word 0x5D000000 [put v 18, put b 14, put x 8, put o 4, put c 0]
  | .redh32 v h x o c => word 0x5E000000 [put v 18, put h 14, put x 8, put o 4, put c 0]
  | .redh64 v h x o c => word 0x5F000000 [put v 18, put h 14, put x 8, put o 4, put c 0]
  | .fence k p m => word 0x60000000 [put k 22, put p 19, put m 0]
  | .publ a => word 0x61000000 [put a 12]
  | .trn d a p k => word 0x62000000 [put d 20, put a 14, put p 13, put k 11]
  | .hmov d a => word 0x63000000 [put d 18, put a 12]
  | .hrd d a => word 0x63000001 [put d 18, put a 12]
  | .hwr d a => word 0x63000002 [put d 18, put a 12]
  | .hnarrow d a b => word 0x63000003 [put d 18, put a 12, put b 6]
  | .hrev a => word 0x63000004 [put a 12]
  | .rclaim d b x => word 0x64000000 [put d 18, put b 12, put x 6]
  | .rcommit b x => word 0x64000001 [put b 12, put x 6]
  | .rwaitf b x => word 0x64000002 [put b 12, put x 6]
  | .rwaite b x => word 0x64000003 [put b 12, put x 6]
  | .rrel b x => word 0x64000004 [put b 12, put x 6]
  | .rtail d b => word 0x64000005 [put d 18, put b 12]
  | .cpush b x => word 0x65000000 [put b 12, put x 6]
  | .qpush a q => word 0x66000000 [put a 18, put q 15]
  | .qpop d q => word 0x67000000 [put d 18, put q 15]
  | .bqpush a => word 0x68000000 [put a 18]
  | .park a b c => word 0x69000000 [put a 12, put b 6, put c 0]
  | .mlease n => word 0x6A000000 [put n 15]
  | .slease n => word 0x6A800000 [put n 15]
  | .mrel => word 0x6A400000 []
  | .srel => word 0x6AC00000 []
  | .rand d a => word 0x6B000000 [put d 18, put a 12]
  | .frmLd d a b => word 0x6C000000 [put d 18, put a 12, put b 6]
  | .frmSt d a b => word 0x6C000001 [put d 18, put a 12, put b 6]
  | .frmSnap d a b => word 0x6C000002 [put d 18, put a 12, put b 6]
  | .frmFork d a => word 0x6C000003 [put d 18, put a 12]
  | .frmRbk d a b => word 0x6C000004 [put d 18, put a 12, put b 6]
  | .frmFind d a => word 0x6C000005 [put d 18, put a 12]
  | .frmFindv d a b => word 0x6C000006 [put d 18, put a 12, put b 6]
  | .csrr d n => word 0x6D000000 [put d 18, put n 6]
  | .csrw a n => word 0x6E000000 [put a 18, put n 6]
  | .cntr d n => word 0x6F000000 [put d 18, put n 6]
  | .wget d => word 0x70000000 [put d 18]
  | .wsteal d a => word 0x71000000 [put d 18, put a 12]
  | .wbar l => word 0x72000000 [put l 0]
  | .wdone => word 0x73000000 []
  | .lnch a b => word 0x74000000 [put a 12, put b 6]
  | .trap i => word 0x75000000 [put i 0]
  | .eret => word 0x76000000 []
  | .swapx => word 0x77000000 []
  | .bz a o => word 0x78000000 [put a 18, put o 0]
  | .bnz a o => word 0x79000000 [put a 18, put o 0]
  | .vadd d a b t => word 0x40000000 [put d 18, put a 12, put b 6, put t 2]
  | .vsub d a b t => word 0x41000000 [put d 18, put a 12, put b 6, put t 2]
  | .vmul d a b t => word 0x42000000 [put d 18, put a 12, put b 6, put t 2]
  | .vfma d a b t => word 0x43000000 [put d 18, put a 12, put b 6, put t 2]
  | .vfms d a b t => word 0x43000001 [put d 18, put a 12, put b 6, put t 2]
  | .vfnma d a b t => word 0x43000002 [put d 18, put a 12, put b 6, put t 2]
  | .vmin d a b t => word 0x44000000 [put d 18, put a 12, put b 6, put t 2]
  | .vmax d a b t => word 0x45000000 [put d 18, put a 12, put b 6, put t 2]
  | .vabs d a t => word 0x46000000 [put d 18, put a 12, put t 2]
  | .vneg d a t => word 0x46000040 [put d 18, put a 12, put t 2]
  | .vexp2 d a t => word 0x46000080 [put d 18, put a 12, put t 2]
  | .vlog2 d a t => word 0x460000C0 [put d 18, put a 12, put t 2]
  | .vrcp d a t => word 0x46000100 [put d 18, put a 12, put t 2]
  | .vrsq d a t => word 0x46000140 [put d 18, put a 12, put t 2]
  | .vsqrt d a t => word 0x46000180 [put d 18, put a 12, put t 2]
  | .vfloor d a t => word 0x460001C0 [put d 18, put a 12, put t 2]
  | .vceil d a t => word 0x46000200 [put d 18, put a 12, put t 2]
  | .vrint d a t => word 0x46000240 [put d 18, put a 12, put t 2]
  | .vcmp d a b t c => word 0x47000000 [put d 18, put a 12, put b 6, put t 2, put c 0]
  | .vsel d a b t => word 0x48000000 [put d 18, put a 12, put b 6, put t 2]
  | .vselc d a b t => word 0x49000000 [put d 18, put a 12, put b 6, put t 2]
  | .viadd d a b t w => word 0x4A000000 [put d 18, put a 12, put b 6, put t 2, put w 0]
  | .visub d a b t w => word 0x4B000000 [put d 18, put a 12, put b 6, put t 2, put w 0]
  | .vimul d a b t => word 0x4C000000 [put d 18, put a 12, put b 6, put t 2]
  | .vimulh d a b t => word 0x4C000001 [put d 18, put a 12, put b 6, put t 2]
  | .vimulhu d a b t => word 0x4C000002 [put d 18, put a 12, put b 6, put t 2]
  | .vand d a b t => word 0x4D000000 [put d 18, put a 12, put b 6, put t 2]
  | .vor d a b t => word 0x4D000001 [put d 18, put a 12, put b 6, put t 2]
  | .vxor d a b t => word 0x4D000002 [put d 18, put a 12, put b 6, put t 2]
  | .vandn d a b t => word 0x4D000003 [put d 18, put a 12, put b 6, put t 2]
  | .vshl d a b t => word 0x4E000000 [put d 18, put a 12, put b 6, put t 2]
  | .vshr d a b t => word 0x4E000001 [put d 18, put a 12, put b 6, put t 2]
  | .vsra d a b t => word 0x4E000002 [put d 18, put a 12, put b 6, put t 2]
  | .vimin d a b t => word 0x4F000000 [put d 18, put a 12, put b 6, put t 2]
  | .vimax d a b t => word 0x4F000001 [put d 18, put a 12, put b 6, put t 2]
  | .viminu d a b t => word 0x4F000002 [put d 18, put a 12, put b 6, put t 2]
  | .vimaxu d a b t => word 0x4F000003 [put d 18, put a 12, put b 6, put t 2]
  | .vcvt d a o x i => word 0x50000000 [put d 18, put a 12, put o 8, put x 7, put i 2]
  | .vqblk d a v t => word 0x51000000 [put d 18, put a 12, put v 6, put t 2]
  | .vdqblk d a v t => word 0x52000000 [put d 18, put a 12, put v 6, put t 2]
  | .vpsum d a t => word 0x53000000 [put d 18, put a 12, put t 2]
  | .vpsumx d a t => word 0x53000040 [put d 18, put a 12, put t 2]
  | .vpmax d a t => word 0x53000080 [put d 18, put a 12, put t 2]
  | .vpxor d a t => word 0x530000C0 [put d 18, put a 12, put t 2]
  | .vredsum d a t => word 0x54000000 [put d 18, put a 12, put t 2]
  | .vredmax d a t => word 0x54000040 [put d 18, put a 12, put t 2]
  | .vredmin d a t => word 0x54000080 [put d 18, put a 12, put t 2]
  | .vredsq d a t => word 0x540000C0 [put d 18, put a 12, put t 2]
  | .vtopk d a v t k => word 0x55000000 [put d 18, put a 12, put v 6, put t 2, put k 0]
  | .vperm d a b t => word 0x56000000 [put d 18, put a 12, put b 6, put t 2]
  | .vrot d a n => word 0x57000000 [put d 18, put a 12, put n 0]
  | .vwin d p l => word 0x58000000 [put d 18, put p 14, put l 10]
  | .vsmax d a v t => word 0x59000000 [put d 18, put a 12, put v 6, put t 2]
  | .vld v b o c => word 0x5A000000 [put v 18, put b 14, put o 4, put c 0]
  | .vst v b o c => word 0x5B000000 [put v 18, put b 14, put o 4, put c 0]
  | .vldState v b o c => word 0x5C000000 [put v 18, put b 14, put o 4, put c 0]
  | .vstState v b o c => word 0x5D000000 [put v 18, put b 14, put o 4, put c 0]
  | .vpopq d q t => word 0x5E000000 [put d 18, put q 15, put t 2]
  | .vpushq a q t => word 0x5F000000 [put a 18, put q 15, put t 2]
  | .vsplat d k i => word 0x60000000 [put d 18, put k 16, put i 0]
  | .vmov d a t => word 0x61000000 [put d 18, put a 12, put t 2]
  | .vrxpop d => word 0x62000000 [put d 18]
  | .statusWrite a => word 0x6E000000 [put a 18, 0x010 * 2 ^ 6]
  | .fadeflWrite a => word 0x6E000000 [put a 18, 0x001 * 2 ^ 6]
  | .fadedefWrite a => word 0x6E000000 [put a 18, 0x116 * 2 ^ 6]
  | .rdcfgWrite a => word 0x6E000000 [put a 18, 0x021 * 2 ^ 6]
  | .cntcfgWrite a => word 0x6E000000 [put a 18, 0x121 * 2 ^ 6]
  | .qcfgWrite a => word 0x6E000000 [put a 18, 0x111 * 2 ^ 6]
  | .fencfgWrite a => word 0x6E000000 [put a 18, 0x114 * 2 ^ 6]
  | .regrateWrite a => word 0x6E000000 [put a 18, 0x129 * 2 ^ 6]
  | .olctlWrite a => word 0x6E000000 [put a 18, 0x160 * 2 ^ 6]
  | _ => 0

/-- The major and the record of an instruction that is a command record (Table 2.13). -/
def recordOf : Instr → Option (Nat × Record)
  | .fcopy r => some (0x40, r)
  | .fgath r => some (0x41, r)
  | .fxfm r => some (0x42, r)
  | .cbload r => some (0x43, r)
  | .fcrc r => some (0x44, r)
  | .scopy r => some (0x40, r)
  | .sscat r => some (0x41, r)
  | .sreds r => some (0x42, r)
  | .smcast r => some (0x43, r)
  | .scrc r => some (0x44, r)
  | .mldw r => some (0x40, r)
  | .mstrm r => some (0x41, r)
  | .mswap r => some (0x42, r)
  | .mdrain r => some (0x43, r)
  | .mzero r => some (0x44, r)
  | .mcvt r => some (0x45, r)
  | .scand r => some (0x48, r)
  | .scanm r => some (0x49, r)
  | .semit r => some (0x4A, r)
  | .scmpct r => some (0x4B, r)
  | _ => none

/-- The four words of a record, with S = 1 (Table 2.11). -/
def encodeRecord (m : Nat) (r : Record) : List Nat :=
  [0x80000000 + m * 2 ^ 24 + r.variant.toNat * 2 ^ 20 + r.cls.toNat * 2 ^ 16 + r.wtok.toNat * 2 ^ 11 + r.ptok.toNat * 2 ^ 6 +
     (if r.we then 32 else 0) + r.typ.toNat,
   r.aux.toNat * 2 ^ 16 + r.thr.toNat, r.opA.toNat, r.opB.toNat]

/-- The words of an instruction: a record's four, or one word with the stop bit `stop`; none for an event. -/
def encode (i : Instr) (stop : Bool) : List Nat :=
  match recordOf i with
  | some (m, r) => encodeRecord m r
  | none => if i.home = .event then [] else [encodeWord i + (if stop then 2 ^ 31 else 0)]

/-! ### Fields -/

/-- Field of `n` bits from bit `lo` of a word. -/
def fld (w lo n : Nat) : BitVec n := BitVec.ofNat n (w / 2 ^ lo)

/-- The record that four words hold. -/
def recordFields (w0 w1 w2 w3 : Nat) : Record :=
  { variant := fld w0 20 4, cls := fld w0 16 4, wtok := fld w0 11 5, ptok := fld w0 6 5, we := w0 / 32 % 2 == 1, typ := fld w0 0 4,
    aux := fld w1 16 16, thr := fld w1 0 16, opA := fld w2 0 32, opB := fld w3 0 32 }

/-! ### Maps -/

/-- Major 0x0A: bits [23:23] select the instruction. -/
def sharedOf0A (w : Nat) : Option Instr :=
  match w / 2 ^ 23 % 2 with
  | 0x01 => some (.bqt (fld w 0 16))
  | 0x00 => some (.bqf (fld w 0 16))
  | _ => none

/-- Major 0x0C: bits [19:19] select the instruction. -/
def sharedOf0C (w : Nat) : Option Instr :=
  match w / 2 ^ 19 % 2 with
  | 0x00 => some (.jr (fld w 20 4))
  | 0x01 => some (.ret)
  | _ => none

/-- Major 0x19: bits [23:23] select the instruction. -/
def sharedOf19 (w : Nat) : Option Instr :=
  match w / 2 ^ 23 % 2 with
  | 0x00 => some (.moval (fld w 21 2) (fld w 17 4))
  | 0x01 => some (.movla (fld w 21 2) (fld w 17 4))
  | _ => none

/-- Major 0x20: bits [18:18] select the instruction. -/
def sharedOf20 (w : Nat) : Option Instr :=
  match w / 2 ^ 18 % 2 with
  | 0x00 => some (.twait (fld w 19 5) (fld w 0 16))
  | 0x01 => some (.twaitReg (fld w 19 5) (fld w 0 4))
  | _ => none

/-- The shared half (Table 2.4). -/
def sharedOf (w : Nat) : Option Instr :=
  match w / 2 ^ 24 % 128 with
  | 0x01 => some (.nop)
  | 0x02 => some (.dly (fld w 0 16))
  | 0x03 => some (.br (fld w 0 24))
  | 0x04 => some (.beq (fld w 20 4) (fld w 16 4) (fld w 0 16))
  | 0x05 => some (.bne (fld w 20 4) (fld w 16 4) (fld w 0 16))
  | 0x06 => some (.blt (fld w 20 4) (fld w 16 4) (fld w 0 16))
  | 0x07 => some (.bge (fld w 20 4) (fld w 16 4) (fld w 0 16))
  | 0x08 => some (.bltu (fld w 20 4) (fld w 16 4) (fld w 0 16))
  | 0x09 => some (.bgeu (fld w 20 4) (fld w 16 4) (fld w 0 16))
  | 0x0A => sharedOf0A w
  | 0x0B => some (.jal (fld w 0 24))
  | 0x0C => sharedOf0C w
  | 0x0D => some (.loop (fld w 22 2) (fld w 18 4) (fld w 0 16))
  | 0x0E => some (.loopi (fld w 22 2) (fld w 6 16) (fld w 0 6))
  | 0x10 => some (.adda (fld w 20 4) (fld w 16 4) (fld w 12 4))
  | 0x11 => some (.suba (fld w 20 4) (fld w 16 4) (fld w 12 4))
  | 0x12 => some (.addma (fld w 20 4) (fld w 16 4) (fld w 12 4) (fld w 8 4))
  | 0x13 => some (.addia (fld w 20 4) (fld w 16 4) (fld w 0 16))
  | 0x14 => some (.andia (fld w 20 4) (fld w 16 4) (fld w 0 16))
  | 0x15 => some (.sllia (fld w 20 4) (fld w 16 4) (fld w 0 6))
  | 0x16 => some (.srlia (fld w 20 4) (fld w 16 4) (fld w 0 6))
  | 0x17 => some (.movia (fld w 20 4) (fld w 18 2) (fld w 0 16))
  | 0x18 => some (.movka (fld w 20 4) (fld w 18 2) (fld w 0 16))
  | 0x19 => sharedOf19 w
  | 0x20 => sharedOf20 w
  | 0x21 => some (.tpost (fld w 19 5) (fld w 0 8))
  | 0x22 => some (.tstat (fld w 19 5) (fld w 15 4) (fld w 14 1))
  | 0x23 => some (.chk (fld w 22 2) (fld w 16 6))
  | 0x24 => some (.selcShared (fld w 20 4) (fld w 16 4) (fld w 12 4) (fld w 8 4))
  | 0x25 => some (.estop)
  | 0x3F => some (.pfx (fld w 23 1) (fld w 18 5) (fld w 14 4) (fld w 11 3) (fld w 10 1) (fld w 9 1) (fld w 8 1) (fld w 7 1))
  | _ => none

/-- Major 0x6E: nine registers have a row of their own (R31, R85, R86, R290, R363, R378, R381, R382). -/
def csrwOf (w : Nat) : Option Instr :=
  match w / 2 ^ 6 % 4096 with
  | 0x010 => some (.statusWrite (fld w 18 6))
  | 0x001 => some (.fadeflWrite (fld w 18 6))
  | 0x116 => some (.fadedefWrite (fld w 18 6))
  | 0x021 => some (.rdcfgWrite (fld w 18 6))
  | 0x121 => some (.cntcfgWrite (fld w 18 6))
  | 0x111 => some (.qcfgWrite (fld w 18 6))
  | 0x114 => some (.fencfgWrite (fld w 18 6))
  | 0x129 => some (.regrateWrite (fld w 18 6))
  | 0x160 => some (.olctlWrite (fld w 18 6))
  | _ => some (.csrw (fld w 18 6) (fld w 6 12))

/-- Major 0x40: bits [5:0] select the instruction. -/
def seqOf40 (w : Nat) : Option Instr :=
  match w % 64 with
  | 0x00 => some (.add (fld w 18 6) (fld w 12 6) (fld w 6 6))
  | 0x01 => some (.sub (fld w 18 6) (fld w 12 6) (fld w 6 6))
  | 0x02 => some (.and (fld w 18 6) (fld w 12 6) (fld w 6 6))
  | 0x03 => some (.or (fld w 18 6) (fld w 12 6) (fld w 6 6))
  | 0x04 => some (.xor (fld w 18 6) (fld w 12 6) (fld w 6 6))
  | 0x05 => some (.andn (fld w 18 6) (fld w 12 6) (fld w 6 6))
  | 0x06 => some (.orn (fld w 18 6) (fld w 12 6) (fld w 6 6))
  | 0x07 => some (.xnor (fld w 18 6) (fld w 12 6) (fld w 6 6))
  | 0x08 => some (.sll (fld w 18 6) (fld w 12 6) (fld w 6 6))
  | 0x09 => some (.srl (fld w 18 6) (fld w 12 6) (fld w 6 6))
  | 0x0A => some (.sra (fld w 18 6) (fld w 12 6) (fld w 6 6))
  | 0x0B => some (.rol (fld w 18 6) (fld w 12 6) (fld w 6 6))
  | 0x0C => some (.ror (fld w 18 6) (fld w 12 6) (fld w 6 6))
  | 0x10 => some (.mul (fld w 18 6) (fld w 12 6) (fld w 6 6))
  | 0x11 => some (.mulh (fld w 18 6) (fld w 12 6) (fld w 6 6))
  | 0x12 => some (.mulhu (fld w 18 6) (fld w 12 6) (fld w 6 6))
  | 0x13 => some (.mulhsu (fld w 18 6) (fld w 12 6) (fld w 6 6))
  | 0x14 => some (.div (fld w 18 6) (fld w 12 6) (fld w 6 6))
  | 0x15 => some (.divu (fld w 18 6) (fld w 12 6) (fld w 6 6))
  | 0x16 => some (.rem (fld w 18 6) (fld w 12 6) (fld w 6 6))
  | 0x17 => some (.remu (fld w 18 6) (fld w 12 6) (fld w 6 6))
  | 0x18 => some (.min (fld w 18 6) (fld w 12 6) (fld w 6 6))
  | 0x19 => some (.max (fld w 18 6) (fld w 12 6) (fld w 6 6))
  | 0x1A => some (.minu (fld w 18 6) (fld w 12 6) (fld w 6 6))
  | 0x1B => some (.maxu (fld w 18 6) (fld w 12 6) (fld w 6 6))
  | 0x1C => some (.slt (fld w 18 6) (fld w 12 6) (fld w 6 6))
  | 0x1D => some (.sltu (fld w 18 6) (fld w 12 6) (fld w 6 6))
  | 0x1E => some (.seq (fld w 18 6) (fld w 12 6) (fld w 6 6))
  | 0x1F => some (.sne (fld w 18 6) (fld w 12 6) (fld w 6 6))
  | 0x20 => some (.addw (fld w 18 6) (fld w 12 6) (fld w 6 6))
  | 0x21 => some (.subw (fld w 18 6) (fld w 12 6) (fld w 6 6))
  | 0x22 => some (.sllw (fld w 18 6) (fld w 12 6) (fld w 6 6))
  | 0x23 => some (.srlw (fld w 18 6) (fld w 12 6) (fld w 6 6))
  | 0x24 => some (.sraw (fld w 18 6) (fld w 12 6) (fld w 6 6))
  | 0x25 => some (.mulw (fld w 18 6) (fld w 12 6) (fld w 6 6))
  | 0x28 => some (.clmul (fld w 18 6) (fld w 12 6) (fld w 6 6))
  | 0x29 => some (.clmulh (fld w 18 6) (fld w 12 6) (fld w 6 6))
  | 0x30 => some (.clz (fld w 18 6) (fld w 12 6))
  | 0x31 => some (.ctz (fld w 18 6) (fld w 12 6))
  | 0x32 => some (.popc (fld w 18 6) (fld w 12 6))
  | 0x33 => some (.brev (fld w 18 6) (fld w 12 6))
  | 0x34 => some (.bswap (fld w 18 6) (fld w 12 6))
  | 0x35 => some (.sextb (fld w 18 6) (fld w 12 6))
  | 0x36 => some (.sexth (fld w 18 6) (fld w 12 6))
  | 0x37 => some (.sextw (fld w 18 6) (fld w 12 6))
  | _ => none

/-- Major 0x45: bits [11:10] select the instruction. -/
def seqOf45 (w : Nat) : Option Instr :=
  match w / 2 ^ 10 % 4 with
  | 0x00 => some (.slli (fld w 18 6) (fld w 12 6) (fld w 0 6))
  | 0x01 => some (.srli (fld w 18 6) (fld w 12 6) (fld w 0 6))
  | 0x02 => some (.srai (fld w 18 6) (fld w 12 6) (fld w 0 6))
  | 0x03 => some (.rori (fld w 18 6) (fld w 12 6) (fld w 0 6))
  | _ => none

/-- Major 0x63: bits [5:0] select the instruction. -/
def seqOf63 (w : Nat) : Option Instr :=
  match w % 64 with
  | 0x00 => some (.hmov (fld w 18 4) (fld w 12 4))
  | 0x01 => some (.hrd (fld w 18 6) (fld w 12 4))
  | 0x02 => some (.hwr (fld w 18 4) (fld w 12 6))
  | 0x03 => some (.hnarrow (fld w 18 4) (fld w 12 4) (fld w 6 6))
  | 0x04 => some (.hrev (fld w 12 4))
  | _ => none

/-- Major 0x64: bits [5:0] select the instruction. -/
def seqOf64 (w : Nat) : Option Instr :=
  match w % 64 with
  | 0x00 => some (.rclaim (fld w 18 6) (fld w 12 6) (fld w 6 6))
  | 0x01 => some (.rcommit (fld w 12 6) (fld w 6 6))
  | 0x02 => some (.rwaitf (fld w 12 6) (fld w 6 6))
  | 0x03 => some (.rwaite (fld w 12 6) (fld w 6 6))
  | 0x04 => some (.rrel (fld w 12 6) (fld w 6 6))
  | 0x05 => some (.rtail (fld w 18 6) (fld w 12 6))
  | _ => none

/-- Major 0x6A: bits [23:22] select the instruction. -/
def seqOf6A (w : Nat) : Option Instr :=
  match w / 2 ^ 22 % 4 with
  | 0x00 => some (.mlease (fld w 15 7))
  | 0x02 => some (.slease (fld w 15 7))
  | 0x01 => some (.mrel)
  | 0x03 => some (.srel)
  | _ => none

/-- Major 0x6C: bits [5:0] select the instruction. -/
def seqOf6C (w : Nat) : Option Instr :=
  match w % 64 with
  | 0x00 => some (.frmLd (fld w 18 6) (fld w 12 6) (fld w 6 6))
  | 0x01 => some (.frmSt (fld w 18 6) (fld w 12 6) (fld w 6 6))
  | 0x02 => some (.frmSnap (fld w 18 6) (fld w 12 6) (fld w 6 6))
  | 0x03 => some (.frmFork (fld w 18 6) (fld w 12 6))
  | 0x04 => some (.frmRbk (fld w 18 6) (fld w 12 6) (fld w 6 6))
  | 0x05 => some (.frmFind (fld w 18 6) (fld w 12 6))
  | 0x06 => some (.frmFindv (fld w 18 6) (fld w 12 6) (fld w 6 6))
  | _ => none

/-- The sequencer's private half (Table 2.7). -/
def seqOf (w : Nat) : Option Instr :=
  match w / 2 ^ 24 % 128 with
  | 0x40 => seqOf40 w
  | 0x41 => some (.addi (fld w 18 6) (fld w 12 6) (fld w 0 12))
  | 0x42 => some (.andi (fld w 18 6) (fld w 12 6) (fld w 0 12))
  | 0x43 => some (.ori (fld w 18 6) (fld w 12 6) (fld w 0 12))
  | 0x44 => some (.xori (fld w 18 6) (fld w 12 6) (fld w 0 12))
  | 0x45 => seqOf45 w
  | 0x46 => some (.slti (fld w 18 6) (fld w 12 6) (fld w 0 12))
  | 0x47 => some (.sltiu (fld w 18 6) (fld w 12 6) (fld w 0 12))
  | 0x48 => some (.movw (fld w 18 6) (fld w 16 2) (fld w 0 16))
  | 0x49 => some (.movk (fld w 18 6) (fld w 16 2) (fld w 0 16))
  | 0x4A => some (.sel (fld w 18 6) (fld w 12 6) (fld w 6 6) (fld w 0 6))
  | 0x4B => some (.selc (fld w 18 6) (fld w 12 6) (fld w 6 6) (fld w 0 6))
  | 0x4C => some (.kset (fld w 21 3) (fld w 15 6))
  | 0x4D => some (.kget (fld w 18 6) (fld w 15 3))
  | 0x4E => some (.ldb (fld w 18 6) (fld w 12 6) (fld w 6 6) (fld w 4 2) (fld w 0 4))
  | 0x4F => some (.stb (fld w 18 6) (fld w 12 6) (fld w 6 6) (fld w 4 2) (fld w 0 4))
  | 0x50 => some (.ldScratch (fld w 18 6) (fld w 12 6) (fld w 11 1) (fld w 6 5) (fld w 4 2) (fld w 0 4))
  | 0x51 => some (.ldxScratch (fld w 18 6) (fld w 12 6) (fld w 11 1) (fld w 6 5) (fld w 4 2) (fld w 0 4))
  | 0x52 => some (.stScratch (fld w 18 6) (fld w 12 6) (fld w 6 5) (fld w 4 2) (fld w 0 4))
  | 0x53 => some (.ldState (fld w 18 6) (fld w 12 6) (fld w 11 1) (fld w 6 5) (fld w 4 2) (fld w 0 4))
  | 0x54 => some (.stState (fld w 18 6) (fld w 12 6) (fld w 6 5) (fld w 4 2) (fld w 0 4))
  | 0x55 => some (.ldHandle (fld w 18 6) (fld w 14 4) (fld w 8 6) (fld w 7 1) (fld w 5 2) (fld w 1 4))
  | 0x56 => some (.ldxHandle (fld w 18 6) (fld w 14 4) (fld w 8 6) (fld w 7 1) (fld w 5 2) (fld w 1 4))
  | 0x57 => some (.stHandle (fld w 18 6) (fld w 14 4) (fld w 8 6) (fld w 5 2) (fld w 1 4))
  | 0x58 => some (.amo32 (fld w 18 6) (fld w 14 4) (fld w 8 6) (fld w 4 4) (fld w 0 4))
  | 0x59 => some (.amo64 (fld w 18 6) (fld w 14 4) (fld w 8 6) (fld w 4 4) (fld w 0 4))
  | 0x5A => some (.amoh32 (fld w 18 6) (fld w 14 4) (fld w 8 6) (fld w 4 4) (fld w 0 4))
  | 0x5B => some (.amoh64 (fld w 18 6) (fld w 14 4) (fld w 8 6) (fld w 4 4) (fld w 0 4))
  | 0x5C => some (.red32 (fld w 18 6) (fld w 14 4) (fld w 8 6) (fld w 4 4) (fld w 0 4))
  | 0x5D => some (.red64 (fld w 18 6) (fld w 14 4) (fld w 8 6) (fld w 4 4) (fld w 0 4))
  | 0x5E => some (.redh32 (fld w 18 6) (fld w 14 4) (fld w 8 6) (fld w 4 4) (fld w 0 4))
  | 0x5F => some (.redh64 (fld w 18 6) (fld w 14 4) (fld w 8 6) (fld w 4 4) (fld w 0 4))
  | 0x60 => some (.fence (fld w 22 2) (fld w 19 3) (fld w 0 16))
  | 0x61 => some (.publ (fld w 12 6))
  | 0x62 => some (.trn (fld w 20 4) (fld w 14 6) (fld w 13 1) (fld w 11 2))
  | 0x63 => seqOf63 w
  | 0x64 => seqOf64 w
  | 0x65 => some (.cpush (fld w 12 6) (fld w 6 6))
  | 0x66 => some (.qpush (fld w 18 6) (fld w 15 3))
  | 0x67 => some (.qpop (fld w 18 6) (fld w 15 3))
  | 0x68 => some (.bqpush (fld w 18 6))
  | 0x69 => some (.park (fld w 12 6) (fld w 6 6) (fld w 0 4))
  | 0x6A => seqOf6A w
  | 0x6B => some (.rand (fld w 18 6) (fld w 12 6))
  | 0x6C => seqOf6C w
  | 0x6D => some (.csrr (fld w 18 6) (fld w 6 12))
  | 0x6E => csrwOf w
  | 0x6F => some (.cntr (fld w 18 6) (fld w 6 12))
  | 0x70 => some (.wget (fld w 18 6))
  | 0x71 => some (.wsteal (fld w 18 6) (fld w 12 6))
  | 0x72 => some (.wbar (fld w 0 6))
  | 0x73 => some (.wdone)
  | 0x74 => some (.lnch (fld w 12 6) (fld w 6 6))
  | 0x75 => some (.trap (fld w 0 16))
  | 0x76 => some (.eret)
  | 0x77 => some (.swapx)
  | 0x78 => some (.bz (fld w 18 6) (fld w 0 18))
  | 0x79 => some (.bnz (fld w 18 6) (fld w 0 18))
  | _ => none

/-- Major 0x43: bits [1:0] select the instruction. -/
def vecOf43 (w : Nat) : Option Instr :=
  match w % 4 with
  | 0x00 => some (.vfma (fld w 18 6) (fld w 12 6) (fld w 6 6) (fld w 2 4))
  | 0x01 => some (.vfms (fld w 18 6) (fld w 12 6) (fld w 6 6) (fld w 2 4))
  | 0x02 => some (.vfnma (fld w 18 6) (fld w 12 6) (fld w 6 6) (fld w 2 4))
  | _ => none

/-- Major 0x46: bits [11:6] select the instruction. -/
def vecOf46 (w : Nat) : Option Instr :=
  match w / 2 ^ 6 % 64 with
  | 0x00 => some (.vabs (fld w 18 6) (fld w 12 6) (fld w 2 4))
  | 0x01 => some (.vneg (fld w 18 6) (fld w 12 6) (fld w 2 4))
  | 0x02 => some (.vexp2 (fld w 18 6) (fld w 12 6) (fld w 2 4))
  | 0x03 => some (.vlog2 (fld w 18 6) (fld w 12 6) (fld w 2 4))
  | 0x04 => some (.vrcp (fld w 18 6) (fld w 12 6) (fld w 2 4))
  | 0x05 => some (.vrsq (fld w 18 6) (fld w 12 6) (fld w 2 4))
  | 0x06 => some (.vsqrt (fld w 18 6) (fld w 12 6) (fld w 2 4))
  | 0x07 => some (.vfloor (fld w 18 6) (fld w 12 6) (fld w 2 4))
  | 0x08 => some (.vceil (fld w 18 6) (fld w 12 6) (fld w 2 4))
  | 0x09 => some (.vrint (fld w 18 6) (fld w 12 6) (fld w 2 4))
  | _ => none

/-- Major 0x4C: bits [1:0] select the instruction. -/
def vecOf4C (w : Nat) : Option Instr :=
  match w % 4 with
  | 0x00 => some (.vimul (fld w 18 6) (fld w 12 6) (fld w 6 6) (fld w 2 4))
  | 0x01 => some (.vimulh (fld w 18 6) (fld w 12 6) (fld w 6 6) (fld w 2 4))
  | 0x02 => some (.vimulhu (fld w 18 6) (fld w 12 6) (fld w 6 6) (fld w 2 4))
  | _ => none

/-- Major 0x4D: bits [1:0] select the instruction. -/
def vecOf4D (w : Nat) : Option Instr :=
  match w % 4 with
  | 0x00 => some (.vand (fld w 18 6) (fld w 12 6) (fld w 6 6) (fld w 2 4))
  | 0x01 => some (.vor (fld w 18 6) (fld w 12 6) (fld w 6 6) (fld w 2 4))
  | 0x02 => some (.vxor (fld w 18 6) (fld w 12 6) (fld w 6 6) (fld w 2 4))
  | 0x03 => some (.vandn (fld w 18 6) (fld w 12 6) (fld w 6 6) (fld w 2 4))
  | _ => none

/-- Major 0x4E: bits [1:0] select the instruction. -/
def vecOf4E (w : Nat) : Option Instr :=
  match w % 4 with
  | 0x00 => some (.vshl (fld w 18 6) (fld w 12 6) (fld w 6 6) (fld w 2 4))
  | 0x01 => some (.vshr (fld w 18 6) (fld w 12 6) (fld w 6 6) (fld w 2 4))
  | 0x02 => some (.vsra (fld w 18 6) (fld w 12 6) (fld w 6 6) (fld w 2 4))
  | _ => none

/-- Major 0x4F: bits [1:0] select the instruction. -/
def vecOf4F (w : Nat) : Option Instr :=
  match w % 4 with
  | 0x00 => some (.vimin (fld w 18 6) (fld w 12 6) (fld w 6 6) (fld w 2 4))
  | 0x01 => some (.vimax (fld w 18 6) (fld w 12 6) (fld w 6 6) (fld w 2 4))
  | 0x02 => some (.viminu (fld w 18 6) (fld w 12 6) (fld w 6 6) (fld w 2 4))
  | 0x03 => some (.vimaxu (fld w 18 6) (fld w 12 6) (fld w 6 6) (fld w 2 4))
  | _ => none

/-- Major 0x53: bits [11:6] select the instruction. -/
def vecOf53 (w : Nat) : Option Instr :=
  match w / 2 ^ 6 % 64 with
  | 0x00 => some (.vpsum (fld w 18 6) (fld w 12 6) (fld w 2 4))
  | 0x01 => some (.vpsumx (fld w 18 6) (fld w 12 6) (fld w 2 4))
  | 0x02 => some (.vpmax (fld w 18 6) (fld w 12 6) (fld w 2 4))
  | 0x03 => some (.vpxor (fld w 18 6) (fld w 12 6) (fld w 2 4))
  | _ => none

/-- Major 0x54: bits [11:6] select the instruction. -/
def vecOf54 (w : Nat) : Option Instr :=
  match w / 2 ^ 6 % 64 with
  | 0x00 => some (.vredsum (fld w 18 6) (fld w 12 6) (fld w 2 4))
  | 0x01 => some (.vredmax (fld w 18 6) (fld w 12 6) (fld w 2 4))
  | 0x02 => some (.vredmin (fld w 18 6) (fld w 12 6) (fld w 2 4))
  | 0x03 => some (.vredsq (fld w 18 6) (fld w 12 6) (fld w 2 4))
  | _ => none

/-- The vector engine's private half (Table 2.10). -/
def vecOf (w : Nat) : Option Instr :=
  match w / 2 ^ 24 % 128 with
  | 0x40 => some (.vadd (fld w 18 6) (fld w 12 6) (fld w 6 6) (fld w 2 4))
  | 0x41 => some (.vsub (fld w 18 6) (fld w 12 6) (fld w 6 6) (fld w 2 4))
  | 0x42 => some (.vmul (fld w 18 6) (fld w 12 6) (fld w 6 6) (fld w 2 4))
  | 0x43 => vecOf43 w
  | 0x44 => some (.vmin (fld w 18 6) (fld w 12 6) (fld w 6 6) (fld w 2 4))
  | 0x45 => some (.vmax (fld w 18 6) (fld w 12 6) (fld w 6 6) (fld w 2 4))
  | 0x46 => vecOf46 w
  | 0x47 => some (.vcmp (fld w 18 6) (fld w 12 6) (fld w 6 6) (fld w 2 4) (fld w 0 2))
  | 0x48 => some (.vsel (fld w 18 6) (fld w 12 6) (fld w 6 6) (fld w 2 4))
  | 0x49 => some (.vselc (fld w 18 6) (fld w 12 6) (fld w 6 6) (fld w 2 4))
  | 0x4A => some (.viadd (fld w 18 6) (fld w 12 6) (fld w 6 6) (fld w 2 4) (fld w 0 2))
  | 0x4B => some (.visub (fld w 18 6) (fld w 12 6) (fld w 6 6) (fld w 2 4) (fld w 0 2))
  | 0x4C => vecOf4C w
  | 0x4D => vecOf4D w
  | 0x4E => vecOf4E w
  | 0x4F => vecOf4F w
  | 0x50 => some (.vcvt (fld w 18 6) (fld w 12 6) (fld w 8 4) (fld w 7 1) (fld w 2 4))
  | 0x51 => some (.vqblk (fld w 18 6) (fld w 12 6) (fld w 6 6) (fld w 2 4))
  | 0x52 => some (.vdqblk (fld w 18 6) (fld w 12 6) (fld w 6 6) (fld w 2 4))
  | 0x53 => vecOf53 w
  | 0x54 => vecOf54 w
  | 0x55 => some (.vtopk (fld w 18 6) (fld w 12 6) (fld w 6 6) (fld w 2 4) (fld w 0 2))
  | 0x56 => some (.vperm (fld w 18 6) (fld w 12 6) (fld w 6 6) (fld w 2 4))
  | 0x57 => some (.vrot (fld w 18 6) (fld w 12 6) (fld w 0 12))
  | 0x58 => some (.vwin (fld w 18 6) (fld w 14 4) (fld w 10 4))
  | 0x59 => some (.vsmax (fld w 18 6) (fld w 12 6) (fld w 6 6) (fld w 2 4))
  | 0x5A => some (.vld (fld w 18 6) (fld w 14 4) (fld w 4 10) (fld w 0 4))
  | 0x5B => some (.vst (fld w 18 6) (fld w 14 4) (fld w 4 10) (fld w 0 4))
  | 0x5C => some (.vldState (fld w 18 6) (fld w 14 4) (fld w 4 10) (fld w 0 4))
  | 0x5D => some (.vstState (fld w 18 6) (fld w 14 4) (fld w 4 10) (fld w 0 4))
  | 0x5E => some (.vpopq (fld w 18 6) (fld w 15 3) (fld w 2 4))
  | 0x5F => some (.vpushq (fld w 18 6) (fld w 15 3) (fld w 2 4))
  | 0x60 => some (.vsplat (fld w 18 6) (fld w 16 2) (fld w 0 16))
  | 0x61 => some (.vmov (fld w 18 6) (fld w 12 6) (fld w 2 4))
  | 0x62 => some (.vrxpop (fld w 18 6))
  | _ => none

/-- The record majors of the fetch engine (Table 2.13). -/
def fetchOf (m : Nat) (r : Record) : Option Instr :=
  match m with
  | 0x40 => some (.fcopy r)
  | 0x41 => some (.fgath r)
  | 0x42 => some (.fxfm r)
  | 0x43 => some (.cbload r)
  | 0x44 => some (.fcrc r)
  | _ => none

/-- The record majors of the store engine (Table 2.13). -/
def storeOf (m : Nat) (r : Record) : Option Instr :=
  match m with
  | 0x40 => some (.scopy r)
  | 0x41 => some (.sscat r)
  | 0x42 => some (.sreds r)
  | 0x43 => some (.smcast r)
  | 0x44 => some (.scrc r)
  | _ => none

/-- The record majors of the array port (Table 2.13). -/
def arrayOf (m : Nat) (r : Record) : Option Instr :=
  match m with
  | 0x40 => some (.mldw r)
  | 0x41 => some (.mstrm r)
  | 0x42 => some (.mswap r)
  | 0x43 => some (.mdrain r)
  | 0x44 => some (.mzero r)
  | 0x45 => some (.mcvt r)
  | 0x48 => some (.scand r)
  | 0x49 => some (.scanm r)
  | 0x4A => some (.semit r)
  | 0x4B => some (.scmpct r)
  | _ => none

/-- The instruction whose major and function a word of engine `e` names. -/
def candidate (e w : Nat) : Option Instr :=
  if w / 2 ^ 24 % 128 < 64 then sharedOf w else if e = 0 then seqOf w else if e = 1 then vecOf w else none

/-- The record whose major a word of engine `e` names. -/
def recordCandidate (e m : Nat) (r : Record) : Option Instr :=
  if e = 2 then fetchOf m r else if e = 3 then storeOf m r else if e = 4 then arrayOf m r else none

/-! ### Decoding -/

/-- Decode a word of engine `e`: its stop bit, and its instruction or none where it is an illegal encoding (R56, R57). -/
def decodeWord (e w : Nat) : Bool × Option Instr :=
  (w / 2 ^ 31 % 2 == 1,
   match candidate e w with
   | some i => if i.inEngine e && i.wf && encodeWord i == w % 2 ^ 31 then some i else none
   | none => none)

/-- Decode a record of engine `e` from its four words (R39, R52, R55). -/
def decodeRecord (e w0 w1 w2 w3 : Nat) : Option Instr :=
  match recordCandidate e (w0 / 2 ^ 24 % 128) (recordFields w0 w1 w2 w3) with
  | some i =>
    match recordOf i with
    | some (m, r) => if i.inEngine e && i.wf && encodeRecord m r == [w0, w1, w2, w3] then some i else none
    | none => none
  | none => none

/-- A word of an engine is word 0 of a record: a private-half major outside the sequencer and the vector engine (R34, R39). -/
def isRecordWord (e w : Nat) : Bool := 2 ≤ e && 64 ≤ w / 2 ^ 24 % 128

/-- Decode the words at an engine's next address: the stop bit, the instruction, and how many words it takes. -/
def decode (e : Nat) (ws : List Nat) : Bool × Option Instr × Nat :=
  match ws with
  | [] => (true, none, 1)
  | w :: r =>
    if isRecordWord e w then
      match r with
      | [a, b, c] => (true, decodeRecord e w a b c, 4)
      | _ => (true, none, 4)
    else let (s, i) := decodeWord e w; (s, i, 1)

/-- The word of `n` little-endian bytes as an engine fetches it. -/
def wordOfBytes (bs : List Byte) : Nat := bs.foldr (fun b a => b.toNat + 256 * a) 0

/-- The engine that an opcode-table word is read for, where a word alone does not name its engine: the sequencer if its map has the
word, else the vector engine, else the first of the fetch engine, the store engine and the array port whose map has the record that
begins with it. -/
def tableEngine (w : Nat) : Nat :=
  let w0 := w % 2 ^ 32
  if (decodeWord 0 w0).2.isSome then 0
  else if (decodeWord 1 w0).2.isSome then 1
  else if (decodeRecord 2 w0 (w / 2 ^ 32 % 2 ^ 32) (w / 2 ^ 64 % 2 ^ 32) (w / 2 ^ 96 % 2 ^ 32)).isSome then 2
  else if (decodeRecord 3 w0 (w / 2 ^ 32 % 2 ^ 32) (w / 2 ^ 64 % 2 ^ 32) (w / 2 ^ 96 % 2 ^ 32)).isSome then 3
  else 4

/-- The instruction that an opcode-table word stands for in the engine it is read for; the words above it are those of a record. -/
def decodeTableWord (_nbits w : Nat) : Option Instr :=
  let e := tableEngine w
  if e ≤ 1 then (decodeWord e (w % 2 ^ 32)).2
  else decodeRecord e (w % 2 ^ 32) (w / 2 ^ 32 % 2 ^ 32) (w / 2 ^ 64 % 2 ^ 32) (w / 2 ^ 96 % 2 ^ 32)

end Sys2Proof
end

