-- ==== Sys2Proof/Config.lean ====
section
/-! DEFINITION. What an implementation fixes and the spec leaves open, as opaque constants: nothing can be proved of their
values (log 4). -/

namespace Sys2Proof.Config

/-- SHAKE256-512 digest of the running image, as a 512-bit value (Table 24.5). -/
opaque imageDigest : BitVec 512

/-- SHAKE256-512 digest of the device's identity public key (Table 24.5). -/
opaque keyDigest : BitVec 512

/-- The Falcon-1024 signature of an attestation report's first 0x4B0 bytes, under the device's own key (R395). -/
opaque signature : List Byte → BitVec 10240

/-- The margin below which the limiter freezes every engine, and the margin that firmware holds, in ps (R399; log 34). -/
opaque emergencyPs : Int
opaque targetPs : Int

/-- The ceiling of a core's supply voltage in mV (R400; log 34). -/
opaque ceilingMv : Nat

/-- The bits of a poisoned word that the spec does not give: the n-th that a run meets (log 6). -/
opaque freeWord : Nat → Word

/-- The bits of a poisoned vector register or queue entry that the spec does not give (log 6). -/
opaque freeVec : Nat → VWord

end Sys2Proof.Config
end

