-- ==== Sys2Proof/Machine/Event.lean ====
section
/-! DEFINITION. The events of the opcode table as data: what the agenda and the script of State hold. Each constructor has the
name and the operands of its constructor of `Instr`, and `step` gives it the same meaning. -/

namespace Sys2Proof.Machine
open Sys2Proof

/-- An event of the opcode table. The rows that are writes of a special register are words of the sequencer. -/
inductive Event where
  | reductionApplied (id : Nat)
  | walk (id : Nat)
  | leaseGrant (core unit : Nat)
  | resultLands (g e : Nat)
  | operationCompletes (id : Nat)
  | waitEnds (g e : Nat)
  | transferRecordBegins (g e : Nat)
  | transferRecordCompletes (id : Nat)
  | commandBegins (core path : Nat)
  | commandCompletes (core path : Nat)
  | trapTaken (g e : Nat) (c : Cause) (tval : BitVec 64) (sw : BitVec 16)
  | shadowSwap (g : Nat)
  | spillDone (g : Nat)
  | contextFill (g : Nat)
  | launchStart (q : Nat)
  | refusedLaunch (q : Nat)
  | placement (die : Nat)
  | gangPlacement (die : Nat)
  | preemption (die : Nat)
  | withdrawal (g bank : Nat)
  | launchEnd (lid : Nat)
  | completionRecord (q : Nat)
  | watchdogExpiry (lid : Nat)
  | copyRecord (lid : Nat)
  | mereExtension (core : Nat)
  | packetApplied (id : Nat)
  | creditReturn (core agent : Nat)
  | timeoutFires (id : Nat)
  | wispCapture (die : Nat)
  | sloughArrival (id : Nat)
  | flitRetry (core port : Nat)
  | ringEntryDelivered (core ch : Nat)
  | peerLinkUp (link : Nat)
  | peerLinkDown (link : Nat)
  | held (fen : Nat)
  | xinvFlush (fen : Nat) (va : BitVec 56)
  | xinvRevoke (fen : Nat) (va : BitVec 56)
  | xinvSuspend (fen : Nat) (va : BitVec 56)
  | xinvResume (fen : Nat) (va : BitVec 56)
  | registerWrite (vf off : Nat) (v : BitVec 64)
  | sessionRegisterWrite (vf off : Nat) (v : BitVec 64)
  | queueConfigWrite (vf q off : Nat) (v : BitVec 64)
  | qkick (vf q : Nat) (v : BitVec 32)
  | stampRetry (q : Nat)
  | qpoll (q : Nat)
  | chead (vf q : Nat) (v : BitVec 32)
  | scrkick (vf : Nat) (v : BitVec 32)
  | sevhead (vf : Nat) (v : BitVec 32)
  | evhead (v : BitVec 32)
  | create (fen : Nat) (c : SessCmd)
  | append (fen : Nat) (c : SessCmd)
  | close (fen : Nat) (c : SessCmd)
  | enable (fen : Nat) (c : SessCmd)
  | fcreate (fen : Nat) (c : SessCmd)
  | ffree (fen : Nat) (c : SessCmd)
  | sdrop (fen : Nat) (c : SessCmd)
  | sessionAge (fen sess : Nat)
  | batchForm (fen model : Nat)
  | storeBack (fen model set : Nat)
  | fenform (r : MgmtReq)
  | fenend (r : MgmtReq)
  | coremove (r : MgmtReq)
  | peerlink (r : MgmtReq)
  | regset (r : MgmtReq)
  | attest (r : MgmtReq)
  | health (r : MgmtReq)
  | svnraise (r : MgmtReq)
  | scrubPoint (core : Nat)
  | joining (core : Nat)
  | member (core : Nat)
  | boot
  | bankRetention (core bank : Nat)
  | limiterWindow (f : Nat)
  | marginReport (core : Nat) (ps : Int)
  | voltageAdjust (core : Nat)
  | sramError (core : Nat) (site : SramSite) (double : Bool)
  | reservedSessionCommand (fen : Nat) (c : SessCmd)
  | reservedManagementRequest (r : MgmtReq)
deriving DecidableEq, Repr

end Sys2Proof.Machine
end

