-- ==== Sys2Proof/Machine/State.lean ====
section
/-! DEFINITION. The state of an Ocbel S9 package as plain data, the reasons a step can stop, and the state after reset.

Everything that exists once per core, sub-core, fen, queue and so on is held in a `Tab`: a list of index and value pairs in
which an unlisted index stands for the default value of the entry, which is its reset value. A field whose docstring says
"model's own" is not named by the spec. -/

namespace Sys2Proof.Machine
open Sys2Proof

/-- A table by index: indices strictly rising; an unlisted index has the table's default value (its reset value). -/
abbrev Tab (α : Type) := List (Nat × α)

/-! ### Reasons to stop -/

/-- Faults of the model. Every trap of the S9 is a next state (R331, R344), so the only fault is an ill-formed instruction
term, which no word decodes to. -/
inductive Fault where
  /-- `exec` was given an event whose operands name no core, queue, fen or other object of the package (`WellFormed`
  refuses it). Raised by the event meanings. Safe: the machine stops where the spec names no act. -/
  | noSuchObject
deriving DecidableEq, Repr

/-- Refusals of the model. -/
inductive Refusal where
  /-- An arm of `exec` that has no meaning yet. Safe: nothing is claimed of the instruction. -/
  | notModelled (mnemonic : String)
deriving DecidableEq, Repr

/-! ### Places -/

/-- The home of a byte (Table 16.1): a global scratch address, a state offset of a core, a byte of one of a core's two weight
planes (physical plane 0 or 1, R178), or a physical address (LPDDR-6 below 0x60_0000_0000; host memory with bit 51 set, R315). -/
inductive Loc where
  | scratch (a : Nat)
  | state (core off : Nat)
  | plane (core sel off : Nat)
  | phys (pa : Nat)
deriving DecidableEq, Repr

/-- What a result is written to (Table 1.4). Engines: 0 sequencer, 1 vector, 2 fetch, 3 store, 4 array port. The sequencer's
a registers are s48–s63 (R17). -/
inductive Dest where
  | none
  | s (n : Nat)
  | lr
  | h (n : Nat)
  | k (n : Nat)
  | a (eng n : Nat)
  | l (eng n : Nat)
  | v (n : Nat)
deriving DecidableEq, Repr

/-- The value of a result: a scalar word or a whole vector register. -/
inductive Payload where
  | word (w : Word)
  | vec (w : VWord)
deriving DecidableEq, Repr

/-! ### Registers (Table 1.4) -/

/-- The tags of a register: its poison and cause (R20), and its pending tag (R21). -/
structure Tag where
  /-- poison bit and 4-bit cause; R20; reset clear -/
  poison : Option Cause := none
  /-- pending tag; R21; reset clear. Model's own: it holds the token of the posting word that set it, which R103 names as the covering one. -/
  pending : Option Nat := none
deriving DecidableEq, Repr

/-- A 64-bit register with its tags. -/
structure Reg where
  val : Word := 0#64
  tag : Tag := {}
deriving DecidableEq, Repr

/-- A vector register v0–v47 with its one tag (R20); no v register is ever pending (R147). -/
structure VReg where
  val : VWord := 0#16384
  poison : Option Cause := none
deriving DecidableEq, Repr

/-- A hardware loop counter l0–l3 of an engine: the 32-bit count with its tags, and the hidden start and end addresses (R98). -/
structure LoopReg where
  count : BitVec 32 := 0#32
  tag : Tag := {}
  start : Nat := 0
  last : Nat := 0
  /-- model's own: the order in which LOOP or LOOPI issued, which R99's "latest entry first" needs -/
  seq : Nat := 0
deriving DecidableEq, Repr

/-- A token t0–t31: a 16-bit counter and a 32-bit sticky status word (R22, Table 10.6). -/
structure Token where
  count : BitVec 16 := 0#16
  status : BitVec 32 := 0#32
deriving DecidableEq, Repr

/-- An entry of q0–q5 or bq with its poison tag (R20, R23), and the clock from which a pop finds it (R232). -/
structure QEntry where
  val : Word
  poison : Option Cause
  ready : Nat
deriving DecidableEq, Repr

/-- A 2,048-byte entry of mf, sq or a ring ingress queue with its poison tag (R168, R174, R179). -/
structure BigEntry where
  val : VWord
  poison : Option Cause
deriving DecidableEq, Repr

/-- The access that a VLD or VST performs in the fifth unfrozen clock after issue (R165, R231). -/
structure VAccess where
  store : Bool
  loc : Loc
  /-- ordering class -/
  cls : Nat
deriving DecidableEq, Repr

/-- A result in an exposed pipeline (R235): what lands, where, and the unfrozen clocks left until it does (R227). -/
structure Landing where
  left : Nat
  dest : Dest
  val : Payload
  poison : Option Cause := none
  /-- bits of a vector register that are written; the others are clipped or kept (R144) -/
  mask : VWord := 0#16384
  /-- the word writes every element of vd, so vd takes the result's tag alone (R144) -/
  whole : Bool := true
  /-- copies still to be offered to mf, sq and rx (R146) -/
  mf : Bool := false
  sq : Bool := false
  rx : Bool := false
  /-- the access in flight whose data this result waits for (R124) -/
  awaits : Option Nat := none
  /-- the memory access of a VLD or VST -/
  access : Option VAccess := none
  /-- model's own: number of the issued group the result belongs to, which orders landings (R228) and makes IFQ entries (R335) -/
  grp : Nat := 0
deriving DecidableEq, Repr

/-! ### Waits (R237) -/

/-- What a waiting engine waits for (R237). -/
inductive Wait where
  /-- TWAIT, or a record's own wait (R104, R169): token, threshold -/
  | token (t : Nat) (theta : BitVec 16)
  /-- FENCE (R130): kind, scope, class mask -/
  | fence (kind scope : Nat) (mask : BitVec 16)
  /-- PUBL (R133): selected destinations -/
  | publ (mask : Word)
  /-- HREV (R135): the handle-table entry -/
  | hrev (index : Nat)
  /-- RCLAIM (R136): ring, positions -/
  | rclaim (b : Nat) (n : Word)
  /-- RWAITF, RWAITE (R292): ring, position -/
  | rwaitf (b : Nat) (p : Word)
  | rwaite (b : Nat) (p : Word)
  /-- PARK (R139): parked in the wait table -/
  | parked
  /-- WBAR (R218): gang level -/
  | wbar (level : Nat)
  /-- a PARK behind an earlier access of its class, or a flushed reduction on its word (R129, R303): class, address -/
  | prior (cls addr : Nat)
  /-- WSTEAL (R217): the victim named, and the clock from which the reply is there -/
  | steal (victim : Word) (due : Nat)
  /-- LNCH (R220): room in the queue -/
  | lnch (q : Nat)
  /-- WDONE (R219) -/
  | wdone
  /-- XINV (R319): fen, page, mode, and the accesses that passed their checks before its point -/
  | xinv (fen va mode : Nat) (ids : List Nat)
  /-- CBLOAD (R205): the bank's use count is zero and no CBLOAD is in progress; bank 2 for a record behind a CBLOAD -/
  | cbload (bank : Nat)
  /-- ERET and SWTRAP at S: results of the engine's own groups have landed (R336, R346) -/
  | drain
  /-- SWAPX: the shadow bank's spill or fill has finished, and a service context's work has completed (R342) -/
  | swapx
deriving DecidableEq, Repr

/-- What holds a group: nothing, a trap, a freeze (R236) or a wait (R237). Model's own. -/
inductive Hold where
  | go
  /-- cause, TVAL, SWCODE, and FREC0–FREC3 where the trap is a resumable translation fault (R324, R327) -/
  | trap (c : Cause) (tval : Word) (sw : BitVec 16) (frec : Option (Word × Word × Word × Word))
  | freeze
  | wait (w : Wait)
deriving DecidableEq, Repr

/-! ### Ring descriptors -/

/-- A ring descriptor (Tables 15.2 to 15.4). -/
structure Ring where
  /-- RDCFG.KIND; 2 bits; 15_memory R289; reset 0 -/
  kind : BitVec 2 := 0#2
  /-- RDCFG.SSZ; 4 bits; 15_memory R289; reset 0 -/
  ssz : BitVec 4 := 0#4
  /-- RDCFG.COUNT; 16 bits; 15_memory R289; reset 0 -/
  count : BitVec 16 := 0#16
  /-- RDCFG.BASE; 32 bits; 15_memory R289; reset 0 -/
  base : BitVec 32 := 0#32
  /-- RDPHASE; 32 bits; 15_memory R289; reset 0 -/
  phase : BitVec 32 := 0#32
  /-- RDHEAD; 64 bits; 05_sequencer R136, 15_memory R289; reset 0 -/
  head : Word := 0#64
  /-- position of the slot of a fed ring in which its engine's next group stands: beyond head while an earlier slot's record has not begun;
  15_memory R294; reset 0 -/
  pos : Nat := 0
  /-- RDTAIL; 64 bits; 05_sequencer R136, 15_memory R289; reset 0 -/
  tail : Word := 0#64
  /-- RDCLAIM; 64 bits; 05_sequencer R136, 15_memory R289; reset 0 -/
  claim : Word := 0#64
  /-- RDSTAT.STALE; 15_memory R289; reset 0 -/
  stale : Bool := false
  /-- Mere extensions now lent to a fed ring, in units of 16 slots; 15_memory R298; reset 0 -/
  ext : Nat := 0
  /-- slots of a fed ring that stand in extensions lent by the Mere, by position; 15_memory R298; reset none -/
  extSlots : Tab (List Byte) := []
  /-- model's own: when the slot written at each position of a fed ring can be read (R232) -/
  ready : Tab Nat := []
  /-- model's own: accesses in flight whose points precede what acquires from the ring (R305) -/
  rel : List Nat := []
  /-- model's own: by position of a fed ring, the accesses in flight that its CPUSH released (R137, R305) -/
  relAt : Tab (List Nat) := []
deriving DecidableEq, Repr

/-! ### Contexts (R24) -/

/-- The part of a context that belongs to one engine. -/
structure EngCtx where
  /-- a0–a15 of the vector, fetch, store engines and the array port; 64 bits; 01_machine R16; reset 0 (R25 at step start; before any step DESIGN CHOICE 0, log 1) -/
  a : Tab Reg := []
  /-- l0–l3; 32 bits with start and end addresses; 01_machine R16, 04_control R98; reset 0 (R25 at step start; before any step DESIGN CHOICE 0, log 1) -/
  l : Tab LoopReg := []
  /-- program counter or ring read pointer: the scratch address of the next group; 32 bits; 01_machine R12, R13; reset DESIGN CHOICE 0 (log 84; R25 sets it at step start) -/
  pc : Nat := 0
  /-- remaining DLY count; 16 bits; 04_control R93; reset 0 -/
  dly : Nat := 0
  /-- the DLY remainder that a trap saved, restored by ERET; 16 bits; 04_control R93; reset 0 -/
  dlySave : Nat := 0
  /-- model's own: clocks until the next group may issue: 1 after a group, 2 after a taken transfer (R229), a trap (R331) or ERET (R336); reset 0 -/
  idle : Nat := 0
  /-- model's own: clock of the first group after a wake from a PARK (R297); reset 0 -/
  wakeAt : Nat := 0
  /-- ESTOP executed in this step; 04_control R94; reset true (no step) -/
  stopped : Bool := true
  /-- exposed pipelines; 10_timing R235; reset empty -/
  pipe : List Landing := []
  /-- what the engine waits for; 10_timing R237; reset none -/
  wait : Option Wait := none
  /-- by the address of its word, the operand of a wait as it stood in the wait's first clock: θ of a TWAIT with RG = 1, the position or count of a ring function; a WSTEAL's reply; for PARK its group's address; 04_control R104, 05_sequencer R136; reset none -/
  held : Tab Word := []
  /-- clock in which the words of a group of another core's slice have arrived; 10_timing R229; reset none -/
  fetchAt : Option Nat := none
  /-- the engine has taken a transfer, a trap or a return, so its next group's words are read after it, behind earlier accesses of class 0; 16_ordering R310; reset false -/
  jumped : Bool := false
  /-- clock in which the last of several lines that the next group needs of one bank is served, once the group has first asked for them; 10_timing R238 and 15_memory before R289; reset none -/
  bankAt : Option Nat := none
  /-- model's own: the engine was frozen in this clock (R235); reset false -/
  frozen : Bool := false
  /-- model's own: the full queue (0–6) or fed ring (10 + descriptor) whose push froze the engine in this clock (R298); reset none -/
  pushTo : Option Nat := none
  /-- model's own: groups issued by this context's engine, which numbers landings and loop entries; reset 0 -/
  grp : Nat := 0
  /-- a fetch or store engine halts at a resumable fault of one of its records (R326); reset false -/
  halted : Bool := false
deriving DecidableEq, Repr

/-- A codebook bank of a fetch engine (R204): an entry type code and 16 entries. -/
structure Codebook where
  typ : BitVec 4 := 1#4
  entries : List (BitVec 16) := []
deriving DecidableEq, Repr

/-- A lease request: run length (R140). -/
structure LeaseReq where
  run : Nat
deriving DecidableEq, Repr

/-- The step that a context runs (R255). -/
structure StepCtx where
  /-- launch number (model's own numbering) -/
  lid : Nat
  /-- item index n; R256; for a resident step, the step number k of R265 -/
  item : Nat
  /-- resident step; R265 -/
  resident : Bool := false
  /-- range [lo, hi) of a resident step; R216 -/
  lo : Nat := 0
  hi : Nat := 0
  /-- lo when placed or when it last received a stolen range; R373 -/
  base : Nat := 0
  /-- the step has published a destination; R261 -/
  published : Bool := false
  /-- shadow lines of the output ranges: each byte written and unpublished; R260 -/
  shadow : Tab Byte := []
  /-- shadow lines that hold a poison syndrome, by scratch line; R173, R198, R260 -/
  shadowBad : List Nat := []
  /-- classes with a pending store error; R123 -/
  errs : BitVec 16 := 0#16
  /-- WBAR episodes arrived at, by gang level; R218 -/
  episodes : Tab Nat := []
  /-- gang level of a WBAR that has arrived and not passed; R218 -/
  arrived : Option Nat := none
  /-- placed by pre-emption; R264 -/
  preempting : Bool := false
  /-- pre-emption threshold carried by the step; R264 -/
  thresh : Nat := 0
  /-- earlier operations recorded by the order log at each place; R364 (ORD) -/
  ords : List ((Nat × Nat × Nat) × Nat) := []
  /-- the step ended (terminal trap, launch end or WDONE): no engine issues again; R344 -/
  ended : Bool := false
  /-- the clock before which an ended step's engines still issue: a terminal trap ends the step in the clock after it; 19_traps R344 -/
  endAt : Nat := 0
  /-- an engine has come to its first instruction, at which FADEFL took the fen's FADEDEF; 03_numerics R86 -/
  begun : Bool := false
  /-- the step has been displaced by a pre-emption; 23_fens R373 -/
  displaced : Bool := false
deriving DecidableEq, Repr

/-- The trap-frame and fault-record registers of a context (Tables 19.2, 24.6 and 18.6). -/
structure TrapRegs where
  /-- TCAUSE 0x100; 64 bits; 19_traps R333; reset 0 -/
  tcause : Word := 0#64
  /-- TPC 0x101; 64 bits; 19_traps R333; reset 0 -/
  tpc : Word := 0#64
  /-- TVAL 0x102; 64 bits; 19_traps R333; reset 0 -/
  tval : Word := 0#64
  /-- TSCR 0x104; 64 bits; 19_traps R333; reset 0 -/
  tscr : Word := 0#64
  /-- MTCAUSE 0x201; 64 bits; 24_device R396; reset 0 -/
  mtcause : Word := 0#64
  /-- MTPC 0x202; 64 bits; 24_device R396; reset 0 (as TPC) -/
  mtpc : Word := 0#64
  /-- MTVAL 0x203; 64 bits; 24_device R396; reset 0 (as TVAL) -/
  mtval : Word := 0#64
  /-- MSCR 0x204; 64 bits; 24_device R396; reset 0 -/
  mscr : Word := 0#64
  /-- IFQSEL 0x106; 6 bits; 19_traps R333; reset 0 -/
  ifqsel : BitVec 6 := 0#6
  /-- FREC0–FREC3 0x148–0x14B; 64 bits each; 18_translation R327; reset 0 -/
  frec0 : Word := 0#64
  frec1 : Word := 0#64
  frec2 : Word := 0#64
  frec3 : Word := 0#64
deriving DecidableEq, Repr

/-- The context of a sub-core and what R338 adds to each bank. -/
structure Ctx where
  /-- model's own: number of the context, by which completions find it (R245); reset 0 -/
  cid : Nat := 0
  /-- s0–s63; 64 bits; 01_machine R16, R17; reset 0 (R25 at step start; before any step DESIGN CHOICE 0, log 1) -/
  s : Tab Reg := []
  /-- lr; 64 bits; 01_machine R16; reset 0 (R25 at step start; before any step DESIGN CHOICE 0, log 1) -/
  lr : Reg := {}
  /-- k0–k7; 32 bits (held in bits [31:0]); 01_machine R16, R18; reset 0 (R25 at step start; before any step DESIGN CHOICE 0, log 1) -/
  k : Tab Reg := []
  /-- h0–h15; 64 bits; 01_machine R16; reset 0, the null handle (R25 at step start; before any step DESIGN CHOICE 0, log 1) -/
  h : Tab Reg := []
  /-- v0–v47; 16,384 bits; 01_machine R16, R19; reset 0 (R25 at step start; before any step DESIGN CHOICE 0, log 1) -/
  v : Tab VReg := []
  /-- t0–t31; 16 + 32 bits; 01_machine R22; reset 0 (R25 at step start; before any step DESIGN CHOICE 0, log 1) -/
  t : Tab Token := []
  /-- the five engines' a, l, pc, DLY and pipelines; 01_machine R24 -/
  eng : Tab EngCtx := []
  /-- q0–q5 (index 0–5) and bq (index 6); 64 and 1 bits per entry; 01_machine R16, R23; reset empty (R25 at step start; before any step DESIGN CHOICE, log 1) -/
  q : Tab (List QEntry) := []
  /-- extensions lent by the Mere to q0–q5 (0–5), bq (6), mf (7), sq (8) and the ring ingress queue (9); 15_memory R298; reset 0 -/
  qext : Tab Nat := []
  /-- matrix feed queue; 2,048 bytes per entry; 07_matrix_scan R179; reset empty -/
  mf : List BigEntry := []
  /-- store engine queue; 2,048 bytes per entry; 06_vector R146; reset empty -/
  sq : List BigEntry := []
  /-- ring ingress queue; 2,048 bytes per entry; 06_vector R168, 21_links R358; reset empty -/
  ingress : List BigEntry := []
  /-- STATUS.PL; 2 bits; 01_machine R31; reset 0 -/
  pl : BitVec 2 := 0#2
  /-- STATUS.TRAPPED; 19_traps Table 19.3; reset 0 -/
  trapped : Bool := false
  /-- STATUS.PEND; 19_traps Table 19.3; reset 0 -/
  pend : Bool := false
  /-- STATUS.SVC; 19_traps Table 19.3; reset 0 -/
  svc : Bool := false
  /-- trap frames and fault record; 19_traps R334, 18_translation R327 -/
  tr : TrapRegs := {}
  /-- RMODE 0x000; 2 bits; 03_numerics R66; reset 0 -/
  rmode : BitVec 2 := 0#2
  /-- model's own: the clock of the last CSRW to RMODE and what RMODE held before it, which a vector word of that clock still reads (R66, R224); reset none -/
  rmodeWas : Option (Nat × BitVec 2) := none
  /-- FADEFL 0x001, the fade floor; 31 bits; 03_numerics R85; reset 0x0F80_0000 -/
  fadefl : BitVec 31 := 0x0F800000#31
  /-- RNDSEED 0x002; 64 bits; 05_sequencer R142; reset 0 -/
  rndseed : Word := 0#64
  /-- RNDCTR 0x003; 64 bits; 05_sequencer R142; reset 0 -/
  rndctr : Word := 0#64
  /-- RDSEL 0x020; 6 bits; 15_memory R289; reset 0 -/
  rdsel : BitVec 6 := 0#6
  /-- sequencer in-flight queue; 19_traps R335; reset empty -/
  ifqS : List Landing := []
  /-- vector in-flight queue; 19_traps R335; reset empty -/
  ifqV : List Landing := []
  /-- model's own: results by token that land at the end of this clock, in issue order with the others (R228, R245); reset empty -/
  arrive : List Landing := []
  /-- codebook banks 0 and 1; 08_transfer_system R204; reset bf16 with 16 entries of +0 -/
  cb : Tab Codebook := []
  /-- next record numbers of the fetch and store channels, the SEQ base of WPF 0x018 and WPS 0x019; 32 bits; 15_memory R295; reset 0 -/
  recF : Nat := 0
  recS : Nat := 0
  /-- requests for the matrix and scan leases; 05_sequencer R140; reset none -/
  mreq : Option LeaseReq := none
  sreq : Option LeaseReq := none
  /-- engine ring descriptors of the sub-core, kept while the context is not active; 01_machine R24, 19_traps R339; reset none -/
  erings : List Ring := []
  /-- classes with a pending store error of a service context, which runs no step; 05_sequencer R123; reset none -/
  errs : BitVec 16 := 0#16
  /-- the step that runs in the context; 12_launch R255; reset none -/
  step : Option StepCtx := none
deriving DecidableEq, Repr

/-- A sub-core: its two banks and the state of the bank that is not active (R24, R338). -/
structure Sub where
  /-- active bank; 01_machine R24 -/
  act : Ctx := {}
  /-- shadow bank; 01_machine R24 -/
  shd : Ctx := {}
  /-- STATUS.SHB: 0 FREE, 1 LIVE, 2 SPILL, 3 FILL; 2 bits; 19_traps R338; reset 0 -/
  shb : BitVec 2 := 0#2
  /-- the spill area's context image, once the bank it came from is overwritten; 19_traps R341; reset none -/
  spilled : Option Ctx := none
  /-- clocks left of a shadow swap; 19_traps R339; reset 0 -/
  swapLeft : Nat := 0
  /-- model's own: a SWAPX has issued and its swap has not begun (R342), and the clock in which it issued; reset false, 0 -/
  swapAsk : Bool := false
  askAt : Nat := 0
  /-- the context that the spill area's image was written from, until it is filled back; 19_traps R341; reset none -/
  image : Option Ctx := none
  /-- lines of a context image that the spill engine has still to write or read (R341); reset 0 -/
  spillLeft : Nat := 0
deriving DecidableEq, Repr

/-! ### Cores -/

/-- States of a core (Table 23.2). -/
inductive CoreSt where
  | unowned | member | leaving | scrub | joining
deriving DecidableEq, Repr

/-- A resting reduction (R129): key (size, op, address, class), operand, the contexts that contributed, and the accesses that its application follows (R307). -/
structure CombEntry where
  /-- model's own: the number that its application has, and that what performs after it names -/
  id : Nat := 0
  /-- sub-core of the allocating contribution, in whose stream its application travels; 21_links R353 -/
  g : Nat := 0
  size : Nat
  op : Nat
  loc : Loc
  cls : Nat
  operand : Word
  contributors : List Nat
  after : List Nat
  /-- launch, item, ORD and PLACE of the allocating contribution, for the order log (R364) -/
  owner : Nat × Nat × Nat × Nat := (0, 0, 0, 0)
  /-- contexts that contributed through a handle, with its handle-table index (R135, R319) -/
  via : List (Nat × Nat) := []
  /-- the pages that the contributions passed through handles to (R319) -/
  pages : List (Nat × Nat × Nat) := []
  /-- it is to leave the buffer once the order log lets it (R365) -/
  leave : Bool := false
deriving DecidableEq, Repr

/-- A wait-table entry (R297): watched address, parked sub-core and context. -/
structure WaitEntry where
  addr : Nat
  g : Nat
  cid : Nat
  /-- a write has touched the word, and in replay the wake awaits its logged turn (R365) -/
  woken : Bool := false
deriving DecidableEq, Repr

/-- A cached translation (R317): fen, page base and size, handle-table index, allowed kinds. -/
structure Tlb where
  fen : Nat
  base : Nat
  size : Nat
  index : Nat
  r : Bool
  w : Bool
  fo : Bool := false
deriving DecidableEq, Repr

/-- A frame region of a core (R272): offset, lines per half, ACT and DIRTY by line, launch and holder. -/
structure Region where
  off : Nat
  lines : Nat
  /-- lines whose ACT bit is 1 -/
  act : List Nat
  /-- lines whose DIRTY bit is 1 -/
  dirty : List Nat
  lid : Nat
  holder : Nat
  /-- region number j of the launch -/
  j : Nat
  /-- session batch (fen, model, set) that made it, if any (R282) -/
  batch : Option (Nat × Nat × Nat)
deriving DecidableEq, Repr

/-- A plane descriptor (R178): weight type code, K, N, SC. -/
structure PlaneDesc where
  typ : BitVec 4 := 1#4
  k : Nat := 0
  n : Nat := 0
  sc : Bool := false
deriving DecidableEq, Repr

/-- The arbitration of a leased unit (R14, R140): holder, commands left in the grant, place of the last holder. -/
structure Lease where
  holder : Option Nat := none
  left : Nat := 0
  last : Nat := 3
deriving DecidableEq, Repr

/-- A write that a command is to make: resolved operand, offset, bytes, and whether it carries a poison syndrome (R171, R173). -/
structure CmdWrite where
  w : BitVec 32
  off : Nat
  bytes : List Byte
  bad : Bool
deriving DecidableEq, Repr

/-- A command that a unit has accepted (R170). -/
structure Cmd where
  /-- major opcode in the array port's map -/
  major : Nat
  r : Record
  /-- the context that forwarded it and its sub-core -/
  cid : Nat
  g : Nat
  /-- path: 0 load, 1 compute, 2 both (MSWAP), 3 scan -/
  path : Nat
  /-- the command has begun (R170) -/
  begun : Bool := false
  /-- the slot of a fed ring that it holds until it begins (R294) -/
  slot : Option Nat := none
  /-- clock before which it does not complete (R233) -/
  due : Nat := 0
  /-- operands resolved when it began (R53) -/
  opA : BitVec 32 := 0#32
  opB : BitVec 32 := 0#32
  /-- fade floor read when it began (R85) -/
  floor : BitVec 31 := 0#31
  /-- entries still to be sent to mf, sq or rx, and status bits gathered (R171, R172) -/
  sends : List BigEntry := []
  toMf : Bool := false
  toSq : Bool := false
  toRx : Bool := false
  status : BitVec 32 := 0#32
  /-- entries popped from mf so far (R179) -/
  got : List BigEntry := []
  /-- the sources are read and the results formed from them (R171) -/
  formed : Bool := false
  /-- the results not yet written, and the fades that they count (R84, R173) -/
  writes : List CmdWrite := []
  faded : Nat := 0
  /-- a failed residue check: the command is being recomputed, and the commanding array port freezes (R173, R236) -/
  retrying : Bool := false
  /-- the results are written -/
  computed : Bool := false
  /-- the path is held for mf, sq or rx, and the commanding array port freezes (R179) -/
  stuck : Bool := false
deriving DecidableEq, Repr

/-- A core: its shared blocks (Table 1.3). -/
structure Core where
  /-- core state; 23_fens R372; reset UNOWNED (R394) -/
  st : CoreSt := .unowned
  /-- owning fen; 23_fens R372; reset none -/
  fen : Nat := 0
  /-- target of a move: a fen, or none for UNOWNED; 23_fens R372; reset none -/
  target : Option Nat := none
  /-- clock at which SCRUB or JOINING may end; 23_fens R374, R375; reset 0 -/
  until_ : Nat := 0
  /-- retired; 24_device R400; reset false -/
  retired : Bool := false
  /-- ring descriptors b0–b63; 15_memory R289 -/
  rings : Tab Ring := []
  /-- combining buffer, 64 entries, oldest first; 05_sequencer R129; reset empty -/
  comb : List CombEntry := []
  /-- wait table, 32 entries; 15_memory R297; reset empty -/
  waits : List WaitEntry := []
  /-- level-1 translation cache, 64 entries; 18_translation R317; reset empty -/
  l1 : List Tlb := []
  /-- region table, 8 entries; 13_frames R272; reset empty -/
  regions : List Region := []
  /-- physical plane that is active, 0 or 1; 07_matrix_scan R183; reset 0 -/
  planeSel : Nat := 0
  /-- descriptors of the active and shadow planes; 07_matrix_scan R178; reset bf16, 0, 0, 0 -/
  actDesc : PlaneDesc := {}
  shdDesc : PlaneDesc := {}
  /-- matrix and scan leases; 01_machine R14; reset: no holder, last place 3 -/
  mlease : Lease := {}
  slease : Lease := {}
  /-- accepted commands of the matrix array and of the scan engine, in acceptance order; 07_matrix_scan R170; reset empty -/
  mcmds : List Cmd := []
  scmds : List Cmd := []
  /-- consecutive clocks in which the core was stalled; 15_memory R298; reset 0 -/
  stall : Nat := 0
  /-- credits spent for each receive agent, and room reserved for responses; 21_links R352; reset 0 -/
  spent : Tab Nat := []
  room : Nat := 0
  /-- clock of the last access to each state-store bank, and banks in retention; 24_device R397; reset 0, none -/
  bankAt : Tab Nat := []
  retained : List Nat := []
  /-- banks that a first access is taking out of retention, with the clock from which they serve; 24_device R397; reset none -/
  waking : Tab Nat := []
  /-- lines that banks serve in this clock: bank (0–30 of the slice, 100–115 of the state store), line, and the agent that has won it;
  10_timing R238; reset none -/
  busy : List (Nat × Nat × Nat) := []
  /-- supply voltage in mV; 24_device R399; reset PRESUMED 700 (log 12) -/
  mv : Nat := 700
  /-- worst path-delay margin of the last 100 ms in ps; 24_device R399, Table 24.10; reset PRESUMED 100 (log 12) -/
  ps : Int := 100
  /-- a margin has been reported since firmware last read the core's monitors; 24_device R399; reset false -/
  psNew : Bool := false
deriving DecidableEq, Repr

/-! ### Fens -/

/-- A handle-table entry (R320). -/
structure HEntry where
  alloc : Bool := false
  retired : Bool := false
  base : Nat := 0
  size : Nat := 0
  pa : Nat := 0
  r : Bool := false
  w : Bool := false
  /-- frame-owned: write refused below M (R315) -/
  fo : Bool := false
  lo : Nat := 0
  hi : Nat := 0
  gen : Nat := 0
  present : Bool := false
  /-- double-bit error in the entry: every check fails (R401) -/
  bad : Bool := false
deriving DecidableEq, Repr

/-- A record of the violation log (R323): XLOGA and XLOGI. -/
structure XRec where
  a : Word
  i : Word
deriving DecidableEq, Repr

/-- A bandwidth regulator (R380, R381): rates, and the bucket contents in thousandths of a byte. -/
structure Regul where
  cr : Nat := 0
  cb : Nat := 4
  pr : Nat := 38400
  pb : Nat := 1024
  c : Nat := 256000
  p : Nat := 65536000
  /-- requests that the regulator holds, oldest first: 8 × number + kind (0 access, 1 record, 2 frame command, 3 walk, 4 spill engine,
  5 order log, 6 session sequencer, 7 copy record); 23_fens R380; reset empty -/
  queue : List Nat := []
  /-- CR, CB, PR and PB that a write of this clock sets for the clocks after it; 23_fens R381; reset none -/
  next : Option (Nat × Nat × Nat × Nat) := none
deriving DecidableEq, Repr

/-- A configured counter (R382): EN, CORE, EVENT and the count. -/
structure CntCfg where
  en : Bool := false
  core : BitVec 8 := 0xFF#8
  event : BitVec 16 := 0#16
  /-- clock of the CSRW that set it, whose events it does not count; reset none -/
  since : Option Nat := none
deriving DecidableEq, Repr

/-- A gathered order-log place (R364): KIND, CORE, CLASS, OP, SIZE, PLACE, LTAG and its decision words. -/
structure OlPlace where
  kind : Nat
  core : Nat
  cls : Nat
  op : Nat
  size : Nat
  place : Nat
  tag : Nat
  decs : List Word
deriving DecidableEq, Repr

/-- The order log of a fen (Table 21.4). -/
structure OrderLog where
  /-- OLCTL.MODE; 2 bits; 21_links R363; reset 0 -/
  mode : BitVec 2 := 0#2
  /-- OLBASE; 64 bits; 21_links R363; reset 0 -/
  base : Word := 0#64
  /-- OLSIZE; 32 bits; 21_links R363; reset 0 -/
  size : BitVec 32 := 0#32
  /-- OLPOS; 32 bits; 21_links R363; reset 0 -/
  pos : BitVec 32 := 0#32
  /-- OLSTAT: LOST, OVF, END, HELD; 21_links Table 21.5; reset 0 -/
  stat : BitVec 4 := 0#4
  /-- launches started since OLCTL was last written with a non-zero MODE; 21_links R363; reset 0 -/
  tags : Nat := 0
  /-- decisions gathered and not yet written (record mode), or still to be taken (replay); 21_links R364, R365; reset empty -/
  places : List OlPlace := []
  /-- entries that a regulator holds, in the order in which they are written; 21_links R364, 23_fens R380; reset none -/
  out : List (OlPlace × List Word) := []
  /-- model's own: clocks for which each operation has waited for its logged turn, for HELD (R366): key 2 × id of an access, 2 × engine + 1 of an engine; reset none -/
  heldFor : Tab Nat := []
  /-- model's own: keys of operations that found in this clock that their logged turn had not come (R365); reset none -/
  heldNow : List Nat := []
deriving DecidableEq, Repr

/-- What the session sequencer moves lines of the frame area for: the loads or the store-backs of a batch in a region set of a model
(R282), or a command (R284). -/
inductive CarryFor where
  | load (model set : Nat)
  | store (model set : Nat)
  | command (c : SessCmd)
deriving DecidableEq, Repr

/-- Lines that the session sequencer has still to carry past the FRM regulators, and what for (R380). -/
structure Carry where
  what : CarryFor
  lines : List Nat
deriving DecidableEq, Repr

/-- The session registers of a fen (Table 13.5) and its session ring block (Table 24.2). -/
structure SessRegs where
  /-- SESSCNT; 32 bits; 13_frames R278; reset 0, set by FENFORM -/
  sesscnt : Nat := 0
  /-- SESSBASE; 32 bits; 13_frames R278; reset 0, set by FENFORM -/
  sessbase : Nat := 0
  /-- FTBASE; 64 bits; 13_frames R278; reset 0 -/
  ftbase : Word := 0#64
  /-- FTCOUNT; 20 bits; 13_frames R278; reset 0 -/
  ftcount : BitVec 20 := 0#20
  /-- POOLBASE; 64 bits; 13_frames R278; reset 0 -/
  poolbase : Word := 0#64
  /-- POOLPAGES; 32 bits; 13_frames R278; reset 0 -/
  poolpages : BitVec 32 := 0#32
  /-- MODELBASE; 64 bits; 13_frames R278; reset 0 -/
  modelbase : Word := 0#64
  /-- SCRBASE; 64 bits; 24_device R390; reset 0 -/
  scrbase : Word := 0#64
  /-- SCRSIZE; 13 bits; 24_device R390; reset 0 -/
  scrsize : BitVec 13 := 0#13
  /-- last accepted SCRKICK; 32 bits; 24_device R390; reset 0 -/
  scrkick : BitVec 32 := 0#32
  /-- SCRHEAD; 32 bits; 24_device R390; reset 0 -/
  scrhead : BitVec 32 := 0#32
  /-- the device takes session commands, the stamp re-reads left of the current run, and the clock of the next; 24_device R388, R390; reset false, 0, 0 -/
  scrTaking : Bool := false
  scrRetries : Nat := 0
  scrRetryAt : Nat := 0
  /-- SEVBASE; 64 bits; 24_device R390; reset 0 -/
  sevbase : Word := 0#64
  /-- SEVHEAD; 32 bits; 24_device R390; reset 0 -/
  sevhead : BitVec 32 := 0#32
  /-- SEVSIZE; 13 bits; 24_device R390; reset 0 -/
  sevsize : BitVec 13 := 0#13
  /-- SEVTAIL; 32 bits; 24_device R390; reset 0 -/
  sevtail : BitVec 32 := 0#32
  /-- SEVMSIV; 11 bits; 24_device R390; reset 0x7FF -/
  sevmsiv : BitVec 11 := 0x7FF#11
  /-- events held while the ring is full; 24_device R390; reset empty -/
  heldEvents : List (List Byte) := []
  /-- insertion sequence counter of the prefix cache; 13_frames R276; reset 0 (the first insertion is 1) -/
  iseq : Nat := 0
  /-- loads, store-backs and frame commands whose bytes are passing the regulators; 23_fens R380; reset none -/
  carry : List Carry := []
deriving DecidableEq, Repr

/-- A fen (R370). -/
structure Fen where
  /-- the fen is formed; 23_fens R370; reset false -/
  formed : Bool := false
  /-- FENCFG.WDMAX; 32 bits; 23_fens R377; reset 1,000,000 -/
  wdmax : Nat := 1000000
  /-- FENCFG.WEIGHT; 8 bits; 23_fens R377; reset 1 -/
  weight : Nat := 1
  /-- FENCFG.PFLOOR; 3 bits; 23_fens R377; reset 7 -/
  pfloor : Nat := 7
  /-- PTROOT 0x140; 64 bits; 18_translation R314; reset 0 -/
  ptroot : Word := 0#64
  /-- LPDDR-6 grant: base and length; 18_translation R315; reset none -/
  grantBase : Nat := 0
  grantLen : Nat := 0
  /-- host window: base and length; 18_translation R315; reset none -/
  hostBase : Nat := 0
  hostLen : Nat := 0
  /-- HTCAP 0x142; 13 bits; 18_translation R322; reset 0, set by FENFORM -/
  htcap : Nat := 0
  /-- handle table, entries 1–8,191; 18_translation R320; reset free -/
  ht : Tab HEntry := []
  /-- VFs bound, bit v for VF v + 1; 64 bits; 24_device R385; reset 0 -/
  vfs : BitVec 64 := 0#64
  /-- FEPOCH 0x00E; 64 bits; 23_fens R371; reset 0 -/
  fepoch : Word := 0#64
  /-- counters 1–8 and 32–255 (counter 0 is CLOCKS); 64 bits; 08_transfer_system R225; reset 0 -/
  counters : Tab Word := []
  /-- model's own: what each counter has counted in this clock, added at its end (R225); reset none -/
  counted : Tab Word := []
  /-- CNTSEL 0x120; 8 bits; 23_fens R382; reset 32 -/
  cntsel : BitVec 8 := 32#8
  /-- CNTCFG 0x121 of each counter; 23_fens R382; reset EN 0, CORE 0xFF, EVENT 0 -/
  cntcfg : Tab CntCfg := []
  /-- QSEL 0x110; 8 bits; 23_fens R377; reset 0 -/
  qsel : BitVec 8 := 0#8
  /-- REGSEL 0x128; 8 bits; 23_fens R381; reset 0 -/
  regsel : BitVec 8 := 0#8
  /-- regulators, index class × 64 + channel; 23_fens R380, R381; reset CR 0, CB 4, PR 38,400, PB 1,024, buckets full -/
  regul : Tab Regul := []
  /-- TVEC 0x103; 64 bits; 19_traps R333; reset 0 -/
  tvec : Word := 0#64
  /-- SVEC 0x105; 64 bits; 19_traps R333; reset 0 -/
  svec : Word := 0#64
  /-- TFLOG0 0x10C, TFLOG1 0x10D; 64 bits; 19_traps R333; reset 0 -/
  tflog0 : Word := 0#64
  tflog1 : Word := 0#64
  /-- model's own: clock, priority and sub-core of the trap that TFLOG0 and TFLOG1 hold, for the choice of R345 -/
  tfkey : Nat × Nat × Nat := (0, 0, 0)
  /-- FADEDEF 0x116; 31 bits; 03_numerics R86; reset 0x0F80_0000 -/
  fadedef : BitVec 31 := 0x0F800000#31
  /-- XLOGN 0x144; 64 bits; 18_translation R323; reset 0 -/
  xlogn : Nat := 0
  /-- XLOGSEL 0x145; 4 bits; 18_translation R323; reset 0 -/
  xlogsel : BitVec 4 := 0#4
  /-- violation log, newest first, at most 16 records; 18_translation R323; reset empty -/
  xlog : List XRec := []
  /-- order log; 21_links R363 -/
  ol : OrderLog := {}
  /-- session registers and rings; 13_frames R278, 24_device R390 -/
  sess : SessRegs := {}
deriving DecidableEq, Repr

/-! ### Queues and launches -/

/-- Where a launch stands (R254, R259, R266). -/
inductive LaunchSt where
  /-- in its queue, record not yet checked or not yet started -/
  | queued
  /-- record refused (R254) -/
  | refused
  /-- started (R259) -/
  | started
  /-- ended with a status and a cause (R266), steps and operations not yet all gone -/
  | ending (status : Nat) (cause : Nat) (item : Word)
deriving DecidableEq, Repr

/-- A launch in a queue (R252, R259, R266). -/
structure Launch where
  /-- model's own number -/
  lid : Nat
  fen : Nat
  queue : Nat
  /-- the 256 bytes of its loop-nest record -/
  lnr : List Byte
  /-- STAMP of the queue entry; 24_device R387 -/
  stamp : BitVec 16 := 0#16
  /-- res0 bytes of the host entry were zero; 24_device R387 -/
  res0 : Bool := true
  /-- context, sub-core and token of the LNCH that awaits it; 08_transfer_system R220 -/
  waiter : Option (Nat × Nat) := none
  st : LaunchSt := .queued
  /-- next item index, or next resident step number, to take; 12_launch R256, R265 -/
  next : Nat := 0
  /-- items withdrawn and to be placed again (R261), with their ranges for resident steps (R373) -/
  redo : List (Nat × Nat × Nat) := []
  /-- steps ended by WDONE; 12_launch R267 -/
  steps : Nat := 0
  /-- steps placed and not ended; 12_launch R266 -/
  live : Nat := 0
  /-- clock in which its budget started, and the budget in µs; 23_fens R379 -/
  budget : Option (Nat × Nat) := none
  /-- launch tag; 21_links R363 -/
  tag : Nat := 0
  /-- order-log mode when it started; 21_links R363 -/
  olmode : BitVec 2 := 0#2
  /-- RANDOVL; 23_fens R383 -/
  randovl : Bool := false
  /-- session batch (model, set); 13_frames R282 -/
  batch : Option (Nat × Nat) := none
  /-- every copy of a copy record is performed, and the lines performed so far; 24_device R403 -/
  copied : Bool := false
  copyAt : Nat := 0
  /-- it has started (R259); 23_fens R383 -/
  begun : Bool := false
  /-- frame regions that the session sequencer made when it formed the batch; 13_frames R282 -/
  nplan : Nat := 0
  /-- members of each gang that have ended, by (level, first item of the gang): for WBAR; 08_transfer_system R218 -/
  doneItems : List Nat := []
  /-- the walker has checked the record; 12_launch R254 -/
  checked : Bool := false
  /-- the launch queued before it, 0 for none; 12_launch R259 -/
  prev : Nat := 0
  /-- clock of the last publish and the terminal trap chosen in a clock (R345): (clock, priority, sub-core) -/
  trapKey : Nat × Nat × Nat := (0, 0, 0)
deriving DecidableEq, Repr

/-- A launch queue and its queue block (Tables 23.5 and 24.1). -/
structure LQueue where
  /-- owning fen; 23_fens R370; reset none -/
  owner : Option Nat := none
  /-- QCFG.PRIO; 3 bits; 23_fens R377; reset 7 -/
  prio : Nat := 7
  /-- QCFG.THRESH; 3 bits; 23_fens R377; reset 0 -/
  thresh : Nat := 0
  /-- QCFG.BUDGET; 32 bits; 23_fens R377; reset WDMAX (stored by FENFORM; 1,000,000 before) -/
  budget : Nat := 1000000
  /-- QDONE; 32 bits; 12_launch R259; reset 0 -/
  qdone : BitVec 32 := 0#32
  /-- launches not yet completed, oldest first; 12_launch R252, R259; reset empty -/
  launches : List Launch := []
  /-- QBASE; 64 bits; 24_device R386; reset 0 -/
  qbase : Word := 0#64
  /-- QPOLL; 16 bits; 24_device R386; reset 0 -/
  qpoll : BitVec 16 := 0#16
  /-- QSIZE; 13 bits; 24_device R386; reset 0 -/
  qsize : BitVec 13 := 0#13
  /-- last accepted kick; 32 bits; 24_device R388; reset 0 -/
  kicked : BitVec 32 := 0#32
  /-- QHEAD; 32 bits; 24_device R386; reset 0 -/
  qhead : BitVec 32 := 0#32
  /-- stamp re-reads left of the current run, and the clock of the next; 24_device R388; reset 0 -/
  retries : Nat := 0
  retryAt : Nat := 0
  /-- the device takes entries (a kick or a poll tick has started it and it has not stopped); 24_device R388; reset false -/
  taking : Bool := false
  /-- clock of the next poll tick; 24_device R388; reset 0 -/
  pollAt : Nat := 0
  /-- CBASE; 64 bits; 24_device R386; reset 0 -/
  cbase : Word := 0#64
  /-- CHEAD; 32 bits; 24_device R386; reset 0 -/
  chead : BitVec 32 := 0#32
  /-- CSIZE; 13 bits; 24_device R386; reset 0 -/
  csize : BitVec 13 := 0#13
  /-- CTAIL; 32 bits; 24_device R386; reset 0 -/
  ctail : BitVec 32 := 0#32
  /-- KERR; 24_device R386; reset 0 -/
  kerr : Bool := false
  /-- MSIV; 11 bits; 24_device R386; reset 0x7FF -/
  msiv : BitVec 11 := 0x7FF#11
deriving DecidableEq, Repr

/-! ### Sessions -/

/-- States of a session (R277). -/
inductive SessSt where
  | free | idle | ready | batched | held
deriving DecidableEq, Repr

/-- A session entry (R277). -/
structure Session where
  /-- STATE; 13_frames R277; reset FREE -/
  st : SessSt := .free
  /-- CLOSING; 13_frames R277; reset 0 -/
  closing : Bool := false
  /-- MODEL; 6 bits; 13_frames R277; reset 0 -/
  model : Nat := 0
  /-- FRAME; 64 bits; 13_frames R277; reset 0 -/
  frame : Word := 0#64
  /-- TBUF; 64 bits; 13_frames R277; reset 0 -/
  tbuf : Word := 0#64
  /-- TCAP; 32 bits; 13_frames R277; reset 0 -/
  tcap : Nat := 0
  /-- A, C; 64 bits; 13_frames R277; reset 0 -/
  a : Nat := 0
  c : Nat := 0
  /-- T0 in µs; 13_frames R277; reset 0 -/
  t0 : Nat := 0
  /-- CAUSE; 8 bits; 13_frames R277; reset 0 -/
  cause : Nat := 0
  /-- clock in µs and order in which it became READY; 13_frames R281; reset 0 -/
  readyAt : Nat := 0
  readySeq : Nat := 0
deriving DecidableEq, Repr

/-- One session of a batch: local number, tokens T, skipped (Table 13.8). -/
structure BatchItem where
  sess : Nat
  t : Nat
  skip : Bool
deriving DecidableEq, Repr

/-- How far a batch has come (R282): its sessions are BATCHED; its regions are made and its frames are being loaded; its launch is queued. -/
inductive BatchStage where
  | formed
  | loading
  | queued
deriving DecidableEq, Repr

/-- A batch in region set X or Y of a model (R281, R282). -/
structure Batch where
  fen : Nat
  model : Nat
  set : Nat
  items : List BatchItem
  lid : Nat
  /-- plan: (frame offset, length, state offset, core) for each entry -/
  plan : List (Nat × Nat × Nat × Nat)
  /-- status of the completed launch, once known -/
  status : Option Nat := none
  stage : BatchStage := .queued
  /-- number of the batch among those of its model (Table 13.8) -/
  no : Nat := 0
  /-- the model's descriptor as it was read when the batch formed (R279) -/
  desc : List Byte := []
deriving DecidableEq, Repr

/-! ### Operations in flight -/

/-- What an access in flight does at its home (R128, R302). -/
inductive AccKind where
  | load (signed : Bool)
  | store
  /-- AMO op of R48 -/
  | amo (op : Nat)
  /-- an applied reduction: op of R48 -/
  | red (op : Nat)
deriving DecidableEq, Repr

/-- Where a packet stands on the mesh (R350, R353, R356). -/
inductive Place where
  /-- in the network interface of its source, where no lane of the local port is free yet -/
  | local
  /-- in an adaptive lane: router (core), port (north 0, east 1, south 2, west 3, local 4, die-to-die 5), lane, clock of its last move,
  detector fired -/
  | lane (router port lane moved : Nat) (fired : Bool)
  /-- in a Slough lane: router -/
  | slough (router : Nat)
  /-- in the receive agent's reorder store or next in sequence -/
  | arrived
deriving DecidableEq, Repr

/-- A sequencer access, or a flushed reduction, that has left the engine and not yet performed (R126, R301, R353). -/
structure Access where
  id : Nat
  g : Nat
  cid : Nat
  kind : AccKind
  cls : Nat
  loc : Loc
  size : Nat
  data : Word := 0#64
  expect : Word := 0#64
  dest : Dest := .none
  token : Option Nat := none
  /-- accesses whose points precede this one's (R303, R307) -/
  after : List Nat := []
  /-- clock before which it does not perform -/
  due : Nat := 0
  /-- receive agent: 0–95 slices, 96–143 memory channels, 144 host interface (R353) -/
  agent : Nat := 0
  /-- held at its check point against an absent entry (R325): handle register, handle value and offset -/
  held : Option (Nat × Word × Word) := none
  /-- handle-table index used, for HREV (R135); 0 for none -/
  hidx : Nat := 0
  /-- launch, item, ORD and PLACE for the order log (R364); launch 0 for none -/
  owner : Nat × Nat × Nat × Nat := (0, 0, 0, 0)
  /-- contexts that contributed to a flushed reduction (R129) -/
  contrib : List Nat := []
  /-- privilege level of the issuer, for a held access (R346) -/
  level : Nat := 0
  /-- contexts that contributed to a flushed reduction through a handle, with its handle-table index (R135, R319) -/
  via : List (Nat × Nat) := []
  /-- the pages of the handle entries that it passed, as they stood at the check: base, size and physical address (R319) -/
  pages : List (Nat × Nat × Nat) := []
  /-- a held REDH whose check has passed and that has still to reach the combining buffer (R129, R365) -/
  rests : Bool := false
  /-- model's own: number of the issued group that made it, which orders its result's landing (R228) -/
  grp : Nat := 0
deriving DecidableEq, Repr

/-- A performed token-posting operation that has not yet completed (R242). -/
structure Posted where
  id : Nat
  cid : Nat
  dest : Dest
  val : Word
  poison : Option Cause
  token : Option Nat
  status : BitVec 32
  due : Nat
  /-- ordering class of a load or atomic, whose value a FENCE.acq waits for (R130) -/
  cls : Option Nat := none
  /-- model's own: number of the issued group that posted it, which orders its result's landing (R228) -/
  grp : Nat := 0
deriving DecidableEq, Repr

/-- The kinds of mesh packets (R349). -/
inductive PktKind where
  | request | response | credit
  /-- R349 names it, and no rule of the spec sends one or gives it an effect -/
  | sloughReturn
deriving DecidableEq, Repr

/-- What a packet is for. Model's own. -/
inductive PktJob where
  /-- a request: the access in flight with this number -/
  | access (id : Nat)
  /-- a request: bytes of a transfer record, the 256 bytes of its stream with this number -/
  | record (id window : Nat)
  /-- a request: a group of another core's slice, for an engine of a context, at an address (R229) -/
  | fetch (cid e addr : Nat)
  /-- a response: the completion of an access by token -/
  | post (p : Posted)
  /-- a response: the value of a fixed-latency load of context `cid`, whose number and class are given -/
  | fill (cid id cls : Nat) (val : Word) (poison : Option Cause)
  /-- a response: the words of a fetched group -/
  | words (cid e addr : Nat)
  /-- a response: source bytes of a transfer record, of the packet with this number, from an agent -/
  | bytes (id window agent : Nat)
  /-- a credit, or a Slough return -/
  | none
deriving DecidableEq, Repr

/-- A mesh packet (R349, R353). -/
structure Packet where
  id : Nat
  kind : PktKind
  job : PktJob
  /-- routers at which it enters and leaves the mesh -/
  src : Nat
  dest : Nat
  /-- receive agent of the request that it is, or that it answers -/
  agent : Nat
  /-- source core and sub-core -/
  k : Nat
  g : Nat
  /-- ordering class, and sequence number in its stream (R353) -/
  cls : Nat := 0
  seq : BitVec 16 := 0#16
  /-- data flits of 64 bytes, 0 to 4 -/
  flits : Nat := 0
  /-- where it stands: a lane, the Wisp, a Slough buffer, its receive agent (R350, R354 to R356) -/
  place : Place := .local
  /-- clock before which it does not leave its first lane, or its Slough buffer (log 3) -/
  due : Nat := 0
deriving DecidableEq, Repr

/-- A raise that takes effect at the end of the current clock (R22), or the clear of a TSTAT, which takes effect just before the
raises of its clock (R107). -/
structure Raise where
  cid : Nat
  token : Nat
  n : Nat
  status : BitVec 32
  clear : Bool := false
deriving DecidableEq, Repr

/-- A TRN with prefix, or a fill started by a TRN without one (R134, R317). -/
structure WalkOp where
  id : Nat
  g : Nat
  cid : Nat
  fen : Nat
  va : Word
  acc : Nat
  atM : Bool
  dest : Dest
  token : Option Nat
  due : Nat
  /-- model's own: number of the issued group that asked for it, which orders its result's landing (R228) -/
  grp : Nat := 0
deriving DecidableEq, Repr

/-- A frame command accepted by a frame engine port (R208). -/
structure FrmOp where
  id : Nat
  g : Nat
  cid : Nat
  fen : Nat
  fn : Nat
  a : Word
  b : Word
  dest : Dest
  token : Nat
  due : Nat
  /-- physical lines still to be carried past the FRM regulators (R380) -/
  lines : List Nat := []
  /-- model's own: number of the issued group that gave it, which orders its result's landing (R228) -/
  grp : Nat := 0
deriving DecidableEq, Repr

/-- A piece of a record's source stream that its receive agent has read: where in the stream, the agent, and what the read gave. It is
there once its response has landed (R349). -/
structure InPiece where
  pos : Nat
  agent : Nat
  bytes : List Byte
  bad : Bool
  refused : Bool
  landed : Bool := false
deriving DecidableEq, Repr

/-- A transfer record that its engine has taken (R198). -/
structure Xfer where
  id : Nat
  g : Nat
  cid : Nat
  /-- engine: 2 fetch, 3 store -/
  eng : Nat
  major : Nat
  r : Record
  /-- command index (R295) -/
  num : Nat
  /-- address of its group in the engine ring -/
  tpc : Nat := 0
  /-- the slot of a fed ring that it holds until it begins (R294) -/
  slot : Option Nat := none
  /-- it has begun: operands resolved and checked -/
  begun : Bool := false
  /-- operands resolved when it began -/
  opA : BitVec 32 := 0#32
  opB : BitVec 32 := 0#32
  /-- handle values read when it began or restarted -/
  hA : Word := 0#64
  hB : Word := 0#64
  /-- shape (R54): rows, row length and row strides in bytes, SH -/
  rows : Nat := 1
  len : Nat := 0
  strideA : Nat := 0
  strideB : Nat := 0
  shaped : Bool := false
  /-- index list of FGATH and SSCAT; none for an index of a line with an uncorrectable error (R200) -/
  idx : List (Option Nat) := []
  /-- set register of SMCAST (R201) -/
  reg : Word := 0#64
  /-- source stream bytes performed -/
  pos : Nat := 0
  /-- destination stream bytes performed (DONE of R295) -/
  done : Nat := 0
  status : BitVec 32 := 0#32
  /-- clock from which bytes move, and clock before which it does not complete (R233) -/
  start : Nat := 0
  due : Nat := 0
  /-- a standing resumable fault: cause, OPND and HREG of Table 18.6 (R324) -/
  fault : Option (Cause × Nat × Nat) := none
  /-- the fault is held for delivery under PEND (R343, R346) -/
  pended : Bool := false
  /-- a handler has been entered while the fault stood, and its ERET restarts the record (R326, R328) -/
  served : Bool := false
  /-- the fault is that of a poisoned handle, not of an absent page (R324) -/
  poisonH : Bool := false
  /-- the fault record registers describe this fault, which is held under PEND (R343) -/
  recorded : Bool := false
  /-- operands (0 opA, 1 opB) and rows whose handle check has failed and been logged (R321, R323) -/
  logged : List (Nat × Nat) := []
  /-- what the record reads before its first byte has been read: CHAIN's value, and the source where it overlaps the destination (R199, R206) -/
  ready : Bool := false
  /-- source pieces that have been read at another core's slice or in memory, and are not written yet (R349, R353) -/
  inbox : List InPiece := []
  /-- CRC register of FCRC and SCRC (R206) -/
  crc : Word := 0#64
  /-- the source stream piece by piece, read before any byte is written, where source and destination overlap (R199) -/
  buf : List (List Byte × Bool) := []
  /-- sq entry being read -/
  ent : Option BigEntry := none
  /-- bytes of the mf entry being filled, and whether one came from a bad line (R197, R198) -/
  fill : List Byte := []
  fillBad : Bool := false
deriving DecidableEq, Repr

/-- A ring entry travelling on a link (R358, R359): sending core (96 for the previous package's core 95), channel, launch and
fen of the sender, clock of earliest delivery. -/
structure RingMsg where
  core : Nat
  ch : Nat
  lid : Nat
  fen : Nat
  e : BigEntry
  due : Nat
  /-- it travels on a peer ring link -/
  peer : Bool := false
deriving DecidableEq, Repr

/-- What the work walker and the other blocks of a die keep (Table 1.3, R262, R355). -/
structure Die where
  /-- level-2 translation cache, 4,096 entries; 18_translation R317; reset empty -/
  l2 : List Tlb := []
  /-- deficits D[f, p], index fen × 8 + p; 12_launch R262; reset 0 -/
  deficit : Tab Int := []
  /-- fen pointer of each priority; 12_launch R262; reset: on no fen -/
  fptr : Tab Nat := []
  /-- queue pointer of each fen and priority, index fen × 8 + p; 12_launch R262; reset: on no queue -/
  qptr : Tab Nat := []
  /-- sub-core last placed for each fen; 12_launch R263; reset: none -/
  lastSub : Tab Nat := []
  /-- reserved sub-cores and the launch they are reserved for; 12_launch R257; reset none -/
  reserved : List Nat := []
  resFor : Option Nat := none
  /-- clock of the walker's last placement; 12_launch R262; reset none -/
  placedAt : Option Nat := none
  /-- bytes of the Mere lent to each fen; 15_memory R299; reset 0 -/
  mere : Tab Nat := []
  /-- router that the Wisp has reached, 0–47 in core-id order, or captured; 21_links R355; reset DESIGN CHOICE router 0 (log 13) -/
  wisp : Nat := 0
  /-- packets in the Slough buffers, by router; 21_links R356; reset none -/
  sloughs : Tab Nat := []
deriving DecidableEq, Repr

/-- The peer ring links (R361, Table 21.2). -/
structure Peers where
  /-- NXTEN, PRVEN; 21_links R361; reset 0 -/
  nxtEn : Bool := false
  prvEn : Bool := false
  /-- NXTUP, PRVUP; 21_links R361; reset 0 -/
  nxtUp : Bool := false
  prvUp : Bool := false
  /-- FEN; 4 bits; 21_links R361; reset 0 -/
  fen : Nat := 0
  /-- model's own: the packages at the other ends have enabled the links (an input) -/
  nxtReady : Bool := true
  prvReady : Bool := true
  /-- model's own: each link can train, which PEERLINK asks (an input; Table 24.7); reset true -/
  nxtTrains : Bool := true
  prvTrains : Bool := true
deriving DecidableEq, Repr

/-- An event-log entry (Table 24.11). -/
structure DevEvent where
  code : Nat
  core : Nat
  fen : Nat
  arg : Nat
  time : BitVec 32
  value : Word
deriving DecidableEq, Repr

/-- The management port, boot and service state (R391 to R401). -/
structure Service where
  /-- BOOTST [7:0]; 24_device R394; reset 0x00 -/
  bootst : BitVec 8 := 0#8
  /-- model's own: the images of slots A and B of the boot flash pass the key and signature checks of step 2, and training succeeds (what the
  ROM and PHYs find) -/
  slotA : Bool := true
  slotB : Bool := true
  trains : Bool := true
  /-- running security version and fused minimum; 32 bits; 24_device R391, R395; reset DESIGN CHOICE 0 (log 14) -/
  version : BitVec 32 := 0#32
  minVersion : BitVec 32 := 0#32
  /-- versions of the images in slots A and B; 32 bits; 24_device R394; reset DESIGN CHOICE 0 (log 14) -/
  versionA : BitVec 32 := 0#32
  versionB : BitVec 32 := 0#32
  /-- the device booted from slot B; 24_device R394, Table 24.12; reset false -/
  fromB : Bool := false
  /-- COUNT of ATTEST; 64 bits; 24_device R395; reset 0 -/
  attestCount : Nat := 0
  /-- responses that stand at the I3C port and at the mailbox: tag, status, result; 24_device R391; reset none -/
  responses : List (Nat × BitVec 16 × BitVec 8 × List Byte) := []
  /-- request bytes of the PF0 mailbox, 0x1000–0x10FF, by offset; 24_device R391; reset DESIGN CHOICE 0 (log 111) -/
  mbox : Tab Byte := []
  /-- the mailbox's doorbell reads 1; 24_device R391; reset 0 -/
  doorbell : Bool := false
  /-- CODE bytes of the in-band interrupts sent at the I3C port; 24_device R391, R393; reset none -/
  ibi : List Nat := []
  /-- moves whose COREMOVE response is awaited: port, tag, core; 24_device R391; reset none -/
  moves : List (Nat × BitVec 16 × Nat) := []
  /-- fens being ended by FENEND: fen, and the (port, tag) of the request; 24_device R391; reset none -/
  ending : List (Nat × Nat × BitVec 16) := []
  /-- EVTAIL, EVHEAD; 32 bits; 24_device R393; reset 0 -/
  evtail : BitVec 32 := 0#32
  evhead : BitVec 32 := 0#32
  /-- EVSTAT.LOST; 24_device R393; reset 0 -/
  evlost : Bool := false
  /-- event log slots; 24_device R393; reset empty -/
  evlog : Tab DevEvent := []
  /-- MTVEC 0x200; 64 bits; 24_device R396; reset 0 -/
  mtvec : Word := 0#64
  /-- SPBASE 0x208; 64 bits; 24_device R396; reset DESIGN CHOICE 0 (log 15) -/
  spbase : Word := 0#64
  /-- LIMCLK 0x210; 64 bits; 24_device R396; reset 0 -/
  limclk : Nat := 0
  /-- F of the current limiter window and the clock at which the window ends; 24_device R398; reset 0 -/
  limF : Nat := 0
  limEnd : Nat := 0
  /-- cores with an emergency margin; 24_device R399; reset none -/
  emergency : List Nat := []
  /-- error counts of HEALTH: single-bit, double-bit, flit retries, LINKERR; 64 bits; 24_device Table 24.10; reset 0 -/
  single : Nat := 0
  double : Nat := 0
  flits : Nat := 0
  linkerrs : Nat := 0
  /-- failed attempts in a row on the flit of each hop, and the clock of the last, index core × 8 + port; 24_device R401; reset 0 -/
  attempts : Tab (Nat × Nat) := []
  /-- MSI-X messages sent: VF, vector; 24_device R389, R390; reset none -/
  msix : List (Nat × Nat) := []
deriving DecidableEq, Repr

/-! ### The cursor -/

/-- Fields of a PFX (Table 2.2). -/
structure Pfx where
  t : Bool := false
  token : Nat := 0
  /-- predicate: none, or k register -/
  kp : Option Nat := none
  rm : Nat := 0
  rx : Bool := false
  sq : Bool := false
  mf : Bool := false
  nr : Bool := false
deriving DecidableEq, Repr

/-- Model's own: the word that an engine is executing. `exec` reads it; `step` sets it. -/
structure Cursor where
  /-- sub-core and engine -/
  g : Nat := 0
  e : Nat := 0
  /-- address of the group's first word, of this word, and of the word after the group -/
  grp : Nat := 0
  addr : Nat := 0
  next : Nat := 0
  /-- prefix that applies to this word (R40) -/
  pfx : Pfx := {}
  /-- what held the word; `go` when it issued -/
  hold : Hold := .go
  /-- the group has taken a transfer (R99) -/
  taken : Bool := false
  /-- tokens whose covered pending tags clear when the group has issued (R240) -/
  clears : List Nat := []
  /-- accesses that the group's earlier words made, for R127 -/
  made : List Nat := []
  /-- lines of the core's own banks that the group's accesses need, each with its bank (R238) -/
  lines : List (Nat × Nat) := []
  /-- the number that the group's first operation receives, so that a word can tell earlier groups' operations from those of
  its own group (R133, R219); 0 when it stands alone -/
  mark : Nat := 0
  /-- resting reductions of earlier groups that the group's own words have merged into for the first time (R129, R218) -/
  joined : List Nat := []
  /-- the group's last word issues again in a group of its own, after the accesses of this one (R219; log 59) -/
  again : Bool := false
deriving DecidableEq, Repr

/-! ### The package -/

/-- Model's own: what registers and counters are made of, as it stood when the current clock began: a CSRR or CNTR holds every effect of
earlier clocks and none of its own (R224, R225). -/
structure Seen where
  cores : Tab Core
  subs : Tab Sub
  fens : Tab Fen
  queues : Tab LQueue
  dies : Tab Die
  xfers : List Xfer
  peers : Peers
  svc : Service
deriving DecidableEq, Repr

/-- The state of the package. -/
structure State where
  /-- CLOCKS: clocks since reset; 64 bits; 00_scope R1, 08_transfer_system R225; reset 0 -/
  clock : Nat := 0
  /-- every byte of scratch, state store, weight planes, LPDDR-6 and host memory; 15_memory, 16_ordering R300; reset all zero: scratch, state store and planes by R394 step 4 and R178, LPDDR-6 and host memory DESIGN CHOICE 0 (log 2) -/
  mem : List Host.Cell := []
  /-- 64-byte lines that hold a poison syndrome, by key / 64, rising; 07_matrix_scan R173, 24_device R401; reset none -/
  ecc : List Nat := []
  /-- cores 0–95; 01_machine R8 -/
  cores : Tab Core := []
  /-- sub-cores 0–383; 01_machine R10 -/
  subs : Tab Sub := []
  /-- fens 0–15; 23_fens R370 -/
  fens : Tab Fen := []
  /-- launch queues 0–255; 12_launch -/
  queues : Tab LQueue := []
  /-- dies 0 and 1; 01_machine R8 -/
  dies : Tab Die := []
  /-- session entries 0–65,535 by global number; 13_frames R277 -/
  sessions : Tab Session := []
  /-- batches in progress; 13_frames R281; reset none -/
  batches : List Batch := []
  /-- batches formed for each model, index fen × 64 + model; 13_frames Table 13.8; reset 0 -/
  batchNo : Tab Nat := []
  /-- accesses in flight, oldest first; 16_ordering R301; reset none -/
  accs : List Access := []
  /-- performed operations not yet completed; 10_timing R242; reset none -/
  posted : List Posted := []
  /-- walks and fills in progress; 18_translation R317; reset none -/
  walks : List WalkOp := []
  /-- frame commands in progress, in the order of R215; 08_transfer_system R208; reset none -/
  frms : List FrmOp := []
  /-- begun transfer records; 08_transfer_system R198; reset none -/
  xfers : List Xfer := []
  /-- raises of the current clock; 01_machine R22; reset none -/
  raises : List Raise := []
  /-- packets on the mesh and in the reorder stores, oldest first; 21_links R349 to R356; reset none -/
  mesh : List Packet := []
  /-- next sequence number of each stream, by (sub-core × 16 + class) × 256 + agent; 16 bits; 21_links R353; reset 0 -/
  streams : Tab (BitVec 16) := []
  /-- ring entries on the links, oldest first; 21_links R358; reset none -/
  ring : List RingMsg := []
  /-- peer ring links; 21_links R361 -/
  peers : Peers := {}
  /-- management port, boot and service; 24_device R391–R401 -/
  svc : Service := {}
  /-- model's own: next launch, context and operation numbers; reset 1 -/
  fresh : Nat := 1
  /-- model's own: the word being executed; reset sub-core 0 -/
  cur : Cursor := {}
  /-- model's own: engines (sub-core, engine) that have still to move in this clock, in order; reset none -/
  turn : List (Nat × Nat) := []
  /-- model's own: events that are due now, in the order in which they take effect; reset BOOT (R394) -/
  agenda : List Event := []
  /-- model's own: acts of the host, the operator and the physical world, each with its clock; reset none -/
  script : List (Nat × Event) := []
  /-- model's own: runs of host memory (address, bytes) whose accesses the host's completer answers with an error; 18_translation Table
  18.5 REASON 8; reset DESIGN CHOICE none (log 110) -/
  hostBad : List (Nat × Nat) := []
  /-- model's own: extra clocks drawn, in order, for each delay that the spec leaves free; 0 when none is left; reset none (log 3) -/
  jitter : List Nat := []
  /-- model's own: failed attempts of the residue check of each matrix or scan command, in the order in which they form their results; 0 when none is left; 07_matrix_scan R173; reset none (log 7) -/
  residue : List Nat := []
  /-- model's own: counter of the free values of Config; reset 0 (log 4) -/
  free : Nat := 0
  /-- model's own: what CSRR and CNTR read in this clock; none stands for the state itself; 08_transfer_system R224; reset none -/
  seen : Option Seen := none
deriving DecidableEq, Repr

/-- The package right after reset: every core UNOWNED, no fen formed (R394), every table at its defaults; the first event is
BOOT (R394). -/
def State.reset : State := { agenda := [.boot] }

end Sys2Proof.Machine
end

