-- ==== Sys2Proof/Machine/Ops.lean ====
section
/-! DEFINITION. The named operations over the state: tables, bit fields, memory, registers with their tags, tokens, queues,
landing, and taking a trap and returning from one. -/

namespace Sys2Proof.Machine
open Sys2Proof

/-! ### Tables and bit fields -/

/-- Entry `i` of a table whose unlisted entries are `d`. -/
def tget {α : Type} (d : α) : Tab α → Nat → α
  | [], _ => d
  | (k, v) :: r, i => if k = i then v else tget d r i

/-- The table with entry `i` set to `v`. -/
def tset {α : Type} : Tab α → Nat → α → Tab α
  | [], i, v => [(i, v)]
  | (k, w) :: r, i, v => if k = i then (i, v) :: r else if i < k then (i, v) :: (k, w) :: r else (k, w) :: tset r i v

/-- The table with entry `i` changed by `f`. -/
def tmod {α : Type} (d : α) (t : Tab α) (i : Nat) (f : α → α) : Tab α := tset t i (f (tget d t i))

/-- The entry at place `i` of a list, or `d`. -/
def nth {α : Type} (d : α) : List α → Nat → α
  | [], _ => d
  | x :: _, 0 => x
  | _ :: r, i + 1 => nth d r i

/-- Insert before the first element that is not smaller. -/
def insertBy {α : Type} (le : α → α → Bool) (a : α) (l : List α) : List α :=
  l.takeWhile (fun b => !le a b) ++ a :: l.dropWhile (fun b => !le a b)

/-- Sort by an order; elements that are equal in it keep their places. -/
def sortBy {α : Type} (le : α → α → Bool) (l : List α) : List α := l.foldr (insertBy le) []

/-- Field [lo + len − 1 : lo] of a number (R5). -/
def bits (x lo len : Nat) : Nat := x / 2 ^ lo % 2 ^ len

/-- Bit `i` of a number. -/
def bitAt (x i : Nat) : Bool := x / 2 ^ i % 2 == 1

/-- The number 1 or 0. -/
def bnat (b : Bool) : Nat := if b then 1 else 0

/-- sext(x, 64) of the low `n` bits of `x` (R3), for n from 1 to 64. -/
def sext64 (n : Nat) (x : Nat) : Word :=
  let y := x % 2 ^ n
  if y < 2 ^ (n - 1) then BitVec.ofNat 64 y else BitVec.ofNat 64 (2 ^ 64 - 2 ^ n + y)

/-- The little-endian bytes of a number (R5). -/
def leBytes : Nat → Nat → List Byte
  | 0, _ => []
  | n + 1, x => BitVec.ofNat 8 x :: leBytes n (x / 256)

/-- The number that little-endian bytes hold (R5). -/
def leNat : List Byte → Nat
  | [] => 0
  | b :: r => b.toNat + 256 * leNat r

/-- The bytes of a vector register or queue entry, byte 0 first (R19). -/
def vecBytes (v : VWord) : List Byte := leBytes 2048 v.toNat

/-- A vector register from its bytes; bytes beyond those given are 0. -/
def vecOfBytes (bs : List Byte) : VWord := BitVec.ofNat 16384 (leNat bs)

/-- The poison that a result keeps when two meet: the cause of higher priority in Table 19.1 (R20). -/
def causePrio : Cause → Nat
  | .illenc => 1 | .priv => 2 | .badpc => 3 | .loopform => 4 | .underwait => 5 | .memerr => 6 | .htfull => 7
  | .perm => 8 | .badva => 9 | .stoff => 10 | .align => 11 | .notpresent | .notpresentMal => 12 | .xlate => 13 | .ringerr => 14
  | .cmdopnd => 15 | .badwbar => 16 | .badq => 17 | .shadowfull => 18 | .mereout => 19 | .swtrap => 20
  | .badlnr => 21 | .watchdog => 22

/-- The code of a cause (Table 19.1). -/
def causeCode : Cause → Nat
  | .underwait => 0x01 | .memerr => 0x02 | .htfull => 0x03 | .perm => 0x04 | .badva => 0x05 | .stoff => 0x06
  | .align => 0x07 | .notpresent | .notpresentMal => 0x08 | .xlate => 0x09 | .illenc => 0x10 | .priv => 0x11 | .badpc => 0x12
  | .loopform => 0x13 | .ringerr => 0x14 | .cmdopnd => 0x15 | .badwbar => 0x16 | .badq => 0x17 | .shadowfull => 0x18
  | .mereout => 0x19 | .swtrap => 0x1A | .badlnr => 0x20 | .watchdog => 0x21

/-- Causes of class resumable in Table 19.1. -/
def causeResumable : Cause → Bool
  | .notpresent | .notpresentMal | .xlate | .swtrap => true
  | _ => false

/-- The poison of a result from the poison of two operands (R20). -/
def meet : Option Cause → Option Cause → Option Cause
  | none, p => p
  | some a, none => some a
  | some a, some b => if (causePrio b) < (causePrio a) then some b else some a

/-- A value read from a register: its bits and its poison. -/
structure Val where
  w : Word
  p : Option Cause := none
deriving DecidableEq, Repr

/-! ### Objects of the package -/

/-- Core of a sub-core (R10). -/
def coreNo (g : Nat) : Nat := g / 4
/-- Die of a core (R8). -/
def dieNo (c : Nat) : Nat := c / 48

def subOf (s : State) (g : Nat) : Sub := tget {} s.subs g
def setSub (s : State) (g : Nat) (x : Sub) : State := { s with subs := tset s.subs g x }
def modSub (s : State) (g : Nat) (f : Sub → Sub) : State := setSub s g (f (subOf s g))
/-- The active context of a sub-core (R24). -/
def ctxOf (s : State) (g : Nat) : Ctx := (subOf s g).act
def setCtx (s : State) (g : Nat) (c : Ctx) : State := modSub s g fun b => { b with act := c }
def modCtx (s : State) (g : Nat) (f : Ctx → Ctx) : State := setCtx s g (f (ctxOf s g))
def engOf (c : Ctx) (e : Nat) : EngCtx := tget {} c.eng e
def setEng (c : Ctx) (e : Nat) (x : EngCtx) : Ctx := { c with eng := tset c.eng e x }
def modEng (c : Ctx) (e : Nat) (f : EngCtx → EngCtx) : Ctx := setEng c e (f (engOf c e))
def coreOf (s : State) (k : Nat) : Core := tget {} s.cores k
def setCore (s : State) (k : Nat) (x : Core) : State := { s with cores := tset s.cores k x }
def modCore (s : State) (k : Nat) (f : Core → Core) : State := setCore s k (f (coreOf s k))
def fenOf (s : State) (f : Nat) : Fen := tget {} s.fens f
def setFen (s : State) (f : Nat) (x : Fen) : State := { s with fens := tset s.fens f x }
def modFen (s : State) (f : Nat) (m : Fen → Fen) : State := setFen s f (m (fenOf s f))
def queueOf (s : State) (q : Nat) : LQueue := tget {} s.queues q
def setQueue (s : State) (q : Nat) (x : LQueue) : State := { s with queues := tset s.queues q x }
def modQueue (s : State) (q : Nat) (m : LQueue → LQueue) : State := setQueue s q (m (queueOf s q))
def dieOf (s : State) (d : Nat) : Die := tget {} s.dies d
def setDie (s : State) (d : Nat) (x : Die) : State := { s with dies := tset s.dies d x }
def modDie (s : State) (d : Nat) (m : Die → Die) : State := setDie s d (m (dieOf s d))
def ringOf (s : State) (k b : Nat) : Ring := tget {} (coreOf s k).rings b
def setRing (s : State) (k b : Nat) (r : Ring) : State := modCore s k fun c => { c with rings := tset c.rings b r }

/-- The executing sub-core, engine, core, context and engine context of the cursor. -/
def curCore (s : State) : Nat := coreNo s.cur.g
def curCtx (s : State) : Ctx := ctxOf s s.cur.g
def curEng (s : State) : EngCtx := engOf (curCtx s) s.cur.e
/-- What the executing word has held since the first clock of its wait. -/
def heldWord (s : State) : Option Word := ((curEng s).held.find? fun p => p.1 == s.cur.addr).map (·.2)
def modCur (s : State) (f : Ctx → Ctx) : State := modCtx s s.cur.g f
def modCurEng (s : State) (f : EngCtx → EngCtx) : State := modCur s fun c => modEng c s.cur.e f
/-- Hold a value for the executing word while its group waits. -/
def holdWord (s : State) (w : Word) : State := modCurEng s fun x => { x with held := tset x.held s.cur.addr w }
/-- The fen that owns the executing core (Table 1.8). -/
def curFen (s : State) : Nat := (coreOf s (curCore s)).fen

/-- A core's slice, state store and ring ingress answer its fen in the states MEMBER, LEAVING and JOINING (Table 23.2). -/
def CoreSt.serves : CoreSt → Bool
  | .member | .leaving | .joining => true
  | _ => false

/-- A core's slice answers accesses of fen `f` (R26, R372). -/
def inFen (s : State) (f core : Nat) : Bool := core < 96 && (coreOf s core).st.serves && (coreOf s core).fen == f

/-- The next of the numbers that the model gives to contexts, operations and launches. -/
def freshId (s : State) : Nat × State := (s.fresh, { s with fresh := s.fresh + 1 })

/-- An extra delay in clocks for an act whose delay the spec leaves free (log 3). -/
def draw (s : State) : Nat × State :=
  match s.jitter with
  | [] => (0, s)
  | j :: r => (j, { s with jitter := r })

/-- A poisoned value whose bits the spec does not give (log 6). -/
def freePoison (s : State) (c : Cause) : Val × State :=
  (⟨Config.freeWord s.free, some c⟩, { s with free := s.free + 1 })

/-- `e` takes effect before any other engine moves. -/
def now (s : State) (e : Event) : State := { s with agenda := s.agenda ++ [e] }

/-- The current limiter freezes every engine in this clock (R398). -/
def limiterOn (s : State) : Bool := s.clock < s.svc.limEnd && s.clock + 64 < s.svc.limEnd + s.svc.limF

/-! ### Contexts by number (R245) -/

/-- Where a context stands: its sub-core and 0 active, 1 shadow bank, 2 spill area. -/
def findCtx (s : State) (cid : Nat) : Option (Nat × Nat) :=
  s.subs.findSome? fun (g, _) =>
    let b := subOf s g
    if b.act.cid = cid then some (g, 0) else if b.shd.cid = cid then some (g, 1)
    else match b.spilled with
      | some c => if c.cid = cid then some (g, 2) else none
      | none => none

/-- The context at a place. -/
def ctxAt (s : State) (g bank : Nat) : Ctx :=
  let b := subOf s g
  if bank = 0 then b.act else if bank = 1 then b.shd else b.spilled.getD {}

def setCtxAt (s : State) (g bank : Nat) (c : Ctx) : State :=
  modSub s g fun b => if bank = 0 then { b with act := c } else if bank = 1 then { b with shd := c } else { b with spilled := some c }

/-- The context with number `cid`, wherever it stands; a context of defaults when it is gone. -/
def ctxOfCid (s : State) (cid : Nat) : Ctx :=
  match findCtx s cid with
  | some (g, b) => ctxAt s g b
  | none => {}

/-- Change the context with number `cid`, wherever it stands (R245). -/
def modCid (s : State) (cid : Nat) (f : Ctx → Ctx) : State :=
  match findCtx s cid with
  | some (g, b) => setCtxAt s g b (f (ctxAt s g b))
  | none => s

/-! ### Launches by number -/

/-- The launch with number `lid` and the queue that holds it. -/
def findLaunch (s : State) (lid : Nat) : Option (Nat × Launch) :=
  s.queues.findSome? fun (q, _) => ((queueOf s q).launches.find? (·.lid == lid)).map fun l => (q, l)

def launchOf (s : State) (lid : Nat) : Launch :=
  match findLaunch s lid with
  | some (_, l) => l
  | none => { lid := lid, fen := 0, queue := 0, lnr := [] }

def modLaunch (s : State) (lid : Nat) (f : Launch → Launch) : State :=
  match findLaunch s lid with
  | some (q, _) => modQueue s q fun x => { x with launches := x.launches.map fun l => if l.lid = lid then f l else l }
  | none => s

/-- A little-endian field of a byte list: `n` bytes at `off`. -/
def fieldLE (bs : List Byte) (off n : Nat) : Nat := leNat ((bs.drop off).take n)

/-- Output range `i` of a launch: address and length (Table 12.1). -/
def outRange (l : Launch) (i : Nat) : Nat × Nat := (fieldLE l.lnr (0xA0 + 8 * i) 4, fieldLE l.lnr (0xA4 + 8 * i) 4)
/-- The output ranges of a launch, range 0 first. -/
def outRanges (l : Launch) : List (Nat × Nat) := (List.range (fieldLE l.lnr 0x0C 1)).map (outRange l)

/-! ### Memory

Every byte has one home (R300). The homes of all spaces lie in one list of cells, each space in its own range of keys. -/

/-- The key of the first byte of a place. -/
def Loc.key : Loc → Nat
  | .scratch a => a
  | .state c o => 0x1_0000_0000 + c * 0x40_0000 + o
  | .plane c p o => 0x2_0000_0000 + c * 0x2_0000 + p * 0x1_0000 + o
  | .phys pa => 2 ^ 60 + pa

/-- The cells of a run of bytes from a key; bytes of 0 are not listed. -/
def cellsFrom : Nat → List Byte → List Host.Cell
  | _, [] => []
  | k, b :: r => if b = 0#8 then cellsFrom (k + 1) r else (k, b) :: cellsFrom (k + 1) r

/-- Write a run of bytes. -/
def memSplice (m : List Host.Cell) (k : Nat) (bs : List Byte) : List Host.Cell :=
  m.takeWhile (fun c => c.1 < k) ++ cellsFrom k bs ++ m.dropWhile (fun c => c.1 < k + bs.length)

/-- Read `n` bytes of a list of cells whose keys are not below `k`. -/
def memRun : Nat → List Host.Cell → Nat → List Byte
  | 0, _, _ => []
  | n + 1, [], k => 0#8 :: memRun n [] (k + 1)
  | n + 1, c :: r, k => if c.1 = k then c.2 :: memRun n r (k + 1) else 0#8 :: memRun n (c :: r) (k + 1)

/-- Read `n` bytes from key `k`. An unlisted byte reads as 0. -/
def memRead (m : List Host.Cell) (k n : Nat) : List Byte := memRun n (m.dropWhile fun c => c.1 < k) k

/-- The canonical form of memory: keys strictly rising, no listed byte of 0. -/
abbrev Memory.wf (m : List Host.Cell) : Prop := m.Pairwise (fun a b => a.1 < b.1) ∧ ∀ c ∈ m, c.2 ≠ 0#8

/-- One byte of memory by key. -/
def byteAt (s : State) (k : Nat) : Byte := (memRead s.mem k 1).headD 0#8

/-- Read bytes at their home. -/
def readHome (s : State) (l : Loc) (n : Nat) : List Byte := memRead s.mem l.key n

/-- The 64-byte lines of a run of bytes (R26). -/
def linesOf (k n : Nat) : List Nat := if n = 0 then [] else (List.range ((k + n - 1) / 64 - k / 64 + 1)).map (k / 64 + ·)

/-- Write bytes at their home. A write replaces the syndrome of every line that it covers whole (R401). -/
def writeHome (s : State) (l : Loc) (bs : List Byte) : State :=
  let k := l.key
  { s with mem := memSplice s.mem k bs,
           ecc := s.ecc.filter fun x => !(k ≤ x * 64 && x * 64 + 64 ≤ k + bs.length) }

/-- Some line of the run holds a poison syndrome (R337, R401). -/
def poisoned (s : State) (l : Loc) (n : Nat) : Bool := (linesOf l.key n).any fun x => s.ecc.contains x

/-- Write a poison syndrome on the lines of a run (R173, R198). -/
def poisonLines (s : State) (l : Loc) (n : Nat) : State :=
  let add := (linesOf l.key n).filter fun x => !s.ecc.contains x
  { s with ecc := (add.foldl (fun e x => e.takeWhile (· < x) ++ x :: e.dropWhile (· < x)) s.ecc) }

/-! ### Registers (R16 to R21) -/

/-- A read: a pending register reads as 0 poisoned with UNDERWAIT (R21, R239). -/
def Reg.read (r : Reg) : Val := if r.tag.pending.isSome then ⟨0#64, some .underwait⟩ else ⟨r.val, r.tag.poison⟩

def rdS (c : Ctx) (n : Nat) : Val := if n = 0 then ⟨0#64, none⟩ else (tget {} c.s n).read
/-- An a register of engine `e`; in the sequencer a0–a15 are s48–s63 (R17). -/
def rdA (c : Ctx) (e n : Nat) : Val := if e = 0 then rdS c (48 + n) else (tget {} (engOf c e).a n).read
def rdH (c : Ctx) (n : Nat) : Val := (tget {} c.h n).read
def rdK (c : Ctx) (n : Nat) : Val := (tget {} c.k n).read
def rdLr (c : Ctx) : Val := c.lr.read
def loopOf (c : Ctx) (e n : Nat) : LoopReg := tget {} (engOf c e).l n
def rdL (c : Ctx) (e n : Nat) : Val :=
  let l := loopOf c e n
  if l.tag.pending.isSome then ⟨0#64, some .underwait⟩ else ⟨l.count.setWidth 64, l.tag.poison⟩
def vregOf (c : Ctx) (n : Nat) : VReg := tget {} c.v n

/-- The a register `n` of engine `e` as a destination (R17). -/
def destA (e n : Nat) : Dest := if e = 0 then .s (48 + n) else .a e n

/-- Change the register that a destination names; a write to s0 is discarded (R17). -/
def modReg (c : Ctx) (d : Dest) (f : Reg → Reg) : Ctx :=
  match d with
  | .s n => if n = 0 then c else { c with s := tmod {} c.s n f }
  | .lr => { c with lr := f c.lr }
  | .h n => { c with h := tmod {} c.h n f }
  | .k n => { c with k := tmod {} c.k n f }
  | .a e n => modEng c e fun x => { x with a := tmod {} x.a n f }
  | .l e n => modEng c e fun x =>
      { x with l := tmod {} x.l n fun l =>
          let r := f ⟨l.count.setWidth 64, l.tag⟩
          { l with count := r.val.setWidth 32, tag := r.tag } }
  | .none | .v _ => c

/-- All bits of a vector register. -/
def fullMask : VWord := BitVec.allOnes 16384

/-- Write a result to its register (R20, R21, R144): the pending tag stays, and a vector register keeps the bits outside the
mask, with the tag of R144. -/
def writeDest (c : Ctx) (l : Landing) : Ctx :=
  match l.dest, l.val with
  | .v n, .vec w =>
    { c with v := tmod {} c.v n fun r =>
        { val := (r.val &&& ~~~ l.mask) ||| (w &&& l.mask),
          poison := if l.whole then l.poison else meet l.poison r.poison } }
  | d, .word w => modReg c d fun r => { val := w, tag := { r.tag with poison := l.poison } }
  | _, .vec _ => c

/-- Put a result in the exposed pipeline of the executing engine (R227). -/
def landIn (s : State) (l : Landing) : State :=
  modCurEng s fun x => { x with pipe := x.pipe ++ [{ l with grp := x.grp }] }

/-- A scalar result of latency `lat`. -/
def land (s : State) (lat : Nat) (d : Dest) (v : Val) : State :=
  landIn s { left := lat, dest := d, val := .word v.w, poison := v.p }

/-- A result by token reaches context `cid`: it lands at the end of the clock, in issue order with the results of the exposed pipelines
(R228, R245). -/
def arriveAt (s : State) (cid : Nat) (l : Landing) : State :=
  if l.dest = .none then s else modCid s cid fun c => { c with arrive := c.arrive ++ [l] }

/-- Set the pending tag of a destination (R21, R103). A register has one tag: of two posting words on different tokens the later one's
token covers it (DESIGN CHOICE, log 37). -/
def setPending (s : State) (d : Dest) (t : Nat) : State :=
  modCur s fun c => modReg c d fun r => { r with tag := { r.tag with pending := some t } }

/-- Clear the pending tags that a TWAIT on `t` of engine `e` covers (R104, R240). -/
def clearPending (c : Ctx) (e t : Nat) : Ctx :=
  let clr := fun (r : Reg) => if r.tag.pending = some t then { r with tag := { r.tag with pending := none } } else r
  let c' := modEng c e fun x => { x with a := x.a.map fun (n, r) => (n, clr r) }
  if e = 0 then { c' with s := c'.s.map (fun (n, r) => (n, clr r)), h := c'.h.map (fun (n, r) => (n, clr r)) } else c'

/-! ### Tokens (R22, R242) -/

/-- Raise token `t` of context `cid` `n` times with status bits `st`, at the end of this clock. -/
def raiseTok (s : State) (cid t n : Nat) (st : BitVec 32) : State :=
  { s with raises := s.raises ++ [{ cid := cid, token := t, n := n, status := st }] }

/-- A raise takes effect (R22); a TSTAT's clear sets the status word to 0 first (R107). -/
def applyRaise (s : State) (r : Raise) : State :=
  modCid s r.cid fun c => { c with t := tmod {} c.t r.token fun t =>
    { count := t.count + BitVec.ofNat 16 r.n, status := (if r.clear then 0#32 else t.status) ||| r.status } }

/-- The clears and then the raises of a clock take effect at its end (R22, R107). -/
def applyRaises (s : State) : State :=
  let (clears, raises) := s.raises.partition (·.clear)
  (clears ++ raises).foldl applyRaise { s with raises := [] }

/-- Status bits of a token (Table 10.6). -/
def stStale : BitVec 32 := 0x001#32
def stErr : BitVec 32 := 0x002#32
def stDerr : BitVec 32 := 0x004#32
def stRetried : BitVec 32 := 0x008#32
def stFade : BitVec 32 := 0x010#32
def stFrmerr : BitVec 32 := 0x020#32
def stCrcerr : BitVec 32 := 0x040#32
def stNospace : BitVec 32 := 0x080#32
def stFaulted : BitVec 32 := 0x100#32
def stWalk : BitVec 32 := 0x200#32
def stNotpresent : BitVec 32 := 0x400#32
def stPerm : BitVec 32 := 0x800#32

/-- The threshold condition of Table 4.4: met, and whether STALE is set. -/
def threshold (c theta : BitVec 16) : Bool × Bool :=
  let lead := (theta - c).toNat
  if lead = 0 then (true, false)
  else if lead < 16384 then (false, false)
  else if lead ≤ 32768 then (true, true)
  else (true, false)

/-! ### Queues of a sub-core (R23, Table 15.7) -/

/-- Capacity of q0–q5 (0–5) and bq (6), with the extensions that the Mere has lent. -/
def queueCap (c : Ctx) (q : Nat) : Nat := (if q = 6 then 64 else 16) * (1 + tget 0 c.qext q)
/-- Capacity of mf (7), sq (8) and the ring ingress queue (9): 8, 8 and 4 entries, with extensions (Table 15.7, R358). -/
def bigCap (c : Ctx) (q : Nat) : Nat := (if q = 9 then 4 else 8) + tget 0 c.qext q

def queueOfCtx (c : Ctx) (q : Nat) : List QEntry := tget [] c.q q

/-- A push in clock `t`: the entry can be popped from clock t + 2 (R232). -/
def pushQ (c : Ctx) (q : Nat) (v : Val) (t : Nat) : Ctx :=
  { c with q := tset c.q q (queueOfCtx c q ++ [{ val := v.w, poison := v.p, ready := t + 2 }]) }

/-- The entry that a pop in clock `t` finds. -/
def headQ (c : Ctx) (q t : Nat) : Option QEntry :=
  match queueOfCtx c q with
  | e :: _ => if e.ready ≤ t then some e else none
  | [] => none

/-- Take the head entry away. -/
def popQ (c : Ctx) (q : Nat) : Ctx := { c with q := tset c.q q (queueOfCtx c q).tail }

/-! ### Counters of a fen (R225) -/

/-- Advance fixed counter `n` of fen `f` by `k`; a counter shows at the end of the clock what the clock has counted. -/
def count (s : State) (f n k : Nat) : State :=
  modFen s f fun x => { x with counted := tmod 0#64 x.counted n fun w => w + BitVec.ofNat 64 k }

/-- At the end of a clock, fen `f`'s counters take what the clock has counted. -/
def settleCounts (s : State) (f : Nat) : State :=
  let x := fenOf s f
  if x.counted = [] then s
  else setFen s f { x with counters := x.counted.foldl (fun t (i, n) => tmod 0#64 t i fun w => w + n) x.counters, counted := [] }

/-- Count `n` configured events of kind `ev` of fen `f` in a core; 0xFF for an event without a core (R382). -/
def countEv (s : State) (f core ev n : Nat) : State :=
  let x := fenOf s f
  let hit := x.cntcfg.filter fun (_, c) => c.en && c.event.toNat == ev && c.since != some s.clock && (c.core == 0xFF#8 || c.core.toNat == core)
  if hit = [] then s
  else setFen s f { x with counted := hit.foldl (fun t (i, _) => tmod 0#64 t i fun w => w + BitVec.ofNat 64 n) x.counted }

def cntFrozen : Nat := 1
def cntFaded : Nat := 2
def cntQleft : Nat := 3
def cntRetried : Nat := 4
def cntDerr : Nat := 5
def cntSteps : Nat := 7
def cntTraps : Nat := 8

/-! ### The violation log (R323) -/

/-- Write a violation record for fen `f`. SPACE, address, REASON, ENGINE, KIND and SUBID as Tables 18.4 and 18.5 give. The walker's and the
session sequencer's records have no core (R382). -/
def logViolation (s : State) (f space addr reason engine kind g : Nat) (coreless : Bool := false) : State :=
  let a := BitVec.ofNat 64 (space * 2 ^ 62 + addr % 2 ^ 56)
  let i := BitVec.ofNat 64 (reason * 2 ^ 56 + engine * 2 ^ 52 + kind * 2 ^ 50 + g * 2 ^ 32 + s.clock % 2 ^ 32)
  modFen (countEv s f (if coreless || engine = 6 then 0xFF else coreNo g) 13 1) f fun x => { x with xlogn := x.xlogn + 1, xlog := ({ a := a, i := i } :: x.xlog).take 16 }

/-! ### Traps (R329 to R346) -/

/-- TCAUSE and MTCAUSE (Table 19.4). -/
def tcauseWord (sw : BitVec 16) (engine ppl : Nat) (res : Bool) (code : Nat) : Word :=
  BitVec.ofNat 64 (sw.toNat * 2 ^ 16 + engine * 2 ^ 12 + ppl * 2 ^ 9 + bnat res * 2 ^ 8 + code)

/-- The context whose step a trap of the active context ends: itself, or for a service context the context that called it, which stands
in the other bank (R342). -/
def victimCtx (b : Sub) : Ctx := if b.act.svc then b.shd else b.act
/-- The step that a trap in a context ends. -/
def victimStep (b : Sub) : Option StepCtx := (victimCtx b).step

/-- Mark the step of a context as ended: no engine of it issues again (R344). -/
def endCtx (c : Ctx) : Ctx := { c with step := c.step.map fun st => { st with ended := true } }

/-- Captured results of an engine, with their remaining delays (R331, R335). -/
def capture (x : EngCtx) : List Landing := x.pipe

/-- FREC0 to FREC3 of a resumable translation fault; V is set, and OVR when V was (R327). -/
def TrapRegs.record (t : TrapRegs) : Option (Word × Word × Word × Word) → TrapRegs
  | none => t
  | some (a, b, c, d) =>
    let ovr := if bitAt t.frec0.toNat 63 then 0x4000000000000000#64 else 0#64
    { t with frec0 := 0x8000000000000000#64 ||| ovr ||| a, frec1 := b, frec2 := c, frec3 := d }

/-- A trap that enters S (R331, R334): the S frame is written, the exposed pipeline of the sequencer goes into its in-flight
queue, a DLY's remainder is saved, and the handler's first group issues two clocks on, at TVEC. -/
def trapToS (s : State) (g : Nat) (c : Cause) (tpc : Nat) (tval : Word) (sw : BitVec 16) (engine : Nat)
    (frec : Option (Word × Word × Word × Word)) : State :=
  let tv := (fenOf s (coreOf s (coreNo g)).fen).tvec
  let s' := modCtx s g fun x =>
    let q := engOf x 0
    let x' := { x with
      tr := { x.tr.record frec with
        tcause := tcauseWord sw engine x.pl.toNat (causeResumable c) (causeCode c), tpc := BitVec.ofNat 64 tpc, tval := tval },
      trapped := true, pl := 1#2, ifqS := x.ifqS ++ capture q }
    setEng x' 0 { q with pipe := [], dlySave := q.dly, dly := 0, wait := none, held := [], idle := 2, jumped := true, fetchAt := none, bankAt := none,
                         pc := tv.toNat % 2 ^ 32 / 4 * 4, halted := false }
  count s' (coreOf s (coreNo g)).fen cntTraps 1

/-- A trap that enters M: SWTRAP at S or M (R334, R346, R396). It makes no in-flight entry. -/
def trapToM (s : State) (g : Nat) (tpc : Nat) (sw : BitVec 16) : State :=
  let mv := s.svc.mtvec
  let s' := modCtx s g fun x =>
    let q := engOf x 0
    let x' := { x with
      tr := { x.tr with mtcause := tcauseWord sw 0 x.pl.toNat true (causeCode Cause.swtrap), mtpc := BitVec.ofNat 64 tpc, mtval := 0#64 },
      pl := 3#2 }
    setEng x' 0 { q with wait := none, held := [], idle := 2, jumped := true, fetchAt := none, bankAt := none, pc := mv.toNat % 2 ^ 32 / 4 * 4 }
  count s' (coreOf s (coreNo g)).fen cntTraps 1

/-- The item that a completion record names for the step of a context: its s7, or for a resident step its current index (R267, log
39). -/
def itemWord (c : Ctx) (st : StepCtx) : Word :=
  if st.resident then BitVec.ofNat 64 (if st.base < st.lo then st.lo - 1 else st.lo) else (tget {} c.s 7).val

/-- A launch meets its end: status and cause of the completion record (R266, R267, R345). Of two terminal traps of one clock
the one of higher priority stands, then the one of least sub-core. -/
def endLaunch (s : State) (lid status : Nat) (cause : Cause) (g : Nat) (item : Word) : State :=
  let key := (s.clock, (causePrio cause), g)
  modLaunch s lid fun l =>
    let take := match l.st with
      | .ending 1 _ _ => status = 1 && l.trapKey.1 = s.clock &&
          ((causePrio cause) < l.trapKey.2.1 || ((causePrio cause) = l.trapKey.2.1 && g < l.trapKey.2.2))
      | .ending _ _ _ => false
      | .refused => false
      | _ => true
    if take then { l with st := .ending status (if status = 2 then (causeCode Cause.watchdog) else (causeCode cause)) item, trapKey := key } else l

/-- Mark the step of a context as ended by a trap of clock `t`: its engines may still issue in that clock (R344). -/
def trapEnds (c : Ctx) (t : Nat) : Ctx := { c with step := c.step.map fun st => { st with ended := true, endAt := t + 1 } }

/-- TFLOG0 and TFLOG1 of the fen: `s7` is that register of the step (Table 19.2, R345). -/
def logTrap (s : State) (f : Nat) (c : Cause) (engine g tpc : Nat) (s7 : Word) : State :=
  modFen s f fun x =>
    let better := x.tfkey.1 ≠ s.clock || x.tflog0 = 0#64 || (causePrio c) < x.tfkey.2.1 || ((causePrio c) = x.tfkey.2.1 && g < x.tfkey.2.2)
    if better then
      { x with tflog0 := BitVec.ofNat 64 ((causeCode c) * 2 ^ 56 + engine * 2 ^ 52 + g * 2 ^ 32 + tpc % 2 ^ 32), tflog1 := s7,
               tfkey := (s.clock, (causePrio c), g) }
    else x

/-- A terminal trap (R330, R344): TCAUSE, TPC and TVAL are written as for a resumable one and logged, the step ends with the clock, and
its launch ends with status 1. -/
def terminalTrap (s : State) (g e : Nat) (c : Cause) (tpc : Nat) (tval : Word) (sw : BitVec 16) : State :=
  let f := (coreOf s (coreNo g)).fen
  let v := victimCtx (subOf s g)
  let s1 := modCtx s g fun x => trapEnds { x with
    tr := { x.tr with tcause := tcauseWord sw e x.pl.toNat false (causeCode c), tpc := BitVec.ofNat 64 tpc, tval := tval } } s.clock
  let s2 := count (logTrap s1 f c e g tpc (tget {} v.s 7).val) f cntTraps 1
  match v.step with
  | some x => endLaunch (modSub s2 g fun b => if b.act.svc then { b with shd := trapEnds b.shd s.clock } else b) x.lid 1 c g (itemWord v x)
  | none => s2

/-- TAKING A TRAP (R330, R331, R333, R334, R344): the trap of engine `e` of sub-core `g` with cause `c`. `tpc` is the address
the frame saves: the trapping group's, or for SWTRAP the group after it. -/
def takeTrap (s : State) (g e : Nat) (c : Cause) (tpc : Nat) (tval : Word) (sw : BitVec 16)
    (frec : Option (Word × Word × Word × Word) := none) : State :=
  let x := ctxOf s g
  if e = 0 && c = .swtrap && (x.pl ≠ 0#2 || x.svc) then trapToM s g tpc sw
  else if e = 0 && (causeResumable c) && x.pl = 0#2 && !x.svc then trapToS s g c tpc tval sw 0 frec
  else terminalTrap s g e c tpc tval sw

/-- RETURNING FROM A TRAP at S (R334, R336): the level and pc of the S frame, the in-flight queue re-injected. Issued in clock
e, a result of remaining delay d lands at the end of clock e + d + 1. -/
def eretFromS (s : State) (g : Nat) : State :=
  modCtx s g fun x =>
    let q := engOf x 0
    let x' := { x with pl := BitVec.ofNat 2 (bits x.tr.tcause.toNat 9 2), trapped := false, ifqS := [] }
    setEng x' 0 { q with pipe := x.ifqS.map (fun l => { l with left := l.left + 2 }), dly := q.dlySave, dlySave := 0, idle := 2, jumped := true,
                         pc := x.tr.tpc.toNat % 2 ^ 32 / 4 * 4 }

/-- RETURNING FROM A TRAP at M (R334): the level and pc of the M frame; nothing is re-injected. -/
def eretFromM (s : State) (g : Nat) : State :=
  modCtx s g fun x =>
    let q := engOf x 0
    setEng { x with pl := BitVec.ofNat 2 (bits x.tr.mtcause.toNat 9 2) } 0
      { q with idle := 2, jumped := true, pc := x.tr.mtpc.toNat % 2 ^ 32 / 4 * 4 }

/-! ### What a meaning does when it does not issue -/

/-- The executing word traps with cause `c`. The trap is taken, and the cursor says so to the group. -/
def trapWith (s : State) (c : Cause) (tval : Word := 0#64) (sw : BitVec 16 := 0#16)
    (frec : Option (Word × Word × Word × Word) := none) : State :=
  let tpc := if c = .swtrap then s.cur.next else s.cur.grp
  let s' := takeTrap s s.cur.g s.cur.e c tpc tval sw frec
  { s' with cur := { s'.cur with hold := .trap c tval sw frec } }

/-- The executing word freezes its engine in this clock (R235, R236). -/
def freeze (s : State) : State :=
  let s' := modCurEng s fun x => { x with frozen := true, wait := none, pushTo := none }
  { s' with cur := { s'.cur with hold := .freeze } }

/-- The executing word freezes at a push to a full queue or fed ring (R298). -/
def freezeOn (s : State) (q : Nat) : State := modCurEng (freeze s) fun x => { x with pushTo := some q }

/-- The poisoned operand that decides a trap: the one of highest priority, the first of them on a tie (R90). -/
def worst : List Val → Option (Cause × Word)
  | [] => none
  | v :: r =>
    match v.p, worst r with
    | none, w => w
    | some c, none => some (c, v.w)
    | some c, some (c', w') => if (causePrio c') < (causePrio c) then some (c', w') else some (c, v.w)

/-- Consume operands (R90, R112): trap if one is poisoned or pending, else go on. -/
def consume (s : State) (vs : List Val) (k : State → State) : State :=
  match worst vs with
  | some (c, w) => trapWith s c w
  | none => k s

/-- The cause of a failed check on an address: it is not made where an operand of the address is poisoned or pending (DESIGN CHOICE,
log 105). -/
def checkOn (addr : List Val) (c : Option Cause) : Option Cause := if (worst addr).isSome then none else c

/-- Consume operands of a word that also checks its address: of poisoned operands and a failed check the cause of highest priority
traps, on a tie the operand's (R90, R329; log 105). `log` writes the record of a check that is an error response (R323). -/
def consumeWith (s : State) (vs : List Val) (check : Option Cause) (log : State → State) (k : State → State) : State :=
  match check, worst vs with
  | some c, some (d, w) => if causePrio c < causePrio d then trapWith (log s) c else trapWith s d w
  | some c, none => trapWith (log s) c
  | none, some (d, w) => trapWith s d w
  | none, none => k s

end Sys2Proof.Machine
end

