-- ==== Sys2Proof/Machine/Float.lean ====
section
/-! DEFINITION. Number formats and exact arithmetic with one rounding (R61 to R75, R81 to R88). Bit patterns are numbers; a
finite value is a signed integer times a power of two, so every sum and product of this file is exact until it is rounded. -/

namespace Sys2Proof.Machine
open Sys2Proof

/-- A floating format of Table 3.1. -/
structure Fmt where
  width : Nat
  frac : Nat
  bias : Nat
  /-- magnitude code of the maximum finite value -/
  maxCode : Nat
  /-- magnitude code of infinity, if the format has one -/
  inf : Option Nat
  /-- canonical NaN (R64) -/
  nan : Nat
deriving DecidableEq, Repr

def f32 : Fmt := ⟨32, 23, 127, 0x7F7FFFFF, some 0x7F800000, 0x7FC00000⟩
def bf16 : Fmt := ⟨16, 7, 127, 0x7F7F, some 0x7F80, 0x7FC0⟩
def f16 : Fmt := ⟨16, 10, 15, 0x7BFF, some 0x7C00, 0x7E00⟩
def e5m2 : Fmt := ⟨8, 2, 15, 0x7B, some 0x7C, 0x7E⟩
def e4m3 : Fmt := ⟨8, 3, 7, 0x7E, none, 0x7F⟩

/-- The floating format of a type code (R50); f32 for a code that is none. -/
def fmtOf (t : Nat) : Fmt :=
  match t with
  | 1 => bf16
  | 2 => f16
  | 3 => e4m3
  | 4 => e5m2
  | _ => f32

/-- An extended real with signed zero: ±m × 2^e, an infinity, or NaN. -/
inductive FV where
  | nan
  | inf (neg : Bool)
  | fin (neg : Bool) (m : Nat) (e : Int)
deriving DecidableEq, Repr

/-- The value of a bit pattern (R61). -/
def decodeF (f : Fmt) (x : Nat) : FV :=
  let neg := bitAt x (f.width - 1)
  let mag := x % 2 ^ (f.width - 1)
  if mag > f.maxCode then (if f.inf = some mag then .inf neg else .nan)
  else
    let e := mag / 2 ^ f.frac
    let m := mag % 2 ^ f.frac
    if e = 0 then .fin neg m (1 - (f.bias : Int) - f.frac)
    else .fin neg (m + 2 ^ f.frac) ((e : Int) - f.bias - f.frac)

/-- The sign bit of a pattern. -/
def signBit (f : Fmt) (neg : Bool) : Nat := if neg then 2 ^ (f.width - 1) else 0

/-- A power of two with a natural exponent from an integer one; 1 for a negative exponent. -/
def pow2 (e : Int) : Nat := 2 ^ e.toNat

/-- Significant bits of a number. -/
def numBits (x : Nat) : Nat := if x = 0 then 0 else Nat.log2 x + 1

/-- Round m × 2^e (with `sticky`, a little more) to a multiple of 2^q, q ≥ e, in a mode (Table 3.2). -/
def roundTo (mode : Nat) (neg : Bool) (m drop : Nat) (sticky : Bool) : Nat :=
  let r := m / 2 ^ drop
  let rem := m % 2 ^ drop
  let inexact := rem ≠ 0 || sticky
  let up :=
    if mode = 0 then
      if drop = 0 then false
      else rem > 2 ^ (drop - 1) || (rem = 2 ^ (drop - 1) && (sticky || r % 2 = 1))
    else if mode = 1 then false
    else if mode = 2 then !neg && inexact
    else neg && inexact
  if up then r + 1 else r

/-- Round a finite non-zero magnitude to the format's grid, as if the exponent were unbounded above: its magnitude code (R65). -/
def roundCode (f : Fmt) (mode : Nat) (neg : Bool) (m : Nat) (e : Int) (sticky : Bool) : Nat :=
  let emin : Int := 1 - (f.bias : Int) - f.frac
  let q0 : Int := e + numBits m - (f.frac + 1)
  let q := max q0 emin
  let r := if q ≤ e then m * pow2 (e - q) else roundTo mode neg m (q - e).toNat sticky
  if r < 2 ^ f.frac then r
  else if r < 2 ^ (f.frac + 1) then (q + f.frac + f.bias).toNat * 2 ^ f.frac + (r - 2 ^ f.frac)
  else (q + 1 + f.frac + f.bias).toNat * 2 ^ f.frac

/-- What an overflowed result becomes in a mode (Table 3.2); with `sat`, the maximum finite value, and NaN for a format
without infinity otherwise (Table 3.3). -/
def overflow (f : Fmt) (mode : Nat) (sat neg : Bool) : Nat :=
  if sat then signBit f neg + f.maxCode
  else match f.inf with
    | none => f.nan
    | some i =>
      let toInf := mode = 0 || (mode = 2 && !neg) || (mode = 3 && neg)
      signBit f neg + (if toInf then i else f.maxCode)

/-- The rounded bit pattern of a value (R65, R71). A little more than m × 2^e is meant with `sticky`. -/
def roundS (f : Fmt) (mode : Nat) (sat : Bool) (v : FV) (sticky : Bool) : Nat :=
  match v with
  | .nan => f.nan
  | .inf neg =>
    match f.inf with
    | some i => signBit f neg + i
    | none => if sat then signBit f neg + f.maxCode else f.nan
  | .fin neg m e =>
    if m = 0 && !sticky then signBit f neg
    else
      let code := roundCode f mode neg m e sticky
      if code > f.maxCode then overflow f mode sat neg else signBit f neg + code

/-- Round an exact value. -/
def roundF (f : Fmt) (mode : Nat) (v : FV) : Nat := roundS f mode false v false

/-- rne32 of an exact value. -/
def rne32 (v : FV) : Nat := roundF f32 0 v

/-! ### Exact operations (R68) -/

def FV.neg : FV → FV
  | .nan => .nan
  | .inf s => .inf !s
  | .fin s m e => .fin (!s) m e

def FV.abs : FV → FV
  | .nan => .nan
  | .inf _ => .inf false
  | .fin _ m e => .fin false m e

/-- The signed integer of a finite value at scale 2^q, q not above its exponent. -/
def scaled (s : Bool) (m : Nat) (e q : Int) : Int :=
  let a : Int := (m * pow2 (e - q) : Nat)
  if s then -a else a

/-- A finite value from a signed integer at scale 2^q; `z` is the sign of an exact zero. -/
def ofScaled (i q : Int) (z : Bool) : FV := if i = 0 then .fin z 0 q else .fin (i < 0) i.natAbs q

/-- Exact sum; the sign of a zero sum follows R68. -/
def FV.add (mode : Nat) : FV → FV → FV
  | .nan, _ => .nan
  | _, .nan => .nan
  | .inf s, .inf t => if s = t then .inf s else .nan
  | .inf s, _ => .inf s
  | _, .inf t => .inf t
  | .fin s m e, .fin t n d =>
    if m = 0 && n = 0 then .fin (if s = t then s else mode = 3) 0 (min e d)
    else if m = 0 then .fin t n d
    else if n = 0 then .fin s m e
    else
      let q := min e d
      ofScaled (scaled s m e q + scaled t n d q) q (mode = 3)

/-- Exact product. -/
def FV.mul : FV → FV → FV
  | .nan, _ => .nan
  | _, .nan => .nan
  | .inf s, .inf t => .inf (s != t)
  | .inf s, .fin t n _ => if n = 0 then .nan else .inf (s != t)
  | .fin s m _, .inf t => if m = 0 then .nan else .inf (s != t)
  | .fin s m e, .fin t n d => .fin (s != t) (m * n) (e + d)

/-- The exact value with its zero sign forgotten is zero. -/
def FV.isZero : FV → Bool
  | .fin _ m _ => m == 0
  | _ => false

def FV.isNan : FV → Bool
  | .nan => true
  | _ => false

def FV.isInf : FV → Bool
  | .inf _ => true
  | _ => false

def FV.isFin : FV → Bool
  | .fin _ _ _ => true
  | _ => false

def FV.isNeg : FV → Bool
  | .nan => false
  | .inf s => s
  | .fin s _ _ => s

/-- Exact comparison of two values that are not NaN: the sign of a − b, +0 and −0 equal. -/
def FV.cmp : FV → FV → Int
  | .nan, _ => 0
  | _, .nan => 0
  | .inf s, .inf t => if s = t then 0 else if s then -1 else 1
  | .inf s, .fin _ _ _ => if s then -1 else 1
  | .fin _ _ _, .inf t => if t then 1 else -1
  | .fin s m e, .fin t n d =>
    if m = 0 && n = 0 then 0
    else if m = 0 then (if t then 1 else -1)
    else if n = 0 then (if s then -1 else 1)
    else
      let q := min e d
      (scaled s m e q - scaled t n d q).sign

/-- Numeric order of R158 and VMIN: −0 below +0, NaN below everything. A key that orders bit patterns. -/
def FV.below (a b : FV) : Bool :=
  match a, b with
  | _, .nan => false
  | .nan, _ => true
  | a, b => a.cmp b < 0 || (a.cmp b == 0 && a.isZero && b.isZero && a.isNeg && !b.isNeg)

/-- Smaller or larger operand, copied; a NaN gives the canonical NaN (Table 6.3). -/
def minPat (f : Fmt) (x y : Nat) : Nat :=
  let a := decodeF f x
  let b := decodeF f y
  if a.isNan || b.isNan then f.nan else if b.below a then y else x
def maxPat (f : Fmt) (x y : Nat) : Nat :=
  let a := decodeF f x
  let b := decodeF f y
  if a.isNan || b.isNan then f.nan else if a.below b then y else x

/-- Exact sum of many terms, for R78 and R157: infinities and NaN as R79 gives; an exact zero is −0 when every term is −0, +0
when every term is +0 and otherwise as the mode gives. -/
def sumExact (mode : Nat) (zeroNeg : Bool) (ts : List FV) : FV :=
  if ts.any FV.isNan then .nan
  else
    let pos := ts.any fun t => t.isInf && !t.isNeg
    let neg := ts.any fun t => t.isInf && t.isNeg
    if pos && neg then .nan
    else if pos then .inf false
    else if neg then .inf true
    else
      let q := ts.foldl (fun q t => match t with | .fin _ m e => if m = 0 then q else min q e | _ => q) 0
      let i := ts.foldl (fun i t => match t with | .fin s m e => if m = 0 then i else i + scaled s m e q | _ => i) (0 : Int)
      let z := ts ≠ [] && ts.all fun t => t.isZero && t.isNeg
      let allPos := ts.all fun t => t.isZero && !t.isNeg
      ofScaled i q (if z then true else if allPos then false else zeroNeg && mode = 3)

/-! ### f32 by bit pattern -/

def f32Add (x y : Nat) : Nat := rne32 (FV.add 0 (decodeF f32 x) (decodeF f32 y))
def f32Mul (x y : Nat) : Nat := rne32 (FV.mul (decodeF f32 x) (decodeF f32 y))
/-- Fused x × y + z. -/
def f32Fma (x y z : Nat) : Nat := rne32 (FV.add 0 (FV.mul (decodeF f32 x) (decodeF f32 y)) (decodeF f32 z))
def f32Neg (x : Nat) : Nat := x ^^^ 0x80000000

/-- Canonical NaN in place of any NaN. -/
def f32IsFinite (x : Nat) : Bool := (decodeF f32 x).isFin
def f32IsNan (x : Nat) : Bool := (decodeF f32 x).isNan

/-- A rounding error as an f32: exact, and +0 when zero (R82). -/
def errPart (v : FV) : Nat := if v.isZero then 0 else rne32 v

/-- twosum (R82). -/
def twosum (a b : Nat) : Nat × Nat :=
  let s := f32Add a b
  if f32IsFinite s then
    (s, errPart (FV.add 0 (FV.add 0 (decodeF f32 a) (decodeF f32 b)) (decodeF f32 s).neg))
  else (s, 0)

/-- twoprod (R82). -/
def twoprod (x y : Nat) : Nat × Nat :=
  let p := f32Mul x y
  if f32IsFinite p then
    (p, errPart (FV.add 0 (FV.mul (decodeF f32 x) (decodeF f32 y)) (decodeF f32 p).neg))
  else (p, 0)

/-- fade (R84): the pair, and whether it faded. `floor` is FLOOR, bits [30:0] of F. -/
def fade (floor hh hl : Nat) : (Nat × Nat) × Bool :=
  if f32IsFinite hh && hh % 2 ^ 31 < floor then ((hh / 2 ^ 31 * 2 ^ 31, 0), true) else ((hh, hl), false)

/-- pair_axpy (R83): a ⊙ x + y, and whether the result faded. -/
def pairAxpy (floor a : Nat) (x y : Nat × Nat) : (Nat × Nat) × Bool :=
  let (ph, pl) := twoprod a x.1
  let c := f32Fma a x.2 pl
  let (s, e) := twosum ph y.1
  let f := f32Add y.2 c
  let g := f32Add e f
  let (hh, hl) := twosum s g
  if f32IsNan hh then ((0x7FC00000, 0), false) else fade floor hh hl

/-! ### Integers and floats (R72, R73) -/

/-- Round a finite value to an integer in a mode, with its sign. -/
def roundInt (mode : Nat) (neg : Bool) (m : Nat) (e : Int) : Int :=
  let a : Nat := if 0 ≤ e then m * pow2 e else roundTo mode neg m (-e).toNat false
  if neg then -(a : Int) else a

/-- An integer as a value. -/
def FV.ofInt (i : Int) : FV := .fin (i < 0) i.natAbs 0

/-! ### Roots, reciprocals, 2^x and log₂ (R87) -/

/-- floor(√x) for x below 4^n: one result bit at a time from bit n − 1. -/
def isqrtBits : Nat → Nat → Nat → Nat
  | 0, _, r => r
  | n + 1, x, r => let t := r + 2 ^ n; isqrtBits n x (if t * t ≤ x then t else r)

/-- floor(√x). -/
def isqrt (x : Nat) : Nat := isqrtBits (numBits x / 2 + 1) x 0

/-- A result that is ±m × 2^e or, with the flag, a little more in magnitude. -/
abbrev Near := FV × Bool

/-- 1 / v of a finite non-zero value. -/
def rcpNear (neg : Bool) (m : Nat) (e : Int) : Near :=
  let k := numBits m + 64
  (.fin neg (2 ^ k / m) (-(k : Int) - e), 2 ^ k % m ≠ 0)

/-- √(m × 2^e), m not zero. -/
def sqrtNear (m : Nat) (e : Int) : Near :=
  let odd : Nat := (e % 2).toNat
  let x := m * 2 ^ odd * 2 ^ 128
  let r := isqrt x
  (.fin false r ((e - odd) / 2 - 64), r * r ≠ x)

/-- 1 / √(m × 2^e), m not zero. -/
def rsqrtNear (m : Nat) (e : Int) : Near :=
  let odd : Nat := (e % 2).toNat
  let n := m * 2 ^ odd
  let k := numBits n + 80
  let r := isqrt (2 ^ (2 * k) / n)
  (.fin false r (-(k : Int) - (e - odd) / 2), r * r * n ≠ 2 ^ (2 * k))

/-- Fraction bits of the fixed-point work of 2^x and log₂ (log 5). -/
def fixBits : Nat := 384

/-- ln 2 in fixed point: the sum of 1 / (k × 2^k). -/
def ln2Fix : Nat := (List.range (fixBits + 8)).foldl (fun a k => a + 2 ^ (fixBits + 16) / ((k + 1) * 2 ^ (k + 1))) 0 / 2 ^ 16

/-- The terms of e^t for a fixed-point t below 1: term k + 1 is term k × t / (k + 1). -/
def expTerms (t : Nat) : Nat → Nat → Nat → Nat → Nat
  | 0, _, _, acc => acc
  | n + 1, k, term, acc => if term = 0 then acc else
      let term' := term * t / 2 ^ fixBits / (k + 1)
      expTerms t n (k + 1) term' (acc + term')

/-- 2^f in fixed point for a fixed-point f in [0, 1). -/
def exp2Fix (f : Nat) : Nat := expTerms (f * ln2Fix / 2 ^ fixBits) 100 0 (2 ^ fixBits) (2 ^ fixBits)

/-- 2^v of a finite value: exact for an integer, else a value below and near it. Exponents outside ±400 are taken as ±400,
which round and overflow alike. -/
def exp2Near (v : FV) : Near :=
  match v with
  | .fin s m e =>
    if m = 0 then (.fin false 1 0, false)
    else if e + numBits m > 10 then (.fin false 1 (if s then -400 else 400), true)
    else
      let x : Int := if fixBits + e < 0 then 0 else scaled s m e (-(fixBits : Int))
      let n := x / 2 ^ fixBits
      let f := (x % 2 ^ fixBits).toNat
      if f = 0 && fixBits + e ≥ 0 then (.fin false 1 n, false)
      else (.fin false (exp2Fix f) (n - fixBits), true)
  | .inf true => (.fin false 0 0, false)
  | .inf false => (.inf false, false)
  | .nan => (.nan, false)

/-- The terms of 2 × atanh z in fixed point: z^(2k + 1) / (2k + 1). -/
def atanhTerms (z2 : Nat) : Nat → Nat → Nat → Nat → Nat
  | 0, _, _, acc => acc
  | n + 1, k, p, acc => if p = 0 then acc else atanhTerms z2 n (k + 1) (p * z2 / 2 ^ fixBits) (acc + 2 * p / (2 * k + 1))

/-- log₂ y in fixed point for y = m / 2^(b − 1), m of b bits. -/
def log2Fix (m b : Nat) : Nat :=
  let one := 2 ^ (b - 1)
  let z := (m - one) * 2 ^ fixBits / (m + one)
  atanhTerms (z * z / 2 ^ fixBits) 140 0 z 0 * 2 ^ fixBits / ln2Fix

/-- log₂(m × 2^e), m not zero, plus an exact value `d` (R163): exact when m is a power of two, a zero sum then in the mode (R68). -/
def log2Near (mode : Nat) (m : Nat) (e : Int) (d : FV) : Near :=
  let b := numBits m
  let k : Int := e + b - 1
  if m = 2 ^ (b - 1) then (FV.add mode (FV.ofInt k) d, false)
  else
    let v : FV := FV.add 0 (ofScaled (k * 2 ^ fixBits + log2Fix m b) (-(fixBits : Int)) false) d
    (v, true)

end Sys2Proof.Machine
end

