-- ==== Sys2Proof/Machine/Mesh.lean ====
section
/-! DEFINITION. The mesh: routers and receive agents (R350, R353), request, response and credit packets in adaptive and Slough lanes
(R349 to R356), and credits (R352). -/

namespace Sys2Proof.Machine
open Sys2Proof

/-! ### Routers and agents -/

/-- Mesh row and column of a core on its die (R8). -/
def meshPos (c : Nat) : Nat × Nat :=
  let l := c % 48
  let band := l / 8
  (if dieNo c = 0 then band else 5 - band, if band % 2 = 0 then l % 8 else 7 - l % 8)

/-- The core at a mesh position (R8). -/
def coreAt (die row col : Nat) : Nat :=
  let band := if die = 0 then row else 5 - row
  die * 48 + band * 8 + (if band % 2 = 0 then col else 7 - col)

/-- Hops of a minimal path between two routers; a die-to-die crossing counts one (R350). -/
def hops (a b : Nat) : Nat :=
  let (ra, ca) := meshPos a
  let (rb, cb) := meshPos b
  let rows := (ra - rb) + (rb - ra)
  if dieNo a = dieNo b then rows + (ca - cb) + (cb - ca) else rows + ca + 1 + cb

/-- The routers next to a router, each with the port at which a packet from here enters it; north is towards row 0 (R350,
Table 21.1). -/
def neighbours (r : Nat) : List (Nat × Nat) :=
  let d := dieNo r
  let (row, col) := meshPos r
  (if 0 < row then [(coreAt d (row - 1) col, 2)] else []) ++ (if col < 7 then [(coreAt d row (col + 1), 3)] else []) ++
  (if row < 5 then [(coreAt d (row + 1) col, 0)] else []) ++ (if 0 < col then [(coreAt d row (col - 1), 1)] else []) ++
  (if col = 0 then [(coreAt (1 - d) row 0, 5)] else [])

/-- The receive agent of a home: 0–95 slices, 96–143 memory channels (interleaved by 256 bytes, log 24), 144 host interface. -/
def agentOf : Loc → Nat
  | .scratch a => a / 0x80_0000
  | .phys pa => if pa < 0x60_0000_0000 then 96 + pa / 256 % 48 else 144
  | .state k _ => k
  | .plane k _ _ => k

/-- The router of a receive agent: of a slice, its core's; memory channels and the host interface stand at routers of column 7, the
edge of their die (R350; DESIGN CHOICE, log 106). -/
def agentRouter (a : Nat) : Nat :=
  if a < 96 then a else if a < 144 then coreAt ((a - 96) / 24) ((a - 96) % 24 / 4) 7 else coreAt 0 0 7

/-- The home of a place is in core `k`, reached without the mesh. -/
def isLocal (k : Nat) : Loc → Bool
  | .scratch a => a / 0x80_0000 == k
  | .phys _ => false
  | _ => true

/-! ### Credits (R352) -/

/-- Responses for which a core's network interface has room: one for every credit (DESIGN CHOICE, log 107). -/
def responseRoom : Nat := 580

/-- A core's network interface is short of a credit for an agent, or of room for a response (R352). -/
def shortOf (s : State) (k agent : Nat) : Bool := tget 0 (coreOf s k).spent agent ≥ 4 || (coreOf s k).room ≥ responseRoom

/-- A request to a home outside the core finds no credit (R352). -/
def noCredit (s : State) (k : Nat) (l : Loc) : Bool := !isLocal k l && shortOf s k (agentOf l)

/-! ### Sending -/

/-- A request packet is injected: it spends a credit, reserves room for its response, and takes the next sequence number of its stream
(R352, R353). -/
def request (s : State) (g cls agent flits : Nat) (answered : Bool) (job : PktJob) : State :=
  let k := coreNo g
  let st := (g * 16 + cls) * 256 + agent
  let (id, s) := freshId s
  let (d, s) := draw s
  let p : Packet := { id, kind := .request, job, src := k, dest := agentRouter agent, agent, k, g, cls, seq := tget 0#16 s.streams st, flits,
                      due := s.clock + d }
  let s := modCore s k fun c => { c with spent := tmod 0 c.spent agent (· + 1), room := c.room + bnat answered }
  { s with streams := tmod 0#16 s.streams st (· + 1#16), mesh := s.mesh ++ [p] }

/-- A response packet sets out from an agent to a sub-core; it stands `d` clocks more than it must (log 3). -/
def sendReply (s : State) (agent g cls flits : Nat) (job : PktJob) (d : Nat) : State :=
  let (id, s) := freshId s
  { s with mesh := s.mesh ++ [{ id, kind := .response, job, src := agentRouter agent, dest := coreNo g, agent, k := coreNo g, g, cls, flits,
                                due := s.clock + d }] }

/-- A credit packet sets out from an agent to a core. -/
def sendCredit (s : State) (agent g : Nat) : State :=
  let (id, s) := freshId s
  { s with mesh := s.mesh ++ [{ id, kind := .credit, job := .none, src := agentRouter agent, dest := coreNo g, agent, k := coreNo g, g,
                                due := s.clock }] }

/-- The completions by token that have been formed: at their core, or on the way to it. -/
def results (s : State) : List Posted := s.posted ++ s.mesh.filterMap fun p => match p.job with | .post q => some q | _ => none

/-- The request is the oldest of its stream that its agent has still to apply (R353). -/
def nextInStream (s : State) (p : Packet) : Bool :=
  !((s.mesh.takeWhile (·.id != p.id)).any fun q => q.kind == .request && q.g == p.g && q.cls == p.cls && q.agent == p.agent)

/-! ### Lanes (R350, R356) -/

def modPacket (s : State) (id : Nat) (f : Packet → Packet) : State := { s with mesh := s.mesh.map fun p => if p.id = id then f p else p }
def dropPacket (s : State) (id : Nat) : State := { s with mesh := s.mesh.filter (·.id != id) }

/-- The least free adaptive lane of an input port. -/
def freeLane (s : State) (r port : Nat) : Option Nat :=
  (List.range 4).find? fun l => !(s.mesh.any fun p => match p.place with | .lane r' q l' _ _ => r' == r && q == port && l' == l | _ => false)

/-- The next router on a Slough lane: along the row, and across at column 0, then along the column (R356). -/
def sloughNext (r dest : Nat) : Nat :=
  let d := dieNo r
  let (row, col) := meshPos r
  let (row', col') := meshPos dest
  if d ≠ dieNo dest then (if col = 0 then coreAt (1 - d) row 0 else coreAt d row (col - 1))
  else if col < col' then coreAt d row (col + 1)
  else if col' < col then coreAt d row (col - 1)
  else if row < row' then coreAt d (row + 1) col
  else coreAt d (row - 1) col

/-- A packet enters router `r` on the Slough lane, and leaves it after the clocks of its flits: 4 a hop (R356, Table 21.1). -/
def enterSlough (s : State) (p : Packet) (r : Nat) : State :=
  let s := modPacket s p.id fun q => { q with place := .slough r, due := s.clock + 4 }
  modDie s (dieNo r) fun d => { d with sloughs := tset d.sloughs r p.id }

/-- The Slough buffer of a router is free again. -/
def leaveSlough (s : State) (r : Nat) : State := modDie s (dieNo r) fun d => { d with sloughs := d.sloughs.filter (·.1 != r) }

/-- The flits that have crossed into router `r` by port `port` in this clock. -/
def crossed (s : State) (r port : Nat) : Nat :=
  (s.mesh.map fun p => match p.place with | .lane r' q _ m _ => if r' = r && q = port && m = s.clock then p.flits else 0 | _ => 0).foldl (· + ·) 0

/-- A clock of a packet: it enters the mesh, moves one hop on a minimal path to a free lane, or reaches its agent; on a Slough lane it
moves when the next buffer is empty. A link moves four flits in a clock in each direction (R2, R349). Of several lanes the packet takes
the first (R350, R356; DESIGN CHOICE, log 106). -/
def movePacket (s : State) (p : Packet) : State :=
  match p.place with
  | .arrived => s
  | .local => match freeLane s p.src 4 with
    | some l => modPacket s p.id fun q => { q with place := .lane p.src 4 l s.clock false }
    | none => s
  | .lane r _ _ m _ =>
    if s.clock ≤ m || s.clock < p.due then s
    else if r = p.dest then modPacket s p.id fun q => { q with place := .arrived }
    else
      let way := (neighbours r).findSome? fun (n, port) =>
        if hops n p.dest + 1 = hops r p.dest && crossed s n port + p.flits ≤ 4 then (freeLane s n port).map fun l => (n, port, l) else none
      match way with
      | some (n, port, l) => modPacket s p.id fun q => { q with place := .lane n port l s.clock false }
      | none => s
  | .slough r =>
    let n := sloughNext r p.dest
    if r = p.dest || s.clock < p.due || tget 0 (dieOf s (dieNo n)).sloughs n ≠ 0 then s
    else enterSlough (leaveSlough s r) p n

/-! ### Packets of a record (R349) -/

/-- Packets of at most 256 bytes in a row; the number of the one that holds byte `p` of the stream; and the byte where one begins. -/
def Xfer.per (x : Xfer) : Nat := (x.len + 255) / 256
def Xfer.window (x : Xfer) (p : Nat) : Nat := p / max 1 x.len * x.per + p % max 1 x.len / 256
def Xfer.windowAt (x : Xfer) (w : Nat) : Nat := w / max 1 x.per * x.len + w % max 1 x.per * 256

/-! ### Arrival -/

/-- The value of a fixed-latency load reaches its entry of the exposed pipeline. -/
def fillLoad (s : State) (cid id : Nat) (v : Word) (p : Option Cause) : State :=
  modCid s cid fun c => modEng c 0 fun x =>
    { x with pipe := x.pipe.map fun l => if l.awaits = some id then { l with val := .word v, poison := p, awaits := none } else l }

/-- The words of the group at `a` are on their way to engine `e` of context `cid` (R229). -/
def fetching (s : State) (cid e a : Nat) : Bool := s.mesh.any fun p => p.job == .fetch cid e a || p.job == .words cid e a

/-- The words of a group reach an engine that still waits for them. -/
def wordsArrive (s : State) (cid e addr : Nat) : State :=
  modCid s cid fun c => modEng c e fun x => if x.pc = addr then { x with fetchAt := some s.clock } else x

/-- The source bytes of a record's packet reach its engine. -/
def bytesArrive (s : State) (id w agent : Nat) : State :=
  { s with xfers := s.xfers.map fun x => if x.id = id then
      { x with inbox := x.inbox.map fun f => if f.agent = agent && x.window f.pos = w then { f with landed := true } else f } else x }

/-- A response at its core: its room is free, and it takes effect. -/
def takeReply (s : State) (p : Packet) : State :=
  let s := modCore (dropPacket s p.id) p.k fun c => { c with room := c.room - 1 }
  match p.job with
  | .post q => { s with posted := s.posted ++ [{ q with due := max q.due s.clock }] }
  | .fill cid id _ v c => fillLoad s cid id v c
  | .words cid e a => wordsArrive s cid e a
  | .bytes id w a => bytesArrive s id w a
  | _ => s

/-- A request leaves its agent, which has applied it: its credit sets out for its core (R352). -/
def retireRequest (s : State) (p : Packet) : State := sendCredit (dropPacket s p.id) p.agent p.g

end Sys2Proof.Machine
end

