-- ==== Sys2Proof/Machine/Operands.lean ====
section
/-! DEFINITION. Operand forms: branch targets (R41, R92), rounding and predicate fields of a prefix word (R40, R144), and the
address operands, lengths and shapes of command records (R53, R54), and what a
unit command reads and writes (Tables 7.3, 7.6, 10.3). -/

namespace Sys2Proof.Machine
open Sys2Proof

/-! ### Instruction addresses -/

/-- The descriptor number of the engine ring of engine `e` (1 vector to 4 array port) of sub-core `g` (R12). -/
def engRing (g e : Nat) : Nat := 4 * (g % 4) + (e - 1)

/-- Base and size in bytes of the executing engine's ring. -/
def ringSpan (s : State) : Nat × Nat :=
  let r := ringOf s (curCore s) (engRing s.cur.g s.cur.e)
  (r.base.toNat, r.count.toNat * 16)

/-- An instruction address moved by `d` bytes: modulo 2^32 in the sequencer, wrapped within the ring elsewhere (R41). -/
def movePc (s : State) (a : Nat) (d : Int) : Nat :=
  if s.cur.e = 0 then ((a + d) % 2 ^ 32).toNat
  else
    let (b, n) := ringSpan s
    if n = 0 then a else ((b : Int) + (a - b + d) % n).toNat

/-- The target of a label form: `o` words from the branch word (R41). -/
def labelTarget (s : State) (o : Int) : Nat := movePc s s.cur.addr (4 * o)

/-- A register target is legal: BADPC otherwise (R92). -/
def regTargetOk (s : State) (w : Word) : Bool :=
  if s.cur.e = 0 then w.toNat < 2 ^ 32 && w.toNat % 4 == 0
  else
    let (b, n) := ringSpan s
    w.toNat % 4 == 0 && b ≤ w.toNat && w.toNat < b + n

/-- The group takes a transfer to `t`: no loop end test runs, and the target issues two clocks on (R91, R99, R229). -/
def jumpTo (s : State) (t : Nat) : State := { s with cur := { s.cur with next := t, taken := true } }

/-! ### Element types (R50) -/

/-- Width in bits of a type code; x4 is 4. -/
def typeBits (t : Nat) : Nat :=
  match t with
  | 0 | 9 | 13 => 32
  | 1 | 2 | 8 | 12 => 16
  | 3 | 4 | 5 | 7 | 11 => 8
  | 6 => 4
  | _ => 64

/-- Width in bytes of a type code; x4 counts as 1. -/
def typeBytes (t : Nat) : Nat := (typeBits t + 7) / 8

/-! ### Rounding (R40, R66) -/

/-- The rounding mode of a word: the prefix's rm, or RMODE as it stood before this clock. 0 RNE, 1 RTZ, 2 RUP, 3 RDN. -/
def roundMode (s : State) : Nat :=
  let rm := s.cur.pfx.rm
  let c := curCtx s
  let held := match c.rmodeWas with | some (t, v) => if t = s.clock then v else c.rmode | none => c.rmode
  if rm = 0 then held.toNat else rm - 4

/-! ### Predicates (R18, R144) -/

/-- Rows and columns that a predicate leaves unclipped in a tile of `rows` × 128; none clips nothing. -/
def extent (k : Option Word) (rows : Nat) : Nat × Nat :=
  match k with
  | none => (rows, 128)
  | some w => (min (bits w.toNat 16 16) rows, min (bits w.toNat 0 16) 128)

/-- Element `j` of a tile of 128 columns is clipped. -/
def clipped (e : Nat × Nat) (j : Nat) : Bool := !(j / 128 < e.1 && j % 128 < e.2)

/-! ### Command record operands (R53, Table 2.12) -/

/-- A resolved address operand. -/
inductive Operand where
  | scratch (a : Nat)
  | core (target off : Nat)
  | handle (h off : Nat)
deriving DecidableEq, Repr

/-- An operand of space 0, 1 or 2. Bits [23:22] of one of space 1 that came through a register (R53) are ignored (DESIGN CHOICE, log
112). -/
def Operand.ofWord (w : BitVec 32) : Operand :=
  let x := w.toNat
  match bits x 30 2 with
  | 0 => .scratch (bits x 0 30)
  | 1 => .core (bits x 24 6) (bits x 0 22)
  | _ => .handle (bits x 26 4) (bits x 0 26)

/-- Resolve an operand as the engine begins the command: an operand of space 3 adds a signed offset to the address field of
the named a register. `none` is CMDOPND (R53). A poisoned register gives its cause. -/
def resolveOperand (c : Ctx) (e : Nat) (w : BitVec 32) : Except (Cause × Word) (BitVec 32) :=
  let x := w.toNat
  if bits x 30 2 ≠ 3 then .ok w
  else
    let r := rdA c e (bits x 26 4)
    match r.p with
    | some k => .error (k, r.w)
    | none =>
      let v := r.w.toNat
      let off : Int := if bitAt x 25 then (bits x 0 26 : Int) - 2 ^ 26 else bits x 0 26
      let sp := bits v 30 2
      let width := if sp = 0 then 30 else if sp = 1 then 22 else 26
      let sum : Int := bits v 0 width + off
      if v ≥ 2 ^ 32 || sp = 3 || sum < 0 || sum ≥ 2 ^ width then .error (.cmdopnd, 0#64)
      else .ok (BitVec.ofNat 32 (v / 2 ^ width * 2 ^ width + sum.toNat))

/-- Shape of a transfer record (R54): rows, row length in bytes, and the row strides of opA and opB in bytes. -/
structure Shape where
  rows : Nat
  len : Nat
  strideA : Nat
  strideB : Nat
  /-- SH = 1 -/
  shaped : Bool
deriving DecidableEq, Repr

/-- A shape register (R54). -/
def Shape.ofWord (w : Word) : Shape :=
  let x := w.toNat
  ⟨bits x 48 16, bits x 32 16, bits x 16 16 * 64, bits x 0 16 * 64, true⟩

/-- The shape of a transfer record; a poisoned shape register gives its cause. -/
def recordShape (c : Ctx) (e : Nat) (r : Record) : Except (Cause × Word) Shape :=
  let x := r.aux.toNat
  if bitAt x 11 then
    let v := rdA c e (bits x 12 4)
    match v.p with
    | some k => .error (k, v.w)
    | none => .ok (Shape.ofWord v.w)
  else .ok ⟨1, bits x 0 11 * 64, 0, 0, false⟩

/-- Space and target classes that a command accepts of an operand. -/
inductive Accept where
  | own | state | mf | sq | plane | remote | handle
deriving DecidableEq, Repr

/-- Class of a resolved operand; none for a target that no command takes (Table 2.12). The offset of mf and sq that came through a
register (R53) is ignored (DESIGN CHOICE, log 112). -/
def acceptOf (w : BitVec 32) : Option Accept :=
  match Operand.ofWord w with
  | .scratch _ => some .own
  | .core 0 _ => some .state
  | .core 1 _ => some .mf
  | .core 2 _ => some .plane
  | .core 3 _ => some .sq
  | .core _ _ => none
  | .handle _ _ => some .handle

/-! ### Fields and extents of a command -/

/-- Rows or chunk length, and columns or groups, of the aux (R54): matrix counts above 128 are taken as 128. -/
def Cmd.hi (c : Cmd) : Nat := let n := bits c.r.aux.toNat 8 8; if c.path = 3 then n else min n 128
def Cmd.lo (c : Cmd) : Nat := let n := bits c.r.aux.toNat 0 8; if c.path = 3 then n else min n 128
/-- Variant bit [23], [22]. -/
def Cmd.v3 (c : Cmd) : Bool := c.r.variant.getLsbD 3
def Cmd.v2 (c : Cmd) : Bool := c.r.variant.getLsbD 2
/-- dv of SCANM and SEMIT (R188). -/
def Cmd.dv (c : Cmd) : Nat := 16 * 2 ^ (bits c.r.variant.toNat 0 2)
def Cmd.dk (c : Cmd) : Nat := c.lo * 256 / c.dv
/-- Element width of the record's type. -/
def Cmd.w (c : Cmd) : Nat := typeBytes c.r.typ.toNat

/-- A zero extent (R176). -/
def Cmd.zero (c : Cmd) : Bool := c.major != 0x42 && c.major != 0x44 && (c.hi == 0 || c.lo == 0)

/-- Entries of 2,048 bytes that a command takes from mf when its source is mf (R179, R190, R191). -/
def Cmd.entries (c : Cmd) : Nat :=
  match c.major with
  | 0x40 | 0x41 => (c.hi * c.w + 15) / 16 + bnat c.v3
  | 0x48 => c.hi * c.lo
  | _ => c.hi

/-- The combine steps of a chunk (Table 10.3). -/
def treeSteps (t : Nat) : Nat := t + ((List.range 7).map fun i => if 2 ^ i < t then t - 2 ^ i else 0).foldl (· + ·) 0

/-- What a command reads and writes: the classes its opA and opB accept with their bytes, and its minimum duration (Tables 7.3,
7.6, 10.3). A tile counts with its whole rows of 128 columns (DESIGN CHOICE, log 118). -/
def Cmd.shape (c : Cmd) : Option (List Accept × Nat) × Option (List Accept × Nat) × Nat :=
  let h := c.hi
  let l := c.lo
  match c.major with
  | 0x40 =>
    let n := h * 128 * c.w + 128 * ((h + 31) / 32) * bnat c.v3
    if c.v2 then (none, none, 8) else (some ([.state, .own, .mf], n), some ([.plane], 0), 8 + (n + 1023) / 1024)
  | 0x41 => (some ([.state, .own, .mf], h * 128 * c.w + 4 * h * bnat c.v3), some ([.state], h * 512),
             24 + (if c.w = 2 then h else (h + 1) / 2))
  | 0x42 => (none, none, 2)
  | 0x43 => (some ([.state], h * 512), if c.r.variant.getLsbD 0 then none else some ([.state, .own], h * 128 * c.w),
             8 + (h * l * 4 + 1023) / 1024)
  | 0x44 => (none, some ([.state], 65536), 66)
  | 0x45 => (some ([.state], h * 512), some ([.state, .own], h * 128 * c.w + 4 * h * bnat c.v3), 8 + (h * l * 4 + 1023) / 1024)
  | 0x48 => (some (if c.v3 then [.state, .own] else [.state, .own, .mf], h * l * 2048), some ([.state], l * 2048), 12 + l * treeSteps h)
  | 0x49 => (some (if c.v3 then [.state, .own] else [.state, .own, .mf], h * 2048), some ([.state], l * 2048), 12 + l * treeSteps h)
  | 0x4A => (some ([.state], l * 2048), some ([.state, .own], if c.v3 then h * 512 else h * l * 1024), 8 + l * h)
  | _ => (if c.v3 then some ([.state, .own], h * l * 2048) else none,
          some (if c.v3 then [.state, .own] else [.state], h * l * (if c.v3 then 1024 else 2048)), 8 + l * h)

end Sys2Proof.Machine
end

