-- ==== Sys2Proof/Machine/Flags.lean ====
section
/-! DEFINITION. Status and flag words: STATUS (Table 19.3), the threshold and landing condition of TWAIT (R104), the class
masks of errors, and the status bits that operations raise (Table 10.6). -/

namespace Sys2Proof.Machine
open Sys2Proof

/-- STATUS of a sub-core's active context (Table 19.3). -/
def statusWord (b : Sub) : Word :=
  BitVec.ofNat 64 (b.act.pl.toNat + bnat b.act.trapped * 8 + b.shb.toNat * 16 + bnat b.act.pend * 64 + bnat b.act.svc * 128)

/-- Every operation of context `cid` that posts to `t` and writes a register has landed its result (R104). -/
def coveredLanded (s : State) (cid t : Nat) : Bool :=
  !(s.accs.any fun a => a.cid == cid && a.token == some t && a.dest != .none) &&
  !((results s).any fun a => a.cid == cid && a.token == some t && a.dest != .none) &&
  !(s.walks.any fun a => a.cid == cid && a.token == some t && a.dest != .none) &&
  !(s.frms.any fun a => a.cid == cid && a.token == t && a.dest != .none)

/-- The condition of a TWAIT of engine `e` of the active context of `g` (R104). -/
def tokenMet (s : State) (g e t : Nat) (theta : BitVec 16) : Bool :=
  let c := ctxOf s g
  (threshold (tget {} c.t t).count theta).1 && (e ≠ 0 || coveredLanded s c.cid t)

/-- Bit `cls` of a class mask. -/
def classBit (mask : BitVec 16) (cls : Nat) : Bool := mask.getLsbD cls

/-- Register a pending store error of a class for the step of context `cid`, or for the context itself where it is a service context
(R123). -/
def storeError (s : State) (cid cls : Nat) : State :=
  modCid s cid fun c =>
    if c.step.isSome then { c with step := c.step.map fun st => { st with errs := st.errs ||| (1#16 <<< cls) } }
    else { c with errs := c.errs ||| (1#16 <<< cls) }

/-- The classes with a pending store error of a context. -/
def pendingErrors (c : Ctx) : BitVec 16 := match c.step with | some st => st.errs | none => c.errs

end Sys2Proof.Machine
end

