-- ==== Sys2Proof/Machine/Translate.lean ====
section
/-! DEFINITION. Page walks, translation caches, memory handles and their checks (R314 to R322), scratch reach checks (R26, R27,
R123) and state-offset checks (R28, R272). -/

namespace Sys2Proof.Machine
open Sys2Proof

/-! ### The walk -/

/-- What a walk finds (R316); whether the kind is refused is decided by the kinds. -/
inductive WalkOut where
  | page (base size pa : Nat) (r w fo : Bool)
  /-- no page; whether the entry met was malformed -/
  | none (mal : Bool)
deriving DecidableEq, Repr

/-- A run of physical bytes lies in a fen's grant: its LPDDR-6 pages, or its host window (R315). -/
def inGrant (f : Fen) (pa n : Nat) : Bool :=
  if pa < 0x60_0000_0000 then f.grantBase ≤ pa && pa + n ≤ f.grantBase + f.grantLen
  else bitAt pa 51 && f.hostBase ≤ pa - 2 ^ 51 && pa - 2 ^ 51 + n ≤ f.hostBase + f.hostLen

/-- Table bytes of the level below a level (Table 18.1): every table below level 0 is 4,096 bytes. -/
def tableBytes : Nat := 4096

/-- Page size of a leaf at a level (Table 18.1). -/
def leafSize (level : Nat) (big : Bool) : Nat :=
  match level, big with
  | 2, false => 2 ^ 30
  | 2, true => 2 ^ 35
  | 3, _ => 2 ^ 21
  | _, false => 2 ^ 12
  | _, true => 2 ^ 16

/-- A page-table entry with V = 1 is malformed (R315). -/
def malformed (f : Fen) (level pte : Nat) : Bool :=
  let leaf := bitAt pte 1
  let big := bitAt pte 55
  let pa := bits pte 12 40 * 2 ^ 12
  bits pte 56 8 ≠ 0 || bits pte 52 3 ≠ 0 || bits pte 6 6 ≠ 0 || bitAt pte 4 ||
  (leaf && level < 2) || (!leaf && level == 4) || (big && (level == 3 || !leaf)) ||
  (if leaf then pa % leafSize level big ≠ 0 || !inGrant f pa (leafSize level big)
   else !(pa < 0x60_0000_0000 && inGrant f pa tableBytes))

/-- Walk the levels from a table base: each level is its number, the low VA bit it indexes and how many (Table 18.1). -/
def walkLevels (s : State) (f : Fen) (va : Nat) : List (Nat × Nat × Nat) → Nat → WalkOut
  | [], _ => .none false
  | (level, lo, n) :: r, base =>
    let at_ : Loc := .phys (base + 8 * bits va lo n)
    let pte := leNat (readHome s at_ 8)
    if poisoned s at_ 8 then .none true
    else if !bitAt pte 0 then .none false
    else if malformed f level pte then .none true
    else
      let pa := bits pte 12 40 * 2 ^ 12
      if bitAt pte 1 then
        let size := leafSize level (bitAt pte 55)
        .page (va / size * size) size pa (bitAt pte 2) (bitAt pte 3) (bitAt pte 5)
      else walkLevels s f va r pa

/-- The levels of a walk: number, low VA bit and bits that it indexes (Table 18.1). -/
def walkPlan : List (Nat × Nat × Nat) := [(0, 48, 8), (1, 39, 9), (2, 30, 9), (3, 21, 9), (4, 12, 9)]

/-- Table root of a fen. -/
def rootOf (f : Fen) : Nat := bits f.ptroot.toNat 11 41 * 2 ^ 11

/-- The walk of a fen's tree (R314). -/
def walkVa (s : State) (fen va : Nat) : WalkOut :=
  let f := fenOf s fen
  walkLevels s f va walkPlan (rootOf f)

/-- Physical address of a virtual address that the fen's translation allows with the given kind; a write to a frame-owned page
is allowed to the frame engine and log unit only when `own` (R268). -/
def translateVa (s : State) (fen va : Nat) (write own : Bool) : Option Nat :=
  match walkVa s fen va with
  | .page base _ pa r w fo =>
    if (if write then w && (own || !fo) else r) then some (pa + (va - base)) else none
  | .none _ => none

/-- Addresses of the page-table entries that the walk of `va` reads. -/
def walkAddrs (s : State) (f : Fen) (va : Nat) : List (Nat × Nat × Nat) → Nat → List Nat
  | [], _ => []
  | (level, lo, n) :: r, base =>
    let a := base + 8 * bits va lo n
    let pte := leNat (readHome s (.phys a) 8)
    if poisoned s (.phys a) 8 || !bitAt pte 0 || bitAt pte 1 || malformed f level pte then [a]
    else a :: walkAddrs s f va r (bits pte 12 40 * 2 ^ 12)

/-! ### Bandwidth regulators (R380) -/

/-- The regulator of a physical address: class 0 RD, 1 WR, 2 FRM, and its channel (log 24); none for host memory. -/
def regulAt (cls pa : Nat) : Option Nat := if pa < 0x60_0000_0000 then some (cls * 64 + pa / 256 % 48) else none

/-- The peak bucket has the bytes of a request. -/
def regulHas (s : State) (fen cls pa n : Nat) : Bool :=
  match regulAt cls pa with
  | none => true
  | some i => 1000 * n ≤ (tget {} (fenOf s fen).regul i).p

/-- No earlier request is held in the queue of request `key`. -/
def regulTurn (s : State) (fen cls pa key : Nat) : Bool :=
  match regulAt cls pa with
  | none => true
  | some i => match (tget {} (fenOf s fen).regul i).queue with | k :: _ => k == key | [] => true

/-- Request `key` of `n` bytes is not held: the peak bucket has its bytes, and no earlier request of its queue is held. -/
def regulOk (s : State) (fen cls pa n key : Nat) : Bool := regulHas s fen cls pa n && regulTurn s fen cls pa key

/-- A request of `n` bytes would be green (R380). -/
def regulGreen (s : State) (fen cls pa n : Nat) : Bool :=
  match regulAt cls pa with
  | none => true
  | some i => 1000 * n ≤ (tget {} (fenOf s fen).regul i).c

/-- Request `key` of `n` bytes passes its regulator: green or yellow, and the bytes that the counters see (Table 23.8). -/
def regulTake (s : State) (fen cls core pa n key : Nat) : State :=
  match regulAt cls pa with
  | none => s
  | some i =>
    let r := tget {} (fenOf s fen).regul i
    let green := 1000 * n ≤ r.c
    let r' := { r with c := if green then r.c - 1000 * n else r.c, p := r.p - 1000 * n, queue := r.queue.erase key }
    let s := modFen s fen fun f => { f with regul := tset f.regul i r' }
    let s := countEv s fen core (6 + cls) n
    if green then s else countEv s fen core 9 n

/-- Request `key` passes the regulators of runs, or is held by one of them. -/
def regulAll (s : State) (fen cls core key : Nat) (runs : List (Nat × Nat)) : Option State :=
  if runs.all fun (pa, _) => regulTurn s fen cls pa key then
    runs.foldl (fun o (pa, n) => o.bind fun s => if regulHas s fen cls pa n then some (regulTake s fen cls core pa n key) else none) (some s)
  else none

/-- Carry lines of request `key` past their regulators, at most `k`, until one is held. -/
def payLines (fen cls core key : Nat) : Nat → List Nat → State → List Nat × State
  | 0, ls, s => (ls, s)
  | _, [], s => ([], s)
  | k + 1, a :: r, s => if regulOk s fen cls a 64 key then payLines fen cls core key k r (regulTake s fen cls core a 64 key) else (a :: r, s)

/-- The buckets of a regulator one clock on. A new setting of the clock applies from the next, with the contents cut to its capacity
(R380, R381). -/
def Regul.tick (r : Regul) : Regul :=
  let r := { r with c := min (r.c + r.cr) (64000 * max r.cb 4), p := min (r.p + r.pr) (64000 * max r.pb 4) }
  match r.next with
  | some (cr, cb, pr, pb) =>
    { r with cr, cb, pr, pb, c := min r.c (64000 * max cb 4), p := min r.p (64000 * max pb 4), next := none }
  | none => r

/-! ### The handle table -/

/-- A memory handle (Table 18.3). -/
structure Handle where
  fen : Nat
  acc : Nat
  gen : Nat
  index : Nat
  off : Nat
deriving DecidableEq, Repr

def Handle.ofWord (w : Word) : Handle :=
  let x := w.toNat
  ⟨bits x 60 4, bits x 58 2, bits x 48 10, bits x 35 13, bits x 0 35⟩

def Handle.word (h : Handle) : Word :=
  BitVec.ofNat 64 (h.fen * 2 ^ 60 + h.acc * 2 ^ 58 + h.gen * 2 ^ 48 + h.index * 2 ^ 35 + h.off % 2 ^ 35)

def hentry (s : State) (fen i : Nat) : HEntry := tget {} (fenOf s fen).ht i
def modHentry (s : State) (fen i : Nat) (m : HEntry → HEntry) : State := modFen s fen fun f => { f with ht := tmod {} f.ht i m }

/-- FEN, INDEX and GEN of a handle name an allocated entry of fen `fen` (R321); else the REASON. -/
def handleNames (s : State) (fen : Nat) (h : Handle) : Option Nat :=
  let e := hentry s fen h.index
  if h.fen ≠ fen then some 4
  else if h.index = 0 || !e.alloc || e.bad || e.gen ≠ h.gen then some 5
  else none

/-- What a handle check gives (R321): a REASON of Table 18.5, a not-present access, or the physical address. -/
inductive Check where
  | fail (reason : Nat)
  | absent
  | pass (pa : Nat)
deriving DecidableEq, Repr

/-- The check of an access of `n` bytes at offset `x` through handle value `hv`. KIND is 0 read, 1 write, 2 atomic or
reduction; `atM` says that the issuer runs at M (R316, R321). -/
def checkHandle (s : State) (fen : Nat) (hv : Word) (x n kind : Nat) (atM : Bool) : Check :=
  let h := Handle.ofWord hv
  let e := hentry s fen h.index
  let rd := kind != 1
  let wr := kind != 0
  match handleNames s fen h with
  | some r => .fail r
  | none =>
    let accOk := (!rd || h.acc == 0 || h.acc == 2) && (!wr || h.acc == 1 || h.acc == 2)
    if !accOk || (rd && !e.r) || (wr && !(e.w && (atM || !e.fo))) then .fail 6
    else
      let a := h.off + x
      if a ≥ 2 ^ 64 || a < e.lo || a + n > e.hi then .fail 7
      else if !e.present then .absent
      else .pass (e.pa + a)

/-- The host's completer answers an access of host memory with an error (Table 18.5, REASON 8; log 110). -/
def hostRefuses (s : State) (l : Loc) (n : Nat) : Bool :=
  match l with
  | .phys pa => s.hostBad.any fun r => r.1 < pa + n && pa < r.1 + r.2
  | _ => false

/-- The virtual address that a handle and an offset name, as its entry has it. -/
def handleVa (s : State) (fen : Nat) (hv : Word) (x : Nat) : Nat :=
  let h := Handle.ofWord hv
  (hentry s fen h.index).base + h.off + x

/-- The least free entry of a fen's table (R320). -/
def freeEntry (f : Fen) : Option Nat :=
  ((List.range f.htcap).map (· + 1)).find? fun i => let e := tget {} f.ht i; !e.alloc && !e.retired

/-- Free an entry: its generation rises, and at 1,023 it retires (R322). -/
def releaseEntry (e : HEntry) : HEntry :=
  { e with alloc := false, gen := e.gen + 1, retired := e.gen + 1 ≥ 1023, present := false }

/-- Entry of a whole page, made by a fill. -/
def pageEntry (f : Fen) (base size : Nat) : Option Nat :=
  (f.ht.find? fun (_, e) => e.alloc && e.base == base && e.size == size && e.lo == 0 && e.hi == size).map (·.1)

/-- Allocate an entry (R320); none when the table is full. -/
def allocEntry (s : State) (fen : Nat) (e : HEntry) : Option (Nat × State) :=
  match freeEntry (fenOf s fen) with
  | none => none
  | some i => some (i, modHentry s fen i fun old => { e with alloc := true, retired := false, gen := old.gen })

/-! ### Translation caches (R317) -/

def Tlb.covers (t : Tlb) (fen va : Nat) : Bool := t.fen == fen && t.base ≤ va && va < t.base + t.size

/-- A cached translation answers a TRN or a fill while the entry that it names is still its page's (R317, R320, R322; log 88). -/
def Tlb.serves (t : Tlb) (s : State) (fen va : Nat) : Bool :=
  let e := hentry s fen t.index
  t.covers fen va && e.alloc && e.base == t.base && e.size == t.size && e.lo == 0 && e.hi == t.size

/-- Put a translation first in a cache of `n` entries. Which entry it replaces changes timing only. -/
def cacheIn (n : Nat) (t : Tlb) (l : List Tlb) : List Tlb :=
  (t :: l.filter fun x => !(x.fen == t.fen && x.base == t.base && x.size == t.size)).take n

/-- Drop a fen's translations of the page that contains `va`. -/
def dropTlb (fen va : Nat) (l : List Tlb) : List Tlb := l.filter fun t => !t.covers fen va

/-- What a fill ends with. -/
inductive FillOut where
  | found (t : Tlb)
  | full
  | nopage (mal : Bool)
deriving DecidableEq, Repr

/-- A fill for core `k` (R317): the die's level-2 cache, then a walk. A page found goes into both levels and takes a handle
table entry if it has none. -/
def fillTlb (s : State) (k fen va : Nat) (key : Nat := 3) : FillOut × State :=
  let put := fun (s : State) (t : Tlb) =>
    modDie (modCore s k fun c => { c with l1 := cacheIn 64 t c.l1 }) (dieNo k) fun d => { d with l2 := cacheIn 4096 t d.l2 }
  match (dieOf s (dieNo k)).l2.find? fun t => t.serves s fen va with
  | some t => (.found t, put s t)
  | none =>
    let s := (walkAddrs s (fenOf s fen) va walkPlan (rootOf (fenOf s fen))).foldl (fun s a => regulTake s fen 0 k a 8 key) (countEv s fen k 12 1)
    match walkVa s fen va with
    | .none mal => (.nopage mal, s)
    | .page base size pa r w fo =>
      match pageEntry (fenOf s fen) base size with
      | some i => let t : Tlb := { fen, base, size, index := i, r, w, fo }; (.found t, put s t)
      | none =>
        match allocEntry s fen { base, size, pa, r, w, fo, lo := 0, hi := size, present := true } with
        | none => (.full, s)
        | some (i, s') => let t : Tlb := { fen, base, size, index := i, r, w, fo }; (.found t, put s' t)

/-- The access kind of a TRN is allowed (R316): 0 read, 1 write, 2 read and write. -/
def Tlb.allows (t : Tlb) (acc : Nat) (atM : Bool) : Bool :=
  let wr := t.w && (atM || !t.fo)
  (acc == 1 || t.r) && (acc == 0 || wr)

/-- The handle that a TRN writes for a page it found (R320). -/
def trnHandle (s : State) (t : Tlb) (va acc : Nat) : Word :=
  (Handle.mk t.fen acc (hentry s t.fen t.index).gen t.index (va - t.base)).word

/-- A handle poisoned by TRN holds va[55:0] (R318). -/
def poisonHandle (va : Word) (c : Cause) : Val := ⟨BitVec.ofNat 64 (va.toNat % 2 ^ 56), some c⟩

/-- FREC0 less V and OVR, and FREC1 to FREC3 (Table 18.6). -/
def frecOf (mal : Bool) (c : Cause) (engine opnd hreg seq va row rows byte remain : Nat) : Word × Word × Word × Word :=
  (BitVec.ofNat 64 (bnat mal * 2 ^ 61 + causeCode c * 2 ^ 48 + engine * 2 ^ 46 + opnd * 2 ^ 44 + hreg * 2 ^ 40 + seq % 2 ^ 32),
   BitVec.ofNat 64 (va % 2 ^ 56),
   BitVec.ofNat 64 (row % 2 ^ 16 * 2 ^ 48 + rows % 2 ^ 16 * 2 ^ 32 + byte % 2 ^ 16),
   BitVec.ofNat 64 remain)

/-- MAL of the fault of a handle poisoned with `p`: the walk of the TRN that gave the poison met a malformed entry (R316; log 44). -/
def poisonMal (p : Cause) : Bool := p == .notpresentMal

/-- The fault record of a sequencer access of `n` bytes at byte offset `x` from a handle poisoned with `p` that holds `va`. -/
def frecPoison (p : Cause) (h : Nat) (va : Word) (x : Word) (n : Nat) : Word × Word × Word × Word :=
  frecOf (poisonMal p) p 0 3 h 0 ((va + x).toNat) 0 1 0 n

/-! ### XINV (R319) -/

/-- Drop a fen's cached translations of the page that contains `va`, in every cache. -/
def flushPage (s : State) (fen va : Nat) : State :=
  { s with cores := s.cores.map fun (k, c) => (k, { c with l1 := dropTlb fen va c.l1 }),
           dies := s.dies.map fun (k, d) => (k, { d with l2 := dropTlb fen va d.l2 }) }

/-- Change every handle-table entry of the page that contains `va`. -/
def modPage (s : State) (fen va : Nat) (m : HEntry → HEntry) : State :=
  modFen s fen fun f =>
    { f with ht := f.ht.map fun (i, e) => (i, if e.alloc && e.base ≤ va && va < e.base + e.size then m e else e) }

/-- The effect of XINV by mode: 0 FLUSH, 1 REVOKE, 2 SUSPEND, 3 RESUME. -/
def xinv (s : State) (fen va mode : Nat) : State :=
  match mode with
  | 0 => flushPage s fen va
  | 1 => modPage (flushPage s fen va) fen va releaseEntry
  | 2 => modPage (flushPage s fen va) fen va fun e => { e with present := false }
  | _ =>
    match walkVa s fen va with
    | .none _ => modPage s fen va releaseEntry
    | .page _ size pa r w fo => modPage s fen va fun e => if e.size = size then { e with pa, r, w, fo, present := true } else releaseEntry e

/-! ### Reach of scratch and state addresses -/

/-- Why an access of sub-core `g` to `n` scratch bytes at `a` gets an error response (R26, R27, R123): the REASON. Code at M gets it too
in a slice of another fen (DESIGN CHOICE, log 124). -/
def scratchError (s : State) (g a n : Nat) : Option Nat :=
  let core := a / 0x80_0000
  let off := a % 0x80_0000
  if a ≥ 0x3000_0000 || off + n > 0x5D_0000 then some 1
  else if !inFen s (coreOf s (coreNo g)).fen core then some 3
  else if off + n > 0x59_0000 && 0 < n then
    let lo := (max off 0x59_0000 - 0x59_0000) / 0x1_0000
    let hi := (off + n - 1 - 0x59_0000) / 0x1_0000
    if core = coreNo g && lo = g % 4 && hi = g % 4 && 0x59_0000 ≤ off then none
    else if off < 0x59_0000 && core = coreNo g && g % 4 = 0 && hi = 0 then none
    else some 2
  else none

/-- A state access of `n` bytes reaches 0x30_0000, or half 1 of a live region (R28, R272). -/
def stateError (s : State) (core off n : Nat) : Bool :=
  off + n > 0x30_0000 ||
  (coreOf s core).regions.any fun r => off < r.off + 128 * r.lines && r.off + 64 * r.lines < off + n

end Sys2Proof.Machine
end

