-- ==== Sys2Proof/Machine/OrderLog.lean ====
section
/-! DEFINITION. The order log of a fen (R362 to R366): decisions gathered and written in record mode, lists taken in replay. -/

namespace Sys2Proof.Machine
open Sys2Proof

/-- Pieces of a run of bytes that do not cross a multiple of `q`. -/
def pieces (q a n : Nat) : List (Nat × Nat) :=
  if n = 0 || q = 0 then []
  else (List.range ((a + n - 1) / q - a / q + 1)).map fun i =>
    let lo := max a ((a / q + i) * q)
    (lo, min (a + n) ((a / q + i + 1) * q) - lo)

/-- Write bytes at a virtual address of a fen, page piece by page piece; none when a page refuses. -/
def writeVa (s : State) (fen va : Nat) (bs : List Byte) (own : Bool) : Option State :=
  (pieces 4096 va bs.length).foldl (fun o (a, n) => do
    let s ← o
    let pa ← translateVa s fen a true own
    some (writeHome s (.phys pa) ((bs.drop (a - va)).take n))) (some s)

/-- Read bytes at a virtual address of a fen; none when a page refuses. -/
def readVa (s : State) (fen va n : Nat) : Option (List Byte) :=
  (pieces 4096 va n).foldl (fun o (a, k) => do
    let bs ← o
    let pa ← translateVa s fen a false true
    some (bs ++ readHome s (.phys pa) k)) (some [])

/-- Read a virtual run; unreachable bytes read as nothing. -/
def readVaD (s : State) (fen va n : Nat) : List Byte := (readVa s fen va n).getD []

def modOl (s : State) (fen : Nat) (m : OrderLog → OrderLog) : State := modFen s fen fun f => { f with ol := m f.ol }

/-- A place of the log without decisions (Table 21.6). -/
def olPlace (kind core place : Nat) (cls op size : Nat := 0) : OlPlace :=
  { kind, core, cls, op, size, place, tag := 0, decs := [] }

/-- Two records are of one place and launch tag. -/
def OlPlace.same (a b : OlPlace) : Bool :=
  a.kind == b.kind && a.core == b.core && a.cls == b.cls && a.op == b.op && a.size == b.size && a.place == b.place && a.tag == b.tag

/-- An entry of the log: header and decisions (Table 21.6). -/
def olEntry (p : OlPlace) (decs : List Word) : List Byte :=
  let size := if p.size = 4 then 2 else if p.size = 8 then 3 else 0
  leBytes 8 (p.kind + decs.length * 2 ^ 8 + p.tag * 2 ^ 16 + p.core * 2 ^ 32 + p.cls * 2 ^ 40 + p.op * 2 ^ 44 + size * 2 ^ 48) ++
  leBytes 8 p.place ++ decs.flatMap fun d => leBytes 8 d.toNat

/-- The writes of the entry that is to be written next: physical runs within lines. -/
def olNext (s : State) (fen : Nat) : List (Nat × Nat) :=
  let o := (fenOf s fen).ol
  match o.out with
  | (p, ds) :: _ =>
    (match translateVa s fen (o.base.toNat + o.pos.toNat) true false with
     | some pa => pieces 64 pa (olEntry p ds).length
     | none => [])
  | [] => []

/-- Write entries at OLBASE + OLPOS as the regulators let them pass (R364, R380): OVF for one that would pass the end, LOST for one whose
page refuses. -/
def olDrain (s : State) (fen : Nat) : Nat → State
  | 0 => s
  | n + 1 =>
    let o := (fenOf s fen).ol
    match o.out with
    | [] => s
    | (p, decs) :: r =>
      let bs := olEntry p decs
      let drop := fun (s : State) (b : BitVec 4) => modOl s fen fun o => { o with out := r, stat := o.stat ||| b }
      if o.pos.toNat + bs.length > o.size.toNat then olDrain (drop s 4#4) fen n
      else match writeVa s fen (o.base.toNat + o.pos.toNat) bs false with
        | some s' =>
          (match regulAll s' fen 1 0xFF 5 (olNext s fen) with
           | some s' => olDrain (modOl s' fen fun o => { o with out := r, pos := o.pos + BitVec.ofNat 32 bs.length }) fen n
           | none => s)
        | none => olDrain (drop s 8#4) fen n

/-- An entry is to be written (R364). -/
def olWrite (s : State) (fen : Nat) (p : OlPlace) (decs : List Word) : State :=
  olDrain (modOl s fen fun o => { o with out := o.out ++ [(p, decs)] }) fen ((fenOf s fen).ol.out.length + 1)

/-- The decision word of an operation (R364). -/
def olDec (item ord : Nat) (alloc : Bool) : Word :=
  BitVec.ofNat 64 (item % 2 ^ 40 + ord % 2 ^ 23 * 2 ^ 40 + bnat alloc * 2 ^ 63)

/-- Decision words at a place of the log in memory. -/
def olWords (bs : List Byte) : Nat → List Word
  | 0 => []
  | n + 1 => BitVec.ofNat 64 (leNat (bs.take 8)) :: olWords (bs.drop 8) n

/-- The entries of a log as bytes; a header with N = 0 ends it. -/
def olParse : Nat → List Byte → List OlPlace
  | 0, _ => []
  | fuel + 1, bs =>
    let h := leNat (bs.take 8)
    let n := bits h 8 6
    if bs.length < 16 || n = 0 then []
    else
      { kind := bits h 0 8, core := bits h 32 8, cls := bits h 40 4, op := bits h 44 4,
        size := if bits h 48 2 = 2 then 4 else if bits h 48 2 = 3 then 8 else 0,
        place := leNat ((bs.drop 8).take 8), tag := bits h 16 16, decs := olWords (bs.drop 16) n } ::
      olParse fuel (bs.drop (16 + 8 * n))

/-- The decisions of a STEAL list, two words each: thief and victim, and the victim's index at the split (R364). -/
def stealPairs : List Word → List (Word × Word)
  | a :: lo :: r => (a, lo) :: stealPairs r
  | _ => []

/-- The entries of a fen's log in memory (R364). -/
def olEntries (s : State) (fen : Nat) : List OlPlace :=
  let o := (fenOf s fen).ol
  olParse (o.size.toNat / 24 + 1) (readVaD s fen o.base.toNat o.size.toNat)

/-- Bytes of entries (Table 21.6). -/
def olBytes (es : List OlPlace) : Nat := es.foldl (fun a e => a + 16 + 8 * e.decs.length) 0

/-- Replay has consumed the whole log: no list holds a decision, and every entry's launch has taken its lists (R365). -/
def olEnd (s : State) (fen : Nat) : State :=
  let o := (fenOf s fen).ol
  if o.places = [] && olBytes (olEntries s fen) ≤ o.pos.toNat then modOl s fen fun o => { o with stat := o.stat ||| 2#4 } else s

/-- Take a decision in replay: it leaves the head of its place's list; END when the whole log is consumed (R365). -/
def olTake (s : State) (fen : Nat) (p : OlPlace) : State :=
  if (fenOf s fen).ol.places.any (·.same p) then
    olEnd (modOl s fen fun o =>
      { o with places := (o.places.map fun x => if x.same p then { x with decs := x.decs.tail } else x).filter fun x => x.decs ≠ [] }) fen
  else s

/-- Gather a decision in record mode; the 63rd writes an entry (R364). -/
def olGather (s : State) (fen : Nat) (p : OlPlace) (d : Word) : State :=
  let o := (fenOf s fen).ol
  match o.places.find? (·.same p) with
  | none => modOl s fen fun o => { o with places := o.places ++ [{ p with decs := [d] }] }
  | some x =>
    let ds := x.decs ++ [d]
    if ds.length ≥ 63 then olWrite (modOl s fen fun o => { o with places := o.places.filter fun y => !y.same p }) fen p ds
    else modOl s fen fun o => { o with places := o.places.map fun y => if y.same p then { y with decs := ds } else y }

/-- An operation of launch `lid` takes effect at a place with decisions `ds` (R362, R365). -/
def olDone (s : State) (lid : Nat) (p : OlPlace) (ds : List Word) : State :=
  let l := launchOf s lid
  let p := { p with tag := l.tag }
  if l.olmode = 1#2 then ds.foldl (fun s d => olGather s l.fen p d) s
  else if l.olmode = 2#2 then ds.foldl (fun s _ => olTake s l.fen p) s
  else s

/-- In replay an operation may take effect at a place only in its listed turn, or once the list is exhausted (R365). -/
def olAllows (s : State) (lid : Nat) (p : OlPlace) (d : Word) : Bool :=
  let l := launchOf s lid
  if l.olmode = 2#2 then
    match (fenOf s l.fen).ol.places.find? (·.same { p with tag := l.tag }) with
    | some x => match x.decs with | h :: _ => h == d | [] => true
    | none => true
  else true

/-- An operation finds that its logged turn has not come (R365). -/
def olHold (s : State) (fen key : Nat) : State := modOl s fen fun o => { o with heldNow := o.heldNow ++ [key] }

/-- Write what a launch's places still hold when it completes (R364). A line that one publish of the launch alone touched has no order to
record (R260, R347; a line of several is recorded whichever bytes they wrote: DEDUCED, log 98). -/
def olFlush (s : State) (l : Launch) : State :=
  if l.olmode = 1#2 then
    let ps := (fenOf s l.fen).ol.places.filter fun p => p.tag == l.tag && !(p.kind == 6 && p.decs.length ≤ 1)
    let s' := modOl s l.fen fun o => { o with places := o.places.filter (·.tag != l.tag) }
    ps.foldl (fun s p => olWrite s l.fen p p.decs) s'
  else s

/-- A launch that starts in replay takes the lists of its tag from the log (R365). -/
def olLoad (s : State) (l : Launch) : State :=
  let o := (fenOf s l.fen).ol
  let es := (olEntries s l.fen).filter (·.tag == l.tag)
  let join := es.foldl (fun (ps : List OlPlace) e =>
    if ps.any (·.same e) then ps.map fun p => if p.same e then { p with decs := p.decs ++ e.decs } else p else ps ++ [e]) o.places
  olEnd (modOl s l.fen fun o => { o with places := join, pos := o.pos + BitVec.ofNat 32 (olBytes es) }) l.fen

/-- The ORD of a step's next operation at a place, and the step with it counted (R364). -/
def nextOrd (st : StepCtx) (key : Nat × Nat × Nat) : Nat × StepCtx :=
  match st.ords.find? (·.1 == key) with
  | some (_, n) => (n, { st with ords := st.ords.map fun x => if x.1 == key then (key, n + 1) else x })
  | none => (0, { st with ords := st.ords ++ [(key, 1)] })

/-- Count an operation of the context's step at a place: launch, item, ORD and PLACE; launch 0 where the log is off. -/
def olOwner (s : State) (cid kind sub place : Nat) : (Nat × Nat × Nat × Nat) × State :=
  match (ctxOfCid s cid).step with
  | none => ((0, 0, 0, place), s)
  | some st =>
    if (launchOf s st.lid).olmode = 0#2 then ((0, st.item, 0, place), s)
    else
      let (n, st') := nextOrd st (kind, sub, place)
      ((st.lid, st.item, n, place), modCid s cid fun c => { c with step := some st' })

end Sys2Proof.Machine
end

