-- ==== Sys2Proof/Machine/Access.lean ====
section
/-! DEFINITION. Accesses: the view that a step has of scratch and state bytes (R260, R273, R308), accesses in flight and the
order of their points (R300 to R307), the combining buffer (R129), atomics (R128), parked sub-cores (R297) and publishing
(R133). -/

namespace Sys2Proof.Machine
open Sys2Proof

/-! ### Views (Table 13.3, R260, R308) -/

/-- The region of a core whose half-0 offsets contain `off`. -/
def regionAt (c : Core) (off : Nat) : Option Region := c.regions.find? fun r => r.off ≤ off && off < r.off + 64 * r.lines

/-- A step holds a region when its item index is the region's holder index (R260). -/
def holds (st : Option StepCtx) (r : Region) : Bool :=
  match st with
  | some x => r.lid == x.lid && r.holder == x.item
  | none => false

/-- Where a read of a state byte goes (Table 13.3). -/
def viewOff (c : Core) (st : Option StepCtx) (off : Nat) : Nat :=
  match regionAt c off with
  | none => off
  | some r =>
    let i := (off - r.off) / 64
    let half := if holds st r && r.dirty.contains i then !r.act.contains i else r.act.contains i
    if half then off + 64 * r.lines else off

/-- Read state bytes in the view of a step. -/
def readState (s : State) (core : Nat) (st : Option StepCtx) (off n : Nat) : List Byte :=
  let c := coreOf s core
  if c.regions = [] then readHome s (.state core off) n
  else (pieces 64 off n).flatMap fun (o, k) => readHome s (.state core (viewOff c st o)) k

/-- Flip membership of a line in a list of lines. -/
def flip (l : List Nat) (i : Nat) : List Nat := if l.contains i then l.erase i else l ++ [i]

def modRegion (s : State) (core off : Nat) (f : Region → Region) : State :=
  modCore s core fun c => { c with regions := c.regions.map fun r => if r.off = off then f r else r }

/-- Write bytes of one line in the view of a step (Table 13.3): the holder's first write copies the active line. -/
def writeStateLine (s : State) (core : Nat) (st : Option StepCtx) (off : Nat) (bs : List Byte) : State :=
  match regionAt (coreOf s core) off with
  | none => writeHome s (.state core off) bs
  | some r =>
    let i := (off - r.off) / 64
    let at_ := fun (half : Bool) (o : Nat) => Loc.state core (if half then o + 64 * r.lines else o)
    let act := r.act.contains i
    if holds st r then
      let line := r.off + 64 * i
      let s' := if r.dirty.contains i then s
        else
          let s1 := writeHome s (at_ (!act) line) (readHome s (at_ act line) 64)
          let s2 := if poisoned s (at_ act line) 64 then poisonLines s1 (at_ (!act) line) 64 else s1
          modRegion s2 core r.off fun r => { r with dirty := r.dirty ++ [i] }
      writeHome s' (at_ (!act) off) bs
    else writeHome s (at_ act off) bs

/-- An access to state lines is the last of their banks, and takes them out of retention (R28, R397). -/
def touchBanks (s : State) (core off n : Nat) : State :=
  let bs := ((linesOf off n).map (· % 16)).eraseDups
  modCore s core fun c => { c with bankAt := bs.foldl (fun t b => tset t b s.clock) c.bankAt,
                                   retained := c.retained.filter fun b => !bs.contains b }

/-! ### Bank arbitration (R238, R397) -/

/-- What an agent needs of a core's banks in a clock: the core, the agent's number, and each line with its bank. The last four bits of an
agent's number are its place in the order of R238: 1 frame engine port, 2 matrix array, 3 scan engine, 4 mesh arrival, 5 fetch engine,
6 store engine, 7 vector engine, 8 sequencer. -/
abbrev Need : Type := Nat × Nat × List (Nat × Nat)

/-- Lines of a run in the banks of its home core: banks 0–30 of the slice (R26), 100–115 of the state store (R28). -/
def linesIn (l : Loc) (n : Nat) : List (Nat × Nat) :=
  match l with
  | .scratch a => (linesOf (a % 0x80_0000) n).map fun i => (i % 31, i)
  | .state _ o => (linesOf o n).map fun i => (100 + i % 16, i)
  | _ => []

/-- Banks that a tile of `n` bytes needs, each for one unnamed line: its lines follow each other at the unit's own pace. -/
def banksIn (l : Loc) (n : Nat) : List (Nat × Nat) := ((linesIn l (min n 2048)).map fun (p : Nat × Nat) => (p.1, 0)).eraseDups

/-- The core whose banks hold a place. -/
def coreIn : Loc → Nat
  | .scratch a => a / 0x80_0000
  | .state k _ => k
  | .plane k _ _ => k
  | .phys _ => 0

/-- Banks of the state store among the lines that an agent needs and that are in retention. -/
def asleep (s : State) (x : Need) : List Nat := (coreOf s x.1).retained.filter fun b => x.2.2.any fun p => p.1 == 100 + b

/-- An agent loses the arbitration of this clock: a bank that it needs serves another line or another agent, or is in retention or
leaving it. -/
def bankLost (s : State) (x : Need) : Bool :=
  let c := coreOf s x.1
  asleep s x ≠ [] || x.2.2.any fun p =>
    (100 ≤ p.1 && s.clock < tget 0 c.waking (p.1 - 100)) || c.busy.any fun q => q.1 == p.1 && (q.2.2 != x.2.1 || q.2.1 != p.2)

/-- The first access to a bank in retention takes it out, and loses arbitration for 8 clocks (R397). -/
def wakeBanks (s : State) (x : Need) : State :=
  let bs := asleep s x
  if bs = [] then s
  else modCore s x.1 fun c => { c with retained := c.retained.filter fun b => !bs.contains b,
                                       bankAt := bs.foldl (fun t b => tset t b s.clock) c.bankAt,
                                       waking := bs.foldl (fun t b => tset t b (s.clock + 8)) c.waking }

/-- The banks serve an agent in this clock. -/
def takeBanks (s : State) (x : Need) : State :=
  let own := (x.2.2.filter fun p => 100 ≤ p.1).map (·.1 - 100)
  modCore s x.1 fun c => { c with bankAt := own.foldl (fun t b => tset t b s.clock) c.bankAt,
                                  busy := (c.busy ++ x.2.2.map fun (p : Nat × Nat) => (p.1, p.2, x.2.1)).eraseDups }

/-- An agent asks for all the banks that an act of it needs in this clock: it wins them all, or none. -/
def askBanks (s : State) (xs : List Need) : Bool × State :=
  let s := xs.foldl wakeBanks s
  if xs.any (bankLost s) then (false, s) else (true, xs.foldl takeBanks s)

/-- What the fetch of a group needs of the banks of another core's slice (R238). -/
def fetchNeed (p : Packet) : List Need :=
  match p.job with
  | .fetch _ _ a => [(p.agent, 16 * p.id + 4, linesIn (.scratch a) 16)]
  | _ => []

/-- The needs of the group fetches that are with their agents. -/
def fetchNeeds (s : State) : List (List Need) :=
  (s.mesh.filter fun p => p.kind == .request && p.place == .arrived && fetchNeed p != [] && nextInStream s p).map fetchNeed

/-- A packet that has arrived. The request of an access or a record stays with its agent until what it asks for has performed; any other
request is applied when it is the next of its stream (R353). -/
def takePacket (s : State) (p : Packet) : State :=
  if p.place ≠ .arrived then s
  else match p.kind, p.job with
    | .response, _ => takeReply s p
    | .credit, _ => now (dropPacket s p.id) (.creditReturn p.k p.agent)
    | .sloughReturn, _ => dropPacket s p.id
    | .request, .access id => if s.accs.any (·.id == id) then s else retireRequest s p
    | .request, .record id _ => if s.xfers.any (·.id == id) then s else retireRequest s p
    | .request, .fetch cid e a =>
      if !nextInStream s p then s
      else
        let (won, s) := askBanks s (fetchNeed p)
        if won then retireRequest (sendReply s p.agent p.g p.cls 1 (.words cid e a) 0) p else s
    | .request, _ => retireRequest s p

/-- One clock of the mesh. -/
def meshClock (s : State) : State :=
  let each := fun (f : State → Packet → State) (s : State) =>
    (s.mesh.map (·.id)).foldl (fun s i => match s.mesh.find? (·.id == i) with | some p => f s p | none => s) s
  each takePacket (each movePacket s)

/-- What a mesh arrival needs: the lines of its home, in another core than its own (R238). -/
def Access.need (a : Access) : List Need :=
  match a.loc with
  | .scratch x => if x / 0x80_0000 = coreNo a.g then [] else [(x / 0x80_0000, 16 * a.id + 4, linesIn a.loc a.size)]
  | _ => []

/-- The executing group needs a run of its core's banks (R238). -/
def useBanks (s : State) (l : Loc) (n : Nat) : State :=
  if coreIn l = curCore s then { s with cur := { s.cur with lines := s.cur.lines ++ linesIn l n } } else s

/-- Clocks for which a group's own lines keep it from issuing: a bank serves one line per clock, and each access after the first loses to
the previous one (R238, and the text of 15_memory before R289). -/
def selfLoss (ls : List (Nat × Nat)) : Nat :=
  let d := ls.eraseDups
  (d.map fun (q : Nat × Nat) => (d.filter fun p => p.1 == q.1).length - 1).foldl max 0

/-- The place of a sub-core among those of one kind, which rotates from clock to clock (R238; DESIGN CHOICE, log 11). -/
def turnRank (s : State) (g : Nat) : Nat := (g % 4 + 4 - s.clock % 4) % 4

/-- Write state bytes in the view of a step. -/
def writeState (s : State) (core : Nat) (st : Option StepCtx) (off : Nat) (bs : List Byte) : State :=
  let s := touchBanks s core off bs.length
  if (coreOf s core).regions = [] then writeHome s (.state core off) bs
  else (pieces 64 off bs.length).foldl (fun s (o, n) => writeStateLine s core st o ((bs.drop (o - off)).take n)) s

/-- The output ranges of a step's launch (R260). -/
def stepRanges (s : State) (st : Option StepCtx) : List (Nat × Nat) :=
  match st with
  | some x => outRanges (launchOf s x.lid)
  | none => []

def inRanges (rs : List (Nat × Nat)) (a : Nat) : Bool := rs.any fun (b, n) => b ≤ a && a < b + n

/-- Read scratch bytes in the view of a step: each byte it wrote and has not published comes from its shadow line (R260). -/
def readScratch (s : State) (st : Option StepCtx) (a n : Nat) : List Byte :=
  let bs := readHome s (.scratch a) n
  match st with
  | none => bs
  | some x => if x.shadow = [] then bs else (bs.zipIdx a).map fun (b, i) => tget b x.shadow i

/-- Let a touched parked sub-core go on at the group after its PARK, in the next clock, when its logged turn has come (R139, R297, R365). -/
def releaseWake (s : State) (k : Nat) (w : WaitEntry) : State :=
  let (o, s') := olOwner s w.cid 5 k w.addr
  let p := olPlace 5 k w.addr
  let d := olDec o.2.1 o.2.2.1 false
  if !olAllows s o.1 p d then s
  else
    let s1 := modCore (olDone s' o.1 p [d]) k fun c => { c with waits := c.waits.filter (· != w) }
    modCid s1 w.cid fun c => modEng c 0 fun x => if x.wait = some .parked then { x with wait := none, held := [], wakeAt := s.clock + 1 } else x

/-- Wake the sub-cores parked on an 8-byte word that a write touches (R139, R297). -/
def wakeOn (s : State) (a n : Nat) : State :=
  let k := a / 0x80_0000
  let ws := (coreOf s k).waits
  let hit := fun (w : WaitEntry) => w.addr < a + n && a < w.addr + 8
  if ws.any hit then
    let s1 := modCore s k fun c => { c with waits := c.waits.map fun w => if hit w then { w with woken := true } else w }
    (ws.filter hit).foldl (fun s w => releaseWake s k { w with woken := true }) s1
  else s

/-- Write scratch bytes at their home. -/
def writeScratchHome (s : State) (a : Nat) (bs : List Byte) : State := wakeOn (writeHome s (.scratch a) bs) a bs.length

/-- The sequencer's next group; for a parked sequencer, the group of its PARK, which ERET executes again (R237). -/
def resumeAt (x : EngCtx) : Nat :=
  match x.wait, x.held with
  | some .parked, (_, w) :: _ => w.toNat
  | _, _ => x.pc

/-- The group that a record's or a command's fault saves: the sequencer's next one (R333). -/
def recordTpc (s : State) (cid : Nat) : Option Nat := some (resumeAt (engOf (ctxOfCid s cid) 0))

/-- Give a step of any bank a terminal fault of engine `e` (R343, R344), at the group given or else where the engine stands. -/
def faultStep (s : State) (cid e : Nat) (c : Cause) (at_ : Option Nat := none) (tval : Word := 0#64) : State :=
  match findCtx s cid with
  | none => s
  | some (g, bank) =>
    let x := ctxAt s g bank
    let pc := at_.getD (engOf x e).pc
    if bank = 0 then
      match x.step with
      | some st => if st.ended then s else terminalTrap s g e c pc tval 0#16
      | none => terminalTrap s g e c pc tval 0#16
    else
      match x.step with
      | none => s
      | some st =>
        if st.ended then s
        else
          let f := (coreOf s (coreNo g)).fen
          let s1 := setCtxAt s g bank (endCtx { x with tr := { x.tr with
            tcause := tcauseWord 0#16 e x.pl.toNat false (causeCode c), tpc := BitVec.ofNat 64 pc, tval } })
          endLaunch (count (logTrap s1 f c e g pc (tget {} x.s 7).val) f cntTraps 1) st.lid 1 c g (itemWord x st)

/-- The number of distinct values of a rising list. -/
def distinct : List Nat → Nat
  | [] => 0
  | [_] => 1
  | a :: b :: r => (if a = b then 0 else 1) + distinct (b :: r)

/-- The number of unpublished shadow lines of a step (R260). -/
def shadowCount (st : StepCtx) : Nat := distinct (st.shadow.map (·.1 / 64))

/-- Runs of bytes whose mask bits are set, as (offset, length), from a list of bytes at an offset. -/
def maskRuns : Nat → List Byte → List (Nat × Nat)
  | _, [] => []
  | i, b :: r =>
    match maskRuns (i + 1) r with
    | (o, n) :: rest => if b ≠ 0#8 then (if o = i + 1 then (i, n + 1) :: rest else (i, 1) :: (o, n) :: rest) else (o, n) :: rest
    | [] => if b ≠ 0#8 then [(i, 1)] else []

/-- The runs of scratch bytes that a VST in the pipeline writes. -/
def Landing.storeRuns (l : Landing) : List (Nat × Nat) :=
  match l.access with
  | some { store := true, loc := .scratch a, .. } =>
    if l.whole then [(a, 2048)] else (maskRuns 0 (vecBytes l.mask)).map fun (o, n) => (a + o, n)
  | _ => []

/-- The runs of scratch bytes of a context's issued stores that have not performed. -/
def pendingStores (s : State) (cid : Nat) : List (Nat × Nat) :=
  (s.accs.filterMap fun a => if a.cid = cid then
    (match a.kind, a.loc with | .store, .scratch x => some (x, a.size) | _, _ => none) else none) ++
  (engOf (ctxOfCid s cid) 1).pipe.flatMap Landing.storeRuns

/-- A write of runs of scratch bytes, with the issued writes before it, would give the step a 1,025th unpublished line (R260). -/
def shadowOver (s : State) (cid : Nat) (runs : List (Nat × Nat)) : Bool :=
  match (ctxOfCid s cid).step with
  | none => false
  | some st =>
    let rs := stepRanges s (some st)
    let lines := fun (r : Nat × Nat) => (((List.range r.2).filter fun i => inRanges rs (r.1 + i)).map fun i => (r.1 + i) / 64).eraseDups
    let mine := runs.flatMap lines
    mine ≠ [] && 1024 < shadowCount st +
      ((((pendingStores s cid).flatMap lines ++ mine).eraseDups).filter fun x => !st.shadow.any fun p => p.1 / 64 == x).length

/-- Write scratch bytes in the view of a step: bytes of an output range go to shadow lines, the others to their home; a
1,025th line is SHADOWFULL (R260), of engine `e` at the group given. -/
def writeScratch (s : State) (cid : Nat) (a : Nat) (bs : List Byte) (e : Nat := 0) (at_ : Option Nat := none) : State :=
  let st := (ctxOfCid s cid).step
  let rs := stepRanges s st
  let hit := (List.range bs.length).any fun i => inRanges rs (a + i)
  if !hit then writeScratchHome s a bs
  else
    let marked := (bs.zipIdx a).filter fun (_, i) => inRanges rs i
    let whole := fun (l : Nat) => a ≤ 64 * l && 64 * l + 64 ≤ a + bs.length && (List.range 64).all fun i => inRanges rs (64 * l + i)
    let add := fun (x : StepCtx) => { x with shadow := marked.foldl (fun t (b, i) => tset t i b) x.shadow,
                                             shadowBad := x.shadowBad.filter fun l => !whole l }
    match st with
    | none => s
    | some x =>
      if shadowCount (add x) > 1024 then faultStep s cid e .shadowfull at_
      else
        let s1 := modCid s cid fun c => { c with step := c.step.map add }
        let home := readHome s1 (.scratch a) bs.length
        let keep := (bs.zipIdx a).zipWith (fun (b, i) o => if inRanges rs i then o else b) home
        let rest := (bs.zipIdx a).filter fun (_, i) => !inRanges rs i
        if rest = [] then s1 else rest.foldl (fun s (_, i) => wakeOn s i 1) (writeHome s1 (.scratch a) keep)

/-- Read bytes in the view of context `cid`. -/
def readView (s : State) (cid : Nat) (l : Loc) (n : Nat) : List Byte :=
  match l with
  | .scratch a => readScratch s (ctxOfCid s cid).step a n
  | .state k o => readState s k (ctxOfCid s cid).step o n
  | l => readHome s l n

/-- Engine `e` writes bytes in the view of context `cid`. -/
def writeView (s : State) (cid : Nat) (l : Loc) (bs : List Byte) (e : Nat := 0) (at_ : Option Nat := none) : State :=
  match l with
  | .scratch a => writeScratch s cid a bs e at_
  | .state k o => writeState s k (ctxOfCid s cid).step o bs
  | l => writeHome s l bs

/-- The home that a read of the view of `cid` reaches, for poison syndromes. -/
def viewLoc (s : State) (cid : Nat) (l : Loc) : Loc :=
  match l with
  | .state k o => .state k (viewOff (coreOf s k) (ctxOfCid s cid).step o)
  | l => l

/-- Bytes in the view of context `cid` come from a line that holds a poison syndrome: of the shadow line for a byte that the step has
marked, of the home for every other (R173, R198, R260, R273). -/
def badView (s : State) (cid : Nat) (l : Loc) (n : Nat) : Bool :=
  match l with
  | .scratch a =>
    match (ctxOfCid s cid).step with
    | none => poisoned s l n
    | some x =>
      if x.shadow = [] then poisoned s l n
      else (pieces 64 a n).any fun (o, m) =>
        let marked := fun (i : Nat) => x.shadow.any fun p => p.1 == o + i
        (((List.range m).any fun i => !marked i) && poisoned s (.scratch o) m) ||
          (((List.range m).any marked) && x.shadowBad.contains (o / 64))
  | .state k o => (pieces 64 o n).any fun (o, m) => poisoned s (viewLoc s cid (.state k o)) m
  | l => poisoned s l n

/-- Write a poison syndrome on a run within one line, in the view of context `cid`. -/
def poisonRun (s : State) (cid : Nat) (l : Loc) (n : Nat) : State :=
  match l with
  | .scratch a =>
    let rs := stepRanges s (ctxOfCid s cid).step
    let s1 := if (List.range n).any (fun i => !inRanges rs (a + i)) then poisonLines s l n else s
    let mark := fun (x : StepCtx) =>
      if x.shadow.any (fun p => p.1 / 64 == a / 64) && !x.shadowBad.contains (a / 64) then { x with shadowBad := x.shadowBad ++ [a / 64] }
      else x
    if (List.range n).any (fun i => inRanges rs (a + i)) then modCid s1 cid fun c => { c with step := c.step.map mark } else s1
  | l => poisonLines s (viewLoc s cid l) n

/-- A place moved on by `d` bytes. -/
def Loc.plus (l : Loc) (d : Nat) : Loc :=
  match l with
  | .scratch a => .scratch (a + d)
  | .state k o => .state k (o + d)
  | .plane k p o => .plane k p (o + d)
  | .phys a => .phys (a + d)

/-- Engine `e` writes bytes in the view of context `cid`, with a poison syndrome on every line that they touch (R173, R198). -/
def writeBad (s : State) (cid : Nat) (l : Loc) (bs : List Byte) (e : Nat := 0) (at_ : Option Nat := none) : State :=
  (pieces 64 l.key bs.length).foldl (fun s (a, m) => poisonRun s cid (l.plus (a - l.key)) m) (writeView s cid l bs e at_)

/-! ### Publishing (R133, R273) -/

/-- Publish the selected shadow destinations of a step in one act: marked bytes go home, region halves swap. A byte whose slice no longer
answers the fen, since its core has been scrubbed, gets an error response: its bytes are dropped, and each line of them writes a
violation record (R309, R374; DESIGN CHOICE, log 99). -/
def publish (s : State) (g cid : Nat) (mask : Nat) : State :=
  match (ctxOfCid s cid).step with
  | none => s
  | some st =>
    let l := launchOf s st.lid
    let outs := outRanges l
    let sel := (outs.zipIdx).filterMap fun (r, i) => if bitAt mask i then some r else none
    let (go, stay) := st.shadow.partition fun (a, _) => inRanges sel a
    let held := (coreOf s (coreNo g)).regions.filter fun r => holds (some st) r && bitAt mask (outs.length + r.j)
    let any := sel ≠ [] || held ≠ []
    let bad := st.shadowBad.filter fun l => stay.any fun p => p.1 / 64 == l
    let s1 := modCid s cid fun c => { c with step := c.step.map fun x =>
      { x with shadow := stay, shadowBad := bad, published := x.published || any } }
    let (go, lost) := go.partition fun (a, _) => inFen s l.fen (a / 0x80_0000)
    let lines := (go.map fun (a, _) => a / 64 * 64).eraseDups
    let s1 := ((lost.map fun (a, _) => a / 64 * 64).eraseDups).foldl (fun s a => logViolation s l.fen 0 a 3 0 1 g) s1
    let s2 := lines.foldl (fun s a =>
      let (o, s) := olOwner s cid 6 (a / 0x80_0000) a
      olDone s o.1 (olPlace 6 (a / 0x80_0000) a) [olDec o.2.1 o.2.2.1 false]) s1
    let s3 := go.foldl (fun s (a, b) => writeScratchHome s a [b]) s2
    let s3 := (lines.filter fun a => st.shadowBad.contains (a / 64)).foldl (fun s a => poisonLines s (.scratch a) 64) s3
    held.foldl (fun s r => modRegion s (coreNo g) r.off fun r =>
      { r with act := r.dirty.foldl flip r.act, dirty := [] }) s3

/-- All shadow destinations (PUBL s0). -/
def publishAll : Nat := 2 ^ 64 - 1

/-! ### Atomics (R128) -/

/-- A number below 2^w as a signed integer. -/
def toSigned (w x : Nat) : Int := if x < 2 ^ (w - 1) then x else (x : Int) - 2 ^ w

/-- The new value of an atomic or reduction of `size` bytes, op as R48 numbers them. -/
def amoNew (op size old v expect : Nat) : Nat :=
  let w := 8 * size
  match op with
  | 0 => (old + v) % 2 ^ w
  | 1 => old &&& v
  | 2 => old ||| v
  | 3 => old ^^^ v
  | 4 => if toSigned w v < toSigned w old then v else old
  | 5 => if toSigned w old < toSigned w v then v else old
  | 6 => min old v
  | 7 => max old v
  | 8 => v
  | 9 => if old = expect then v else old
  | _ => f32Add old v

/-- Two runs of bytes touch. -/
def overlaps (l1 : Loc) (n1 : Nat) (l2 : Loc) (n2 : Nat) : Bool := l1.key < l2.key + n2 && l2.key < l1.key + n1

/-! ### Accesses as packets (R349 to R353) -/

/-- Bytes of data that an access carries as flits: a load carries none (R349). -/
def Access.flits (a : Access) : Nat := match a.kind with | .load _ => 0 | _ => 1

/-- An access has a response: a value, or the completion that its token posts (R352). -/
def Access.answered (a : Access) : Bool := match a.kind with | .load _ | .amo _ => true | _ => a.token.isSome

/-- An access leaves its core as a request packet. -/
def launchPacket (s : State) (a : Access) : State := request s a.g a.cls (agentOf a.loc) a.flits a.answered (.access a.id)

/-- An access that needs a packet and has not left its core. -/
def Access.waiting (s : State) (a : Access) : Bool :=
  !isLocal (coreNo a.g) a.loc && !a.rests && !(s.mesh.any fun p => p.job == .access a.id)

/-- What an access follows, seen through the accesses of its own core that need no packet. -/
def followed (s : State) (k : Nat) : Nat → List Nat → List Nat
  | 0, ids => ids
  | n + 1, ids => ids ++ followed s k n (((s.accs.filter fun b => ids.contains b.id && isLocal k b.loc).flatMap (·.after)).filter (!ids.contains ·))

/-- A packet leaves its core after the packets of what its access follows: each stream is numbered in program order, so an access held
against an absent page, and one that waits for a credit, keep those behind them in the core (R303, R325, R353). -/
def mayLeave (s : State) (a : Access) : Bool :=
  let ids := followed s (coreNo a.g) 4 a.after
  a.held.isNone && !noCredit s (coreNo a.g) a.loc && !(s.accs.any fun b => ids.contains b.id && (b.held.isSome || b.waiting s)) &&
  !((coreOf s (coreNo a.g)).comb.any fun e => ids.contains e.id)

/-- Put an access in flight. A home in the core needs no packet; a request that may not leave yet waits in the core. -/
def inject (s : State) (a : Access) : State :=
  let k := coreNo a.g
  if isLocal k a.loc then
    let (d, s) := draw s
    { s with accs := s.accs ++ [{ a with due := s.clock + d, agent := agentOf a.loc }] }
  else
    let s := { s with accs := s.accs ++ [{ a with agent := agentOf a.loc }] }
    if mayLeave s a then launchPacket s a else s

/-- Requests that wait in their cores leave, oldest first, as credits allow (R352). -/
def injectWaiting (s : State) : State :=
  (s.accs.filter (·.waiting s)).foldl (fun s a => if mayLeave s a then launchPacket s a else s) s

/-- The packet of an access has reached its receive agent and is the next of its stream (R353); a home in the core needs none. -/
def arrivedNext (s : State) (a : Access) : Bool :=
  isLocal (coreNo a.g) a.loc || s.mesh.any fun p => p.job == .access a.id && p.place == .arrived && nextInStream s p

/-! ### The combining buffer (R129) -/

/-- A started launch of a fen takes its choices at places of this tag from the log (R363, R365). -/
def replaysTag (s : State) (fen tag : Nat) : Bool :=
  s.queues.any fun (_, q) => q.launches.any fun l => l.fen == fen && l.tag == tag && l.olmode == 2#2 && l.st == .started

/-- In replay a resting entry is flushed only when no contribution to its key, of any launch that replays, is listed next into it; in any
other mode always (R365; of several launches' lists, every one counts: log 122). -/
def flushable (s : State) (k : Nat) (e : CombEntry) : Bool :=
  let f := (coreOf s k).fen
  let p := olPlace 2 k e.owner.2.2.2 e.cls e.op e.size
  (fenOf s f).ol.places.all fun x =>
    !x.same { p with tag := x.tag } || !replaysTag s f x.tag || (match x.decs with | d :: _ => bitAt d.toNat 63 | [] => true)

/-- An entry leaves its buffer as an access of kind red, in the stream of the sub-core that allocated it (R353; DEDUCED, log 116). -/
def sendRed (s : State) (e : CombEntry) : State :=
  inject s { id := e.id, g := e.g, cid := e.contributors.headD 0, kind := .red e.op, cls := e.cls, loc := e.loc, size := e.size,
             data := e.operand, after := e.after, owner := e.owner, contrib := e.contributors, via := e.via, pages := e.pages }

/-- Flush the resting entries of core `k` that `p` selects; one that the order log still holds leaves when it may (R129, R365).
Answers the ids of their applications. -/
def flushComb (s : State) (k : Nat) (p : CombEntry → Bool) : List Nat × State :=
  let out := (coreOf s k).comb.filter p
  if out = [] then ([], s)
  else
    let mark := fun (e : CombEntry) => if p e then { e with leave := true } else e
    let s1 := modCore s k fun c => { c with comb := (c.comb.filter fun e => !(p e && flushable s k e)).map mark }
    (out.map (·.id), (out.filter (flushable s k)).foldl sendRed s1)

/-- Entries of a core that were to leave, and that the order log has meanwhile let go, leave (R365). -/
def leaveComb (s : State) (k : Nat) : State := (flushComb s k (·.leave)).2

/-- Flush the entries that an access of core `k` touches (R129): the access performs after them. -/
def flushTouched (s : State) (k : Nat) (l : Loc) (n : Nat) : List Nat × State :=
  flushComb s k fun e => overlaps e.loc e.size l n

/-! ### Issue of sequencer accesses (R303) -/

/-- Access `a` is a load. -/
def Access.isLoad (a : Access) : Bool := match a.kind with | .load _ => true | _ => false
def Access.isRed (a : Access) : Bool := match a.kind with | .red _ => true | _ => false

/-- The accesses in flight of a context in a class, reductions left out (R303 case 1). Accesses of the two contexts of a sub-core, before
and after a swap, are not ordered with each other (DESIGN CHOICE, log 93). -/
def sameClass (s : State) (cid cls : Nat) : List Access := s.accs.filter fun a => a.cid == cid && a.cls == cls && !a.isRed

/-- The accesses that precede a new access of the executing group (R127, R303 cases 1 and 2). A group's loads are issued before
its other words, so a load never follows a write of its own group. -/
def precedes (s : State) (cid cls : Nat) (load : Bool) (l : Loc) (n : Nat) : List Nat :=
  let group := if load then [] else s.accs.filter fun a => s.cur.made.contains a.id && (a.isLoad || overlaps a.loc a.size l n)
  ((sameClass s cid cls ++ group).map (·.id)).eraseDups

/-- The 64-bit value of `n` loaded bytes (R121). -/
def loadValue (signed : Bool) (bs : List Byte) : Word :=
  if signed then sext64 (8 * bs.length) (leNat bs) else BitVec.ofNat 64 (leNat bs)

/-- What a load of a context reads now: its value, or MEMERR poison of a line with a syndrome (R337). -/
def loadNow (s : State) (cid : Nat) (l : Loc) (n : Nat) (signed : Bool) : Val × State :=
  let s := match l with | .state k o => touchBanks s k o n | _ => s
  if badView s cid l n then freePoison s .memerr else (⟨loadValue signed (readView s cid l n), none⟩, s)

/-- The page of a handle-table entry: base, size and physical address; none for entry 0. -/
def handlePage (s : State) (fen i : Nat) : List (Nat × Nat × Nat) :=
  if i = 0 then [] else let e := hentry s fen i; [(e.base, e.size, e.pa)]

/-- Issue a sequencer access with a place: it follows what R303 orders before it and the reductions it flushed. -/
def issueAccess (s : State) (a : Access) : Nat × State :=
  let (fl, s) := flushTouched s (coreNo s.cur.g) a.loc a.size
  let (id, s) := freshId s
  let c := curCtx s
  let pre := precedes s c.cid a.cls a.isLoad a.loc a.size
  let s := inject s { a with id, g := s.cur.g, cid := c.cid, after := pre ++ fl, level := c.pl.toNat, grp := (curEng s).grp,
                             pages := handlePage s (curFen s) a.hidx }
  let s := if isLocal (coreNo s.cur.g) a.loc then useBanks s a.loc a.size else s
  (id, { s with cur := { s.cur with made := s.cur.made ++ [id] } })

/-- A scratch or state load without a token (R124): it reads in its issue clock when its home is in the core and nothing
holds it, else it goes in flight and the result waits for it. -/
def issueLoad (s : State) (lat cls : Nat) (l : Loc) (n : Nat) (signed : Bool) (d : Dest) : State :=
  let k := coreNo s.cur.g
  let c := curCtx s
  let free := isLocal k l && precedes s c.cid cls true l n = [] && !(coreOf s k).comb.any fun e => overlaps e.loc e.size l n
  if free then
    let (v, s) := loadNow s c.cid l n signed
    land (useBanks s l n) lat d v
  else
    let (id, s) := issueAccess s { id := 0, g := 0, cid := 0, kind := .load signed, cls, loc := l, size := n, dest := d }
    landIn s { left := lat, dest := d, val := .word 0#64, awaits := some id }

/-! ### Performing an access (R301, R353) -/

/-- An access has reached its home with everything that it follows performed, and is not held at its check point. -/
def atHome (s : State) (a : Access) : Bool :=
  !(s.accs.any fun b => a.after.contains b.id) && !((coreOf s (coreNo a.g)).comb.any fun e => a.after.contains e.id) &&
  a.held.isNone && s.clock ≥ a.due && arrivedNext s a && !a.rests

/-- Fen of an access. -/
def Access.fen (s : State) (a : Access) : Nat := (coreOf s (coreNo a.g)).fen

/-- The regulator class of an access. -/
def Access.regulClass (a : Access) : Nat := if a.isLoad then 0 else 1

/-- A memory channel's regulator holds an access: its peak bucket, or an earlier request of its queue (R380). -/
def heldByBucket (s : State) (a : Access) : Bool :=
  match a.loc with
  | .phys pa => !regulOk s (a.fen s) a.regulClass pa a.size (8 * a.id)
  | _ => false

/-- An access performs: it is at its home, no bucket holds it, and in replay it is its turn (R365, R380). -/
def canPerform (s : State) (a : Access) : Bool :=
  atHome s a && !heldByBucket s a &&
  (match a.kind with
   | .amo _ | .red _ => olAllows s a.owner.1 (olPlace 1 (if a.agent < 96 then a.agent else 0xFF) a.owner.2.2.2) (olDec a.owner.2.1 a.owner.2.2.1 false)
   | _ => true)

/-- The class in which an access returns a value (R130). -/
def Access.returns (a : Access) : Option Nat := match a.kind with | .load _ | .amo _ => some a.cls | _ => none

/-- The result of a load or atomic sets out for its destination, the waiting pipeline entry or a token-posting completion: at once from a
home in the core, else in a response packet (R349, R357). -/
def deliver (s : State) (a : Access) (v : Val) (st : BitVec 32) : State :=
  let far := !isLocal (coreNo a.g) a.loc
  match a.token with
  | some t =>
    let (d, s) := draw s
    let p : Posted := { id := a.id, cid := a.cid, dest := a.dest, val := v.w, poison := v.p, token := some t, status := st,
                        due := s.clock + d, cls := a.returns, grp := a.grp }
    if far then sendReply s a.agent a.g a.cls (bnat a.returns.isSome) (.post p) d else { s with posted := s.posted ++ [p] }
  | none =>
    if far then sendReply s a.agent a.g a.cls 1 (.fill a.cid a.id a.cls v.w v.p) 0 else fillLoad s a.cid a.id v.w v.p

/-- An access performs at its home. A CAS of 4 bytes compares with the low 4 bytes of read(sv + 1) (DEDUCED, log 94). -/
def performAccess (s : State) (a : Access) : State :=
  let bytes := fun (n : Nat) => leBytes a.size n
  match a.kind with
  | .load signed =>
    let (v, s) := loadNow s a.cid a.loc a.size signed
    deliver s a v 0#32
  | .store =>
    let s := writeView s a.cid a.loc (bytes a.data.toNat)
    if a.token.isSome then deliver s a ⟨0#64, none⟩ 0#32 else s
  | .amo op | .red op =>
    let old := leNat (readHome s a.loc a.size)
    let bad := poisoned s a.loc a.size
    let new := amoNew op a.size old (a.data.toNat % 2 ^ (8 * a.size)) (a.expect.toNat % 2 ^ (8 * a.size))
    let s := if bad then s else match a.loc with
      | .scratch x => writeScratchHome s x (bytes new)
      | l => writeHome s l (bytes new)
    let s := olDone s a.owner.1 (olPlace 1 (if a.agent < 96 then a.agent else 0xFF) a.owner.2.2.2) [olDec a.owner.2.1 a.owner.2.2.1 false]
    match a.kind with
    | .amo _ =>
      let (v, s) := if bad then freePoison s .memerr else (⟨BitVec.ofNat 64 old, none⟩, s)
      deliver s a v 0#32
    | _ => s

/-- KIND of an access in a violation record (Table 18.5). -/
def Access.logKind (a : Access) : Nat := match a.kind with | .load _ => 0 | .store => 1 | _ => 2

/-- An access in flight receives an error response: its record is written; a value comes back poisoned with MEMERR, and a store or a
reduction is discarded and remembered by its class (R123, R323). -/
def refuse (s : State) (a : Access) (space addr reason : Nat) : State :=
  let s := { s with accs := s.accs.filter (·.id != a.id) }
  let s := logViolation s (a.fen s) space addr reason 0 a.logKind a.g
  match a.kind with
  | .load _ | .amo _ => let (v, s) := freePoison s .memerr; deliver s a v stErr
  | .store => let s := storeError s a.cid a.cls; if a.token.isSome then deliver s a ⟨0#64, none⟩ stErr else s
  | .red _ => (if a.contrib = [] then [a.cid] else a.contrib).foldl (fun s c => storeError s c a.cls) s

/-- The virtual address of an access that went through a handle. -/
def Access.va (a : Access) : Nat :=
  match a.loc, a.pages with | .phys pa, (base, _, p) :: _ => base + (pa - p) | _, _ => 0

/-- Take an access out of flight and perform it, or answer it with the error of the host's completer (REASON 8). Its credit goes back when
its packet leaves the receive agent (R352). -/
def applyAccess (s : State) (a : Access) : State :=
  if hostRefuses s a.loc a.size then refuse s a 2 a.va 8
  else
    let s := { s with accs := s.accs.filter (·.id != a.id) }
    let s := match a.loc with | .phys pa => regulTake s (a.fen s) a.regulClass (coreNo a.g) pa a.size (8 * a.id) | _ => s
    performAccess s a

/-! ### Fences (R130) -/

/-- The host link has accepted an access behind every earlier access of its class: at PKG scope it has performed (R304). -/
def linkAccepted (s : State) (a : Access) : Bool :=
  a.agent == 144 && s.mesh.any fun p => p.job == .access a.id && p.place == .arrived &&
    !((s.mesh.takeWhile (·.id != p.id)).any fun q =>
      q.kind == .request && q.g == p.g && q.cls == p.cls && q.agent == p.agent && q.place != .arrived)

/-- No access of a context in the classes of a mask, and no reduction that it contributed to, is resting or in flight. -/
def classesPerformed (s : State) (g cid : Nat) (mask : BitVec 16) : Bool :=
  !(s.accs.any fun a => classBit mask a.cls && (if a.isRed then a.contrib.contains cid else a.cid == cid)) &&
  !((coreOf s (coreNo g)).comb.any fun e => classBit mask e.cls && e.contributors.contains cid)

/-- The same at a scope, 4 for SYS: below SYS, an access of host memory that the link has accepted has performed (R304, R311). -/
def performedAt (s : State) (scope g cid : Nat) (mask : BitVec 16) : Bool :=
  classesPerformed (if scope = 4 then s else { s with accs := s.accs.filter fun a => !linkAccepted s a }) g cid mask

/-- Earlier loads and atomics of a context in the classes of a mask have returned their values (R130): each has performed, and one
with a token has landed. A value that a fixed-latency load has read, and that is still in the exposed pipeline, counts as returned
(DESIGN CHOICE, log 95). -/
def classesReturned (s : State) (cid : Nat) (mask : BitVec 16) : Bool :=
  !(s.accs.any fun a => a.cid == cid && classBit mask a.cls && a.returns.isSome) &&
  !((results s).any fun p => p.cid == cid && p.cls.any (classBit mask)) &&
  !(s.mesh.any fun p => match p.job with | .fill c _ cls _ _ => c == cid && classBit mask cls | _ => false)

/-- Flush what a context contributed to in the classes of a mask (R129, R130). -/
def flushMine (s : State) (g cid : Nat) (mask : BitVec 16) : State :=
  (flushComb s (coreNo g) fun e => classBit mask e.cls && e.contributors.contains cid).2

/-! ### Contributions (R129, R307, R365) -/

/-- Merge a contribution into a resting entry (R129): integer operations wrap, FADD follows R88. -/
def mergeRed (op size old v : Nat) : Word := BitVec.ofNat 64 (amoNew op size old v 0)

/-- Merge into a resting entry, or allocate one, for context `cid`. `pre` are the accesses that its application follows (R307). -/
def restEntry (s : State) (k cid : Nat) (e : CombEntry) (pre : List Nat) : State :=
  let twin := fun (x : CombEntry) => x.size == e.size && x.op == e.op && x.loc == e.loc && x.cls == e.cls
  let join := fun (x : CombEntry) =>
    if twin x then
      let cs := if x.contributors.contains cid then x.contributors else x.contributors ++ [cid]
      { x with operand := mergeRed x.op x.size x.operand.toNat e.operand.toNat, contributors := cs, after := (x.after ++ pre).eraseDups,
               via := (x.via ++ e.via).eraseDups, pages := (x.pages ++ e.pages).eraseDups }
    else x
  if (coreOf s k).comb.any twin then modCore s k fun c => { c with comb := c.comb.map join }
  else modCore s k fun c => { c with comb := c.comb ++ [e] }

/-- Core of the place of an applied operation in the order log (Table 21.6). -/
def applyCore (l : Loc) : Nat := if agentOf l < 96 then agentOf l else 0xFF

/-- The key of a contribution, as the order log counts operations at it. -/
def redKey (op cls size k : Nat) : Nat := ((cls * 16 + op) * 16 + size) * 128 + k

/-- A contribution reaches the combining buffer of core `k` (R129, R307, R365): `m` is its launch, item, ORD and PLACE, `pre` what its
entry's application follows, `hidx` the handle-table index it went through. None while the log holds it, or while an entry that must
leave cannot. An entry whose bytes it overlaps leaves, and the entry that it allocates applies after that one, but for entries of a place
whose order the log lists (DEDUCED, log 115). -/
def contribute (s : State) (k g cid : Nat) (m : Nat × Nat × Nat × Nat) (op cls size : Nat) (l : Loc) (v : Word) (hidx : Nat)
    (pre : List Nat) : Option State :=
  let twin := fun (x : CombEntry) => x.size == size && x.op == op && x.loc == l && x.cls == cls
  let rests := (coreOf s k).comb.any twin
  let p := olPlace 2 k m.2.2.2 cls op size
  let ln := launchOf s m.1
  let listed := ln.olmode == 2#2 && m.1 ≠ 0 && !((fenOf s ln.fen).ol.places.filter (·.same { p with tag := ln.tag })).isEmpty
  let allocs := (listed && olAllows s m.1 p (olDec m.2.1 m.2.2.1 true)) || !rests
  let d := olDec m.2.1 m.2.2.1 allocs
  let hits := fun (x : CombEntry) => if twin x then allocs && rests else !(rests && !allocs) && overlaps x.loc x.size l size
  let full := (coreOf s k).comb.length ≥ 64 && allocs && !(coreOf s k).comb.any hits
  let oldest := ((coreOf s k).comb.find? fun x => flushable s k x).toList
  if !olAllows s m.1 p d || (listed && !allocs && !rests) || (full && oldest.isEmpty) ||
     ((coreOf s k).comb.any fun x => hits x && !flushable s k x) then none
  else
    let fl := ((coreOf s k).comb.filter fun x => hits x && !(listed && x.owner.2.2.2 == m.2.2.2)).map (·.id)
    let (_, s) := flushComb s k hits
    let (_, s) := flushComb s k fun x => full && oldest.contains x
    let s := olDone s m.1 p [d]
    let (o, s) := if allocs then olOwner s cid 1 (applyCore l) m.2.2.2 else ((0, 0, 0, m.2.2.2), s)
    let (id, s) := freshId s
    let via := if hidx = 0 then [] else [(cid, hidx)]
    let pre := (pre ++ fl).eraseDups
    let joins := ((coreOf s k).comb.filter fun x => twin x && !x.contributors.contains cid).map (·.id)
    let s := { s with cur := { s.cur with joined := s.cur.joined ++ joins } }
    some (restEntry s k cid { id, g, size, op, loc := l, cls, operand := BitVec.ofNat 64 (v.toNat % 2 ^ (8 * size)), contributors := [cid],
                              after := pre, owner := o, via, pages := handlePage s (coreOf s k).fen hidx } pre)

/-- A held REDH whose check has passed reaches the combining buffer, or waits until it can (R129, R328). -/
def restHeld (s : State) (a : Access) : State :=
  let op := match a.kind with | .red op => op | _ => 0
  match contribute { s with accs := s.accs.filter (·.id != a.id) } (coreNo a.g) a.g a.cid a.owner op a.cls a.size a.loc a.data a.hidx a.after with
  | some t => t
  | none => { s with accs := s.accs.map fun x => if x.id = a.id then { a with rests := true } else x }

/-- Held reductions that waited for the log try again. -/
def restAgain (s : State) : State := (s.accs.filter (·.rests)).foldl restHeld s

end Sys2Proof.Machine
end

