-- ==== Sys2Proof/Machine/Waits.lean ====
section
/-! DEFINITION. Waits (R237): what each does when it starts and when it ends; gangs (R257, R218) and the conditions of WDONE
(R219). -/

namespace Sys2Proof.Machine
open Sys2Proof

/-! ### Items and gangs -/

/-- EXTENT of field j + 1 of a record (R253). -/
def fieldExtent (l : Launch) (j : Nat) : Nat := fieldLE l.lnr (0x40 + 8 * j) 4
/-- NF of a record. -/
def fieldCount (l : Launch) : Nat := fieldLE l.lnr 0x02 1
/-- Items below one value of field `level` (R256). -/
def blockOf (l : Launch) (level : Nat) : Nat :=
  ((List.range (fieldCount l)).filter (level ≤ ·)).foldl (fun a j => a * fieldExtent l j) 1
/-- The item count of a launch (R256). -/
def itemCount (l : Launch) : Nat := blockOf l 0
/-- The items of the gang of item n at a level (R257). -/
def gangItems (l : Launch) (level n : Nat) : List Nat :=
  let b := blockOf l level
  if b = 0 then [n] else (List.range b).map (n / b * b + ·)
/-- GANG bit of a level (Table 12.1). -/
def isGangLevel (l : Launch) (level : Nat) : Bool := 1 ≤ level && level ≤ 6 && bitAt (fieldLE l.lnr 0x04 1) (level - 1)

/-- Every context that runs an item of a launch: sub-core, bank, context. -/
def contextsOf (s : State) (lid : Nat) : List (Nat × Nat × Ctx) :=
  s.subs.flatMap fun (g, _) =>
    let b := subOf s g
    let ok := fun (c : Ctx) => match c.step with | some st => st.lid == lid | none => false
    (if ok b.act then [(g, 0, b.act)] else []) ++ (if ok b.shd then [(g, 1, b.shd)] else []) ++
    (match b.spilled with | some c => if ok c then [(g, 2, c)] else [] | none => [])

/-! ### The wait of each instruction -/

/-- A member of a gang has met episode k at a level: it ended, passed the barrier, or has arrived with its full fence at PKG scope met: its
accesses have performed and its loads returned (R130, R218). -/
def memberMet (s : State) (l : Launch) (level k n : Nat) : Bool :=
  l.doneItems.contains n ||
  (contextsOf s l.lid).any fun (g, _, c) =>
    match c.step with
    | some st => st.item == n && (k ≤ tget 0 st.episodes level ||
        (k == tget 0 st.episodes level + 1 && st.arrived == some level && performedAt s 3 g c.cid (BitVec.allOnes 16) &&
          classesReturned s c.cid (BitVec.allOnes 16)))
    | none => false

/-- A WBAR's episode is met (R218). -/
def wbarMet (s : State) (g level : Nat) : Bool :=
  let c := ctxOf s g
  match c.step with
  | none => true
  | some st =>
    let l := launchOf s st.lid
    st.arrived == some level && (gangItems l level st.item).all (memberMet s l level (tget 0 st.episodes level + 1))

/-- Records of a context and engine that have not completed. -/
def xfersOf (s : State) (cid e : Nat) : List Xfer := s.xfers.filter fun x => x.cid == cid && x.eng == e

/-- Position of the slot of a fed ring that holds address `a`, at or after the one that its engine reads next (R294). -/
def slotPos (r : Ring) (a : Nat) : Nat :=
  let c := max 1 r.count.toNat
  let h := r.pos
  h + ((a - r.base.toNat) / 16 % c + c - h % c) % c

/-- The slot of a fed ring from which the executing engine takes a record (R294). -/
def recordSlot (s : State) : Option Nat :=
  let r := ringOf s (curCore s) (engRing s.cur.g s.cur.e)
  if r.kind = 3#2 then some (slotPos r s.cur.grp) else none

/-- Slots of an engine's ring whose records have been taken and have not begun. -/
def slotsHeld (s : State) (g e : Nat) : List Nat :=
  let cid := (ctxOf s g).cid
  let c := coreOf s (coreNo g)
  if e = 4 then (c.mcmds ++ c.scmds).filterMap fun m => if m.cid = cid && !m.begun then m.slot else none
  else (xfersOf s cid e).filterMap fun x => if x.begun then none else x.slot

/-- Head of a fed ring advances past what its engine has read, and not past a record that has not begun (R294). -/
def settleHead (s : State) (g e : Nat) : State :=
  let k := coreNo g
  let b := engRing g e
  let r := ringOf s k b
  if r.kind ≠ 3#2 then s
  else
    let h := max r.head.toNat ((slotsHeld s g e).foldl min r.pos)
    if h = r.head.toNat then s
    else setRing s k b { r with head := BitVec.ofNat 64 h, extSlots := r.extSlots.filter (fun (q, _) => h ≤ q),
                                ready := r.ready.filter (fun (q, _) => h ≤ q), relAt := r.relAt.filter fun (q, _) => h ≤ q }

/-- An engine has executed ESTOP, or waits at an empty fed ring, and its exposed pipelines are empty (R219). -/
def engineDone (s : State) (g e : Nat) : Bool :=
  let x := engOf (ctxOf s g) e
  let r := ringOf s (coreNo g) (engRing g e)
  (x.stopped || (r.kind == 3#2 && r.pos == r.tail.toNat && x.wait.isNone)) && x.pipe == []

/-- Every access, record, command and FRM command of a context has completed (R219). -/
def workDone (s : State) (g cid : Nat) : Bool :=
  classesPerformed s g cid (BitVec.allOnes 16) &&
  !((results s).any (·.cid == cid)) && !(s.walks.any fun w => w.cid == cid && w.dest != .none) && !(s.frms.any (·.cid == cid)) &&
  !(s.xfers.any (·.cid == cid)) &&
  !((coreOf s (coreNo g)).mcmds.any (·.cid == cid)) && !((coreOf s (coreNo g)).scmds.any (·.cid == cid))

/-- The state without the operations that the executing group itself has issued, its contributions to resting reductions among them (R218,
R219; DEDUCED, log 59). -/
def beforeGroup (s : State) : State :=
  let m := s.cur.mark
  let cid := (curCtx s).cid
  let own := fun (e : CombEntry) =>
    if s.cur.joined.contains e.id then { e with contributors := e.contributors.filter (· != cid) } else e
  if m = 0 then s
  else modCore { s with accs := s.accs.filter (·.id < m), posted := s.posted.filter (·.id < m), walks := s.walks.filter (·.id < m),
                        frms := s.frms.filter (·.id < m) } (curCore s)
         fun c => { c with comb := (c.comb.filter (·.id < m)).map own }

/-- SWAPX's condition (R342): no spill or fill is in progress, or, in a service context, everything that it issued has completed. -/
def swapxMet (s : State) (g : Nat) : Bool :=
  let b := subOf s g
  if b.act.svc then workDone s g b.act.cid else b.shb == 0#2 || b.shb == 1#2

/-- WDONE's condition (R219). -/
def wdoneMet (s : State) (g : Nat) : Bool := [1, 2, 3, 4].all (engineDone s g) && workDone s g (ctxOf s g).cid

/-- The phase byte of a position of a program ring (R136). -/
def phaseByte (s : State) (r : Ring) (p : Nat) : Byte :=
  (readHome s (.scratch (r.phase.toNat + p % max 1 r.count.toNat)) 1).headD 0#8

/-- The phase that a committed position has (R136). -/
def phaseOf (r : Ring) (p : Nat) : Byte := BitVec.ofNat 8 (p / max 1 r.count.toNat + 1)

/-- The positions of a program ring are in order (R291). A ring function that waits ends its wait when they are not, and traps. -/
def ringOrder (r : Ring) : Bool :=
  r.head.toNat ≤ r.tail.toNat && r.tail.toNat ≤ r.claim.toNat && r.claim.toNat ≤ r.head.toNat + r.count.toNat

/-- RWAITF's condition (Table 15.5). -/
def rwaitfMet (s : State) (r : Ring) (p : Word) : Bool :=
  p.toNat < r.head.toNat || (p.toNat < r.claim.toNat && phaseByte s r p.toNat == phaseOf r p.toNat)

/-- RWAITE's condition (Table 15.5). -/
def rwaiteMet (r : Ring) (p : Word) : Bool := p.toNat < r.head.toNat + r.count.toNat

/-- RCLAIM's condition (Table 5.9). -/
def rclaimMet (r : Ring) (n : Word) : Bool := r.claim.toNat + n.toNat ≤ r.head.toNat + r.count.toNat

/-- Launches that a launch queue can hold; the spec gives a queue no length (log 25). -/
def queueRoom : Nat := 4096

/-! ### What a record touches (R197 to R201) -/

/-- Transform, and codebook bank, of an FXFM or CBLOAD record (R55). -/
def Xfer.xf (x : Xfer) : Nat := bits x.r.variant.toNat 0 3
def Xfer.bank (x : Xfer) : Nat := bits x.r.variant.toNat 3 1
def Xfer.isFxfm (x : Xfer) : Bool := x.eng == 2 && x.major == 0x42
def Xfer.isCbload (x : Xfer) : Bool := x.eng == 2 && x.major == 0x43
def Xfer.isGather (x : Xfer) : Bool := x.eng == 2 && x.major == 0x41
def Xfer.isScatter (x : Xfer) : Bool := x.eng == 3 && x.major == 0x41
def Xfer.isReduce (x : Xfer) : Bool := x.eng == 3 && x.major == 0x42
def Xfer.isMcast (x : Xfer) : Bool := x.eng == 3 && x.major == 0x43
def Xfer.isCrc (x : Xfer) : Bool := x.major == 0x44
/-- Bytes of an element of the record's type. -/
def Xfer.w (x : Xfer) : Nat := typeBytes x.r.typ.toNat
/-- Bytes of the source stream. -/
def Xfer.total (x : Xfer) : Nat := x.rows * x.len

/-- Destination bytes of `n` source bytes (Table 8.3). -/
def Xfer.outBytes (s : State) (x : Xfer) (n : Nat) : Nat :=
  if x.isFxfm then
    match x.xf with
    | 0 => n * 2 * typeBytes (tget {} (ctxOfCid s x.cid).cb x.bank).typ.toNat
    | 1 => n * 4 / x.w
    | _ => n * x.w / 4
  else n

/-- Index of an all-ones entry of an index list (R200). -/
def Xfer.allOnes (x : Xfer) : Nat := 2 ^ (8 * x.w) - 1

/-- Offset of source row `i` from opA; none for a row that reads nothing. -/
def Xfer.srcRow (x : Xfer) (i : Nat) : Option Nat :=
  if x.isGather then
    match nth none x.idx i with
    | some k => if k = x.allOnes then none else some (k * x.strideA)
    | none => none
  else some (i * x.strideA)

/-- Offset of destination row `i` from opB; none for a row that is discarded. -/
def Xfer.dstRow (x : Xfer) (i : Nat) : Option Nat :=
  if x.isScatter then
    match nth none x.idx i with
    | some k => if k = x.allOnes then none else some (k * x.strideB)
    | none => none
  else some (i * x.strideB)

/-- The place of `n` bytes at `off` of an operand, where it is one; a handle is checked with `kind` (R321). -/
def placeOf (s : State) (x : Xfer) (w : BitVec 32) (hv : Word) (off n kind : Nat) : Option Loc :=
  let k := coreNo x.g
  match Operand.ofWord w with
  | .scratch a => some (.scratch (a + off))
  | .core 0 o => some (.state k (o + off))
  | .core 2 o => some (.plane k (1 - (coreOf s k).planeSel) (o + off))
  | .core _ _ => none
  | .handle _ o =>
    match checkHandle s (coreOf s k).fen hv (o + off) n kind false with
    | .pass pa => some (.phys pa)
    | _ => none

/-- Cores that an SMCAST writes, in order (R201). -/
def Xfer.mcastCores (x : Xfer) : List Nat :=
  let c0 := bits x.opB.toNat 0 30 / 0x80_0000
  (List.range (bits x.reg.toNat 0 7)).map fun j => (c0 + j * bits x.reg.toNat 8 7) % 96

/-- Source runs that a begun record has still to read. -/
def srcRuns (s : State) (x : Xfer) : List (Loc × Nat) :=
  (List.range x.rows).filterMap fun i =>
    if i < x.pos / max 1 x.len || x.buf ≠ [] then none
    else (x.srcRow i).bind fun o => (placeOf s x x.opA x.hA o x.len 0).map fun l => (l, x.len)

/-- Destination runs that a begun record has still to write. -/
def dstRuns (s : State) (x : Xfer) : List (Loc × Nat) :=
  if x.isCbload then []
  else if x.isCrc then ((placeOf s x x.opB x.hB 0 8 1).map fun l => (l, 8)).toList
  else if bits x.opB.toNat 24 8 = 0x42 then ((placeOf s x x.opB x.hB 0 1 1).map fun l => (l, x.outBytes s x.total)).toList
  else
    let n := x.outBytes s x.len
    (List.range x.rows).flatMap fun i =>
      if i < x.pos / max 1 x.len then []
      else match x.dstRow i with
        | none => []
        | some o =>
          if x.isMcast then x.mcastCores.map fun c => (Loc.scratch (c * 0x80_0000 + bits x.opB.toNat 0 30 % 0x80_0000 + o), n)
          else ((placeOf s x x.opB x.hB o n (if x.isReduce then 2 else 1)).map fun l => (l, n)).toList

/-- A record as it will be once it has begun, with its registers as they stand, and with all its rows still to come. -/
def Xfer.foreseen (s : State) (x : Xfer) : Xfer :=
  if x.begun then { x with pos := 0 }
  else
    let c := ctxOfCid s x.cid
    let sh := (recordShape c x.eng x.r).toOption.getD ⟨1, 0, 0, 0, false⟩
    { x with opB := (resolveOperand c x.eng x.r.opB).toOption.getD 0#32, rows := sh.rows, len := sh.len, strideB := sh.strideB,
             reg := (rdA c x.eng x.r.variant.toNat).w, pos := 0 }

/-- Every destination run of a record that has not completed (R133). An SSCAT that has not begun has still to read its index list, so it
may write anywhere from opB on. -/
def xferWrites (s : State) (x : Xfer) : List (Loc × Nat) :=
  let y := x.foreseen s
  match Operand.ofWord y.opB with
  | .scratch a => if x.isScatter && !x.begun && y.total ≠ 0 then [(.scratch a, 0x80_0000 - a % 0x80_0000)] else dstRuns s y
  | _ => dstRuns s y

/-- Every destination run of an accepted command that has not completed: opB, and opA of a SCAND or SCANM that emits in place (R133,
R190, R191). -/
def cmdWrites (s : State) (m : Cmd) : List (Loc × Nat) :=
  let c := ctxOfCid s m.cid
  let run := fun (w : BitVec 32) (n : Nat) => match Operand.ofWord w with
    | .scratch a => [(Loc.scratch a, n)]
    | .core 0 o => [(Loc.state (coreNo m.g) o, n)]
    | _ => []
  let at_ := fun (w w' : BitVec 32) => if m.begun then some w' else (resolveOperand c 4 w).toOption
  let part := fun (o : Option (BitVec 32)) (u : Option (List Accept × Nat)) =>
    match o, u with | some w, some (_, n) => run w n | _, _ => []
  if m.zero then []
  else part (at_ m.r.opB m.opB) m.shape.2.1 ++
    (if m.v3 && (m.major = 0x48 || m.major = 0x49) then part (at_ m.r.opA m.opA) m.shape.1 else [])

/-- Destination runs of a context's records, commands, accesses in flight and frame commands that have not completed, as (space, address,
length): space 0 scratch, 1 state. -/
def pendingWrites (s : State) (g cid : Nat) : List (Nat × Nat × Nat) :=
  let ofLoc := fun (l : Loc) (n : Nat) => match l with
    | .scratch a => [(0, a, n)]
    | .state _ o => [(1, o, n)]
    | _ => []
  let acc := s.accs.flatMap fun a => if a.cid = cid && !a.isLoad then ofLoc a.loc a.size else []
  let vst := (engOf (ctxOf s g) 1).pipe.flatMap fun l => match l.access with
    | some v => if v.store then ofLoc v.loc 2048 else []
    | none => []
  let xf := s.xfers.flatMap fun x => if x.cid = cid then (xferWrites s x).flatMap fun (l, n) => ofLoc l n else []
  let k := coreOf s (coreNo g)
  let un := (k.mcmds ++ k.scmds).flatMap fun m => if m.cid = cid then (cmdWrites s m).flatMap fun (l, n) => ofLoc l n else []
  let fr := s.frms.flatMap fun f => if f.cid = cid && f.fn ≤ 1 then
      (k.regions.filter fun r => r.off == f.b.toNat).map fun r => (1, r.off, 64 * r.lines) else []
  (acc ++ vst ++ xf ++ un ++ fr).filter fun (_, _, n) => n != 0

/-- PUBL's condition (R133): no operation issued before it still writes a selected shadow. -/
def publMet (s : State) (g : Nat) (mask : Word) : Bool :=
  let c := ctxOf s g
  match c.step with
  | none => true
  | some st =>
    let outs := ((outRanges (launchOf s st.lid)).zipIdx).filterMap fun ((a, n), i) => if bitAt mask.toNat i then some (0, a, n) else none
    let regs := ((coreOf s (coreNo g)).regions.filter fun r =>
      holds (some st) r && bitAt mask.toNat (fieldLE (launchOf s st.lid).lnr 0x0C 1 + r.j)).map fun r => (1, r.off, 64 * r.lines)
    !((pendingWrites s g c.cid).any fun (sp, a, n) => (outs ++ regs).any fun (sp', b, m) => sp == sp' && a < b + m && b < a + n)

/-- What a ring has released has performed, so a wait that acquires from it may end (R305). -/
def released (s : State) (r : Ring) : Bool := !(s.accs.any fun a => r.rel.contains a.id)

/-- In replay an RCLAIM waits for its logged turn (R365). -/
def claimAllowed (s : State) (g k b : Nat) : Bool :=
  let (o, _) := olOwner s (ctxOf s g).cid 3 k b
  olAllows s o.1 (olPlace 3 k b) (olDec o.2.1 o.2.2.1 false)

/-- A PARK waits behind earlier accesses of its class, and behind reductions of the core on its word (R129, R303). -/
def parkBlocked (s : State) (g cls a : Nat) : Bool :=
  !(sameClass s (ctxOf s g).cid cls).isEmpty ||
  (coreOf s (coreNo g)).comb.any (fun e => overlaps e.loc e.size (.scratch a) 8) ||
  s.accs.any fun x => x.isRed && coreNo x.g == coreNo g && overlaps x.loc x.size (.scratch a) 8

/-- In replay a publish waits until every line that it touches has its logged turn (R365). -/
def publishAllowed (s : State) (g mask : Nat) : Bool :=
  let cid := (ctxOf s g).cid
  match (ctxOf s g).step with
  | none => true
  | some st =>
    let outs := outRanges (launchOf s st.lid)
    let sel := (outs.zipIdx).filterMap fun (r, i) => if bitAt mask i then some r else none
    let lines := ((st.shadow.filter fun (a, _) => inRanges sel a).map fun (a, _) => a / 64 * 64).eraseDups
    lines.all fun a =>
      let (o, _) := olOwner s cid 6 (a / 0x80_0000) a
      olAllows s o.1 (olPlace 6 (a / 0x80_0000) a) (olDec o.2.1 o.2.2.1 false)

/-- The waiting group of engine `e` of the active context of `g` may go on (R237). -/
def waitMet (s : State) (g e : Nat) (w : Wait) : Bool :=
  let c := ctxOf s g
  let k := coreNo g
  match w with
  | .token t theta => tokenMet s g e t theta
  | .fence kind scope mask =>
    (pendingErrors c &&& mask != 0#16) ||
    ((kind == 0 || performedAt s scope g c.cid mask) && (kind == 1 || classesReturned s c.cid mask))
  | .publ mask => publMet s g mask && publishAllowed s g mask.toNat
  | .hrev i => !(s.accs.any fun a => a.cid == c.cid && a.hidx == i || a.via.contains (c.cid, i)) &&
    !((coreOf s k).comb.any fun x => x.via.contains (c.cid, i)) &&
    !(s.xfers.any fun x => x.cid == c.cid && (bits x.opA.toNat 30 2 == 2 && (Handle.ofWord x.hA).index == i ||
      bits x.opB.toNat 30 2 == 2 && (Handle.ofWord x.hB).index == i))
  | .rclaim b n => !ringOrder (ringOf s k b) || rclaimMet (ringOf s k b) n && released s (ringOf s k b) && claimAllowed s g k b
  | .rwaitf b p => !ringOrder (ringOf s k b) || rwaitfMet s (ringOf s k b) p && released s (ringOf s k b)
  | .rwaite b p => !ringOrder (ringOf s k b) || rwaiteMet (ringOf s k b) p && released s (ringOf s k b)
  | .parked => false
  | .prior cls a => !parkBlocked s g cls a
  | .wbar level => wbarMet s g level
  | .steal _ due => (engOf c e).held == [] || due ≤ s.clock
  | .lnch q => (queueOf s q).launches.length < queueRoom && classesPerformed s g c.cid (BitVec.allOnes 16)
  | .wdone => (wdoneMet s g && publishAllowed s g publishAll) || pendingErrors c != 0#16
  | .xinv _ _ _ ids => !(s.accs.any fun a => ids.contains a.id) && !(s.cores.any fun (_, c) => c.comb.any fun e => ids.contains e.id)
  | .cbload bank => !(s.xfers.any fun x => x.cid == c.cid &&
      (x.isCbload || (x.isFxfm && x.xf == 0 && x.bank == bank && (!x.begun || x.pos < x.total))))
  | .drain => (engOf c e).pipe == []
  | .swapx => swapxMet s g

/-- Split a victim's range for the executing step (R217): the reply, after the split. -/
def splitRange (s : State) (victim : Word) : Word × State :=
  match (curCtx s).step with
  | none => (0#64, s)
  | some me =>
    if victim.toNat > 383 || !me.resident || me.lo < me.hi then (0#64, s)
    else
      let v := victim.toNat
      let pick := (contextsOf s me.lid).find? fun (g, _, c) => g == v && (match c.step with | some st => st.resident && !st.ended | none => false)
      match pick with
      | none => (0#64, s)
      | some (g, bank, c) =>
        match c.step with
        | none => (0#64, s)
        | some st =>
          let m := st.hi - st.lo
          if m < 2 || (g = s.cur.g && bank = 0) then (0#64, s)
          else
            let mid := st.lo + (m + 1) / 2
            let s1 := setCtxAt s g bank { c with step := some { st with hi := mid } }
            let s2 := modCur s1 fun c => { c with step := c.step.map fun x => { x with lo := mid, hi := st.hi, base := mid } }
            let s3 := olDone s2 me.lid (olPlace 4 0 0)
              [BitVec.ofNat 64 (me.item % 2 ^ 32 + st.item % 2 ^ 32 * 2 ^ 32), BitVec.ofNat 64 st.lo]
            (BitVec.ofNat 64 (m / 2), s3)

/-- In replay a steal waits until it is listed and the victim's lo is the listed one (R365). -/
def stealAllowed (s : State) (victim : Word) : Bool :=
  match (curCtx s).step with
  | none => true
  | some me =>
    let l := launchOf s me.lid
    if l.olmode ≠ 2#2 then true
    else match (fenOf s l.fen).ol.places.find? (·.same { olPlace 4 0 0 with tag := l.tag }) with
      | none => true
      | some p =>
        match p.decs with
        | d :: lo :: _ =>
          bits d.toNat 0 32 == me.item &&
          (contextsOf s me.lid).any fun (g, _, c) => g == victim.toNat &&
            (match c.step with | some st => st.item == bits d.toNat 32 32 && st.lo == lo.toNat | none => false)
        | _ => true

/-- The executing word waits (R237). A fence, WBAR, LNCH, WDONE and SWAPX flush what the sub-core contributed to (R129, R342), and HREV what it contributed to
through its entry (DESIGN CHOICE, log 96); WBAR arrives at its
episode once (R218); WSTEAL's request reaches the victim (R217). -/
def waitOn (s : State) (w : Wait) : State :=
  let c := curCtx s
  let (w, s) := match w with
    | .fence kind _ mask => (w, if kind = 0 then s else flushMine s s.cur.g c.cid mask)
    | .wbar level =>
      (w, modCur (flushMine s s.cur.g c.cid (BitVec.allOnes 16)) fun c =>
        { c with step := c.step.map fun st => { st with arrived := some level } })
    | .prior _ a => (w, (flushTouched s (curCore s) (.scratch a) 8).2)
    | .hrev i => (w, (flushComb s (curCore s) fun e => e.via.contains (c.cid, i)).2)
    | .lnch _ | .wdone | .swapx => (w, flushMine s s.cur.g c.cid (BitVec.allOnes 16))
    | .xinv fen va mode _ =>
      (w, if (heldWord s).isSome then s else holdWord (xinv s fen va mode) 0#64)
    | .steal v _ =>
      if stealAllowed s v then
        let (reply, s) := splitRange s v
        let (d, s) := draw s
        (Wait.steal v (s.clock + 1 + d), holdWord s reply)
      else (w, s)
    | w => (w, s)
  let s' := modCurEng s fun x => { x with wait := some w }
  { s' with cur := { s'.cur with hold := .wait w } }

/-- WAIT_ENDS: a waiting group's condition has become true; the engine tries its group again in this clock, unless it is
parked, which only a wake ends. (R237) -/
def execWaitEnds (g e : Nat) (s : State) : Host.Outcome State Fault Refusal :=
  match (engOf (ctxOf s g) e).wait with
  | some w =>
    if waitMet s g e w then
      .next { modCtx s g (fun c => modEng c e fun x => { x with wait := none }) with
        turn := (g, e) :: s.turn.filter (· != (g, e)) }
    else .next s
  | none => .next s

end Sys2Proof.Machine
end

