-- ==== Sys2Proof/Machine/Group.lean ====
section
/-! DEFINITION. Groups: fetching and decoding the words of an engine's next group (R13, R34, R35, R39, R294), and what a group as a
whole refuses (R37, R38, R40, R46, Tables 2.1 and 6.1). -/

namespace Sys2Proof.Machine
open Sys2Proof

/-! ### Registers, queues and tokens that a word reads and writes (R37) -/

/-- What a dependence of R37 is on: a register, loop counter or token of the engine, or a queue. -/
inductive Res where
  | s (n : Nat) | lr | a (n : Nat) | l (n : Nat) | h (n : Nat) | k (n : Nat) | v (n : Nat) | t (n : Nat) | q (n : Nat)
deriving DecidableEq, Repr

/-- What a word reads and writes, and the queues it pushes to and pops (6 is bq, 7 the ring ingress queue). -/
structure Uses where
  reads : List Res := []
  writes : List Res := []
  push : List Nat := []
  pop : List Nat := []
deriving DecidableEq, Repr

/-- An a register of engine `e` (R17). -/
def aRes (e : Nat) (a : BitVec 4) : Res := if e = 0 then .s (48 + a.toNat) else .a a.toNat
def sRes (a : BitVec 6) : Res := .s a.toNat
def hRes (a : BitVec 4) : Res := .h a.toNat
def vRes (a : BitVec 6) : Res := .v a.toNat

/-- The register that CHK names (R109). -/
def chkRes (e f n : Nat) : Res :=
  match f with
  | 0 => if e = 0 then .s (48 + n) else .a n
  | 1 => .l n
  | 2 => if e = 0 then .s n else .v n
  | _ => if n < 16 then .h n else .k (n - 16)

/-- Uses of a word of the shared half (R37, R42). -/
def usesShared (e : Nat) : Instr → Uses
  | .beq a b _ | .bne a b _ | .blt a b _ | .bge a b _ | .bltu a b _ | .bgeu a b _ => { reads := [aRes e a, aRes e b] }
  | .bqt _ | .bqf _ => { pop := [6] }
  | .jal _ => { writes := [if e = 0 then .lr else .a 14] }
  | .jr a => { reads := [aRes e a] }
  | .ret => { reads := [.lr] }
  | .loop l a _ => { reads := [aRes e a], writes := [.l l.toNat] }
  | .loopi l _ _ => { writes := [.l l.toNat] }
  | .adda d a b | .suba d a b => { reads := [aRes e a, aRes e b], writes := [aRes e d] }
  | .addma d a b c => { reads := [aRes e a, aRes e b, aRes e c], writes := [aRes e d] }
  | .addia d a _ | .andia d a _ => { reads := [aRes e a], writes := [aRes e d] }
  | .sllia d a _ | .srlia d a _ => { reads := [aRes e a], writes := [aRes e d] }
  | .movia d _ _ => { writes := [aRes e d] }
  | .movka d _ _ => { reads := [aRes e d], writes := [aRes e d] }
  | .moval l a => { reads := [.l l.toNat], writes := [aRes e a] }
  | .movla l a => { reads := [aRes e a], writes := [.l l.toNat] }
  | .twait t _ => { reads := [.t t.toNat] }
  | .twaitReg t a => { reads := [.t t.toNat, aRes e a] }
  | .tpost t _ => { writes := [.t t.toNat] }
  | .tstat t d _ => { reads := [.t t.toNat], writes := [aRes e d] }
  | .chk f n => { reads := [chkRes e f.toNat n.toNat] }
  | .selcShared d c x y => { reads := [aRes e c, aRes e x, aRes e y], writes := [aRes e d] }
  | _ => {}

/-- Uses of a private word of the sequencer (R37, R45 to R48). -/
def usesSeq : Instr → Uses
  | .add d a b | .sub d a b | .and d a b | .or d a b | .xor d a b | .andn d a b | .orn d a b | .xnor d a b | .sll d a b | .srl d a b |
    .sra d a b | .rol d a b | .ror d a b | .mul d a b | .mulh d a b | .mulhu d a b | .mulhsu d a b | .div d a b | .divu d a b |
    .rem d a b | .remu d a b | .min d a b | .max d a b | .minu d a b | .maxu d a b | .slt d a b | .sltu d a b | .seq d a b |
    .sne d a b | .addw d a b | .subw d a b | .sllw d a b | .srlw d a b | .sraw d a b | .mulw d a b | .clmul d a b | .clmulh d a b =>
    { reads := [sRes a, sRes b], writes := [sRes d] }
  | .clz d a | .ctz d a | .popc d a | .brev d a | .bswap d a | .sextb d a | .sexth d a | .sextw d a | .rand d a | .wsteal d a |
    .frmFork d a | .frmFind d a => { reads := [sRes a], writes := [sRes d] }
  | .addi d a _ | .andi d a _ | .ori d a _ | .xori d a _ | .slti d a _ | .sltiu d a _ => { reads := [sRes a], writes := [sRes d] }
  | .slli d a _ | .srli d a _ | .srai d a _ | .rori d a _ => { reads := [sRes a], writes := [sRes d] }
  | .movw d _ _ => { writes := [sRes d] }
  | .movk d _ _ => { reads := [sRes d], writes := [sRes d] }
  | .sel d c x y | .selc d c x y => { reads := [sRes c, sRes x, sRes y], writes := [sRes d] }
  | .kset k a => { reads := [sRes a], writes := [.k k.toNat] }
  | .kget d k => { reads := [.k k.toNat], writes := [sRes d] }
  | .ldb d _ x _ _ => { reads := [sRes x], writes := [sRes d] }
  | .stb d _ x _ _ => { reads := [sRes d, sRes x] }
  | .ldScratch d b _ _ _ _ | .ldxScratch d b _ _ _ _ | .ldState d b _ _ _ _ => { reads := [sRes b], writes := [sRes d] }
  | .stScratch d b _ _ _ | .stState d b _ _ _ => { reads := [sRes d, sRes b] }
  | .ldHandle d h x _ _ _ | .ldxHandle d h x _ _ _ => { reads := [hRes h, sRes x], writes := [sRes d] }
  | .stHandle d h x _ _ => { reads := [sRes d, hRes h, sRes x] }
  | .amo32 v b x o _ | .amo64 v b x o _ =>
    { reads := [sRes v, aRes 0 b, sRes x] ++ (if o = 9#4 then [.s (v.toNat + 1)] else []), writes := [sRes v] }
  | .amoh32 v h x o _ | .amoh64 v h x o _ =>
    { reads := [sRes v, hRes h, sRes x] ++ (if o = 9#4 then [.s (v.toNat + 1)] else []), writes := [sRes v] }
  | .red32 v b x _ _ | .red64 v b x _ _ => { reads := [sRes v, aRes 0 b, sRes x] }
  | .redh32 v h x _ _ | .redh64 v h x _ _ => { reads := [sRes v, hRes h, sRes x] }
  | .publ a => { reads := [sRes a] }
  | .park a b _ => { reads := [sRes a, sRes b] }
  | .trn d a _ _ | .hwr d a => { reads := [sRes a], writes := [hRes d] }
  | .hmov d a => { reads := [hRes a], writes := [hRes d] }
  | .hrd d a => { reads := [hRes a], writes := [sRes d] }
  | .hnarrow d a b => { reads := [hRes a, sRes b], writes := [hRes d] }
  | .hrev a => { reads := [hRes a] }
  | .rclaim d _ x => { reads := [sRes x], writes := [sRes d] }
  | .rcommit _ x | .rwaitf _ x | .rwaite _ x | .rrel _ x => { reads := [sRes x] }
  | .rtail d _ => { writes := [sRes d] }
  | .cpush _ x => { reads := [sRes x, .s (x.toNat + 1)] }
  | .qpush a q => { reads := [sRes a], push := [q.toNat] }
  | .qpop d q => { writes := [sRes d, .q q.toNat], pop := [q.toNat] }
  | .bqpush a => { reads := [sRes a], push := [6] }
  | .frmLd d a b | .frmSt d a b | .frmSnap d a b | .frmRbk d a b | .frmFindv d a b => { reads := [sRes a, sRes b], writes := [sRes d] }
  | .csrr d _ | .cntr d _ | .wget d => { writes := [sRes d] }
  | .csrw a _ => { reads := [sRes a] }
  | .statusWrite a | .fadeflWrite a | .fadedefWrite a | .rdcfgWrite a | .cntcfgWrite a | .qcfgWrite a | .fencfgWrite a | .regrateWrite a |
    .olctlWrite a => { reads := [sRes a] }
  | .lnch a b => { reads := [sRes a, sRes b] }
  | .bz a _ | .bnz a _ => { reads := [sRes a] }
  | _ => {}

/-- The v registers that a vector word writes: vd, which NR leaves unwritten, and a second destination (R146). -/
def vWrites : Instr → Option (BitVec 6) × List (BitVec 6)
  | .vadd d _ _ _ | .vsub d _ _ _ | .vmul d _ _ _ | .vfma d _ _ _ | .vfms d _ _ _ | .vfnma d _ _ _ | .vmin d _ _ _ | .vmax d _ _ _ |
    .vsel d _ _ _ | .vselc d _ _ _ | .vimul d _ _ _ | .vimulh d _ _ _ | .vimulhu d _ _ _ | .vand d _ _ _ | .vor d _ _ _ |
    .vxor d _ _ _ | .vandn d _ _ _ | .vshl d _ _ _ | .vshr d _ _ _ | .vsra d _ _ _ | .vimin d _ _ _ | .vimax d _ _ _ |
    .viminu d _ _ _ | .vimaxu d _ _ _ | .vperm d _ _ _ | .vdqblk d _ _ _ => (some d, [])
  | .vabs d _ _ | .vneg d _ _ | .vexp2 d _ _ | .vlog2 d _ _ | .vrcp d _ _ | .vrsq d _ _ | .vsqrt d _ _ | .vfloor d _ _ | .vceil d _ _ |
    .vrint d _ _ | .vpsum d _ _ | .vpsumx d _ _ | .vpmax d _ _ | .vpxor d _ _ | .vredsum d _ _ | .vredmax d _ _ | .vredmin d _ _ |
    .vredsq d _ _ | .vmov d _ _ => (some d, [])
  | .vcmp d _ _ _ _ | .viadd d _ _ _ _ | .visub d _ _ _ _ => (some d, [])
  | .vcvt d _ _ _ _ => (some d, [])
  | .vqblk d _ v _ | .vtopk d _ v _ _ => (some d, [v])
  | .vrot d _ _ | .vwin d _ _ | .vsplat d _ _ | .vrxpop d => (some d, [])
  | .vpopq d _ _ => (some d, [])
  | .vsmax d _ v _ => (some d, [v, v + 1#6])
  | .vld d _ _ _ | .vldState d _ _ _ => (some d, [])
  | _ => (none, [])

/-- Uses of a private word of the vector engine, with its prefix's NR bit. A group has one such word, so v registers it reads
never meet a write of its group (R37, R38). -/
def usesVec (nr : Bool) (i : Instr) : Uses :=
  let (d, more) := vWrites i
  let u : Uses := { writes := (if nr then [] else d.toList.map vRes) ++ more.map vRes }
  match i with
  | .vwin _ p l => { u with reads := [aRes 1 p, aRes 1 l] }
  | .vld _ b _ _ | .vst _ b _ _ | .vldState _ b _ _ | .vstState _ b _ _ => { u with reads := [aRes 1 b] }
  | .vpopq _ q _ => { u with writes := .q q.toNat :: u.writes, pop := [q.toNat] }
  | .vpushq _ q _ => { u with push := [q.toNat] }
  | .vselc _ _ _ _ => { u with pop := [6] }
  | .vrxpop _ => { u with pop := [7] }
  | _ => u

/-- What a word of engine `e` uses; s0 never makes a dependence. -/
def uses (e : Nat) (nr : Bool) (i : Instr) : Uses :=
  let u := match i.home with
    | .sequencer => if i = Instr.ret then usesShared e i else usesSeq i
    | .vector => match i with | .bqt _ | .bqf _ => usesShared e i | _ => usesVec nr i
    | _ => usesShared e i
  { u with reads := u.reads.filter (· != Res.s 0), writes := u.writes.filter (· != .s 0) }

/-- No member reads or writes what an earlier member writes, or pushes to or pops a queue that an earlier one pushes to or pops
(R37). -/
def independent : List Uses → List Res → List Nat → List Nat → Bool
  | [], _, _, _ => true
  | u :: r, w, pu, po =>
    !(u.reads.any w.contains) && !(u.writes.any w.contains) && !(u.push.any pu.contains) && !(u.pop.any po.contains) &&
    independent r (w ++ u.writes) (pu ++ u.push) (po ++ u.pop)

/-! ### Limits (Table 2.1) -/

/-- Branch-class words, of which a group has at most one, as its last word. -/
def isBranch : Instr → Bool
  | .br _ | .beq _ _ _ | .bne _ _ _ | .blt _ _ _ | .bge _ _ _ | .bltu _ _ _ | .bgeu _ _ _ | .bqt _ | .bqf _ | .jal _ | .jr _ | .ret |
    .loop _ _ _ | .loopi _ _ _ | .bz _ _ | .bnz _ _ | .trap _ | .eret | .wdone | .estop => true
  | _ => false

/-- Memory accesses: loads, stores, LDB, STB, AMO, RED and PARK, and VLD and VST. -/
def isMemory : Instr → Bool
  | .ldScratch _ _ _ _ _ _ | .ldxScratch _ _ _ _ _ _ | .stScratch _ _ _ _ _ | .ldState _ _ _ _ _ _ | .stState _ _ _ _ _ |
    .ldHandle _ _ _ _ _ _ | .ldxHandle _ _ _ _ _ _ | .stHandle _ _ _ _ _ | .ldb _ _ _ _ _ | .stb _ _ _ _ _ | .amo32 _ _ _ _ _ |
    .amo64 _ _ _ _ _ | .amoh32 _ _ _ _ _ | .amoh64 _ _ _ _ _ | .red32 _ _ _ _ _ | .red64 _ _ _ _ _ | .redh32 _ _ _ _ _ |
    .redh64 _ _ _ _ _ | .park _ _ _ | .vld _ _ _ _ | .vst _ _ _ _ | .vldState _ _ _ _ | .vstState _ _ _ _ => true
  | _ => false

/-- Words that stand alone in their group: FENCE, CSRW, ERET, SWAPX, LNCH and the four words of major 0x6A, which the model takes for Table
2.1's LEASE (R38; DEDUCED, log 126). -/
def isAlone : Instr → Bool
  | .fence _ _ _ | .csrw _ _ | .statusWrite _ | .fadeflWrite _ | .fadedefWrite _ | .rdcfgWrite _ | .cntcfgWrite _ | .qcfgWrite _ |
    .fencfgWrite _ | .regrateWrite _ | .olctlWrite _ | .eret | .swapx | .lnch _ _ | .mlease _ | .slease _ | .mrel | .srel => true
  | _ => false

def isTwait : Instr → Bool
  | .twait _ _ | .twaitReg _ _ => true
  | _ => false

def isDly : Instr → Bool
  | .dly _ => true
  | _ => false

def isPfx : Instr → Bool
  | .pfx _ _ _ _ _ _ _ _ => true
  | _ => false

/-- A shared-half word or a control word of engine `e`. -/
def isControl (i : Instr) : Bool :=
  match i.home with
  | .shared | .check _ _ | .ring => true
  | .vector => (match i with | .bqt _ | .bqf _ => true | _ => false)
  | _ => false

/-- The most words that a group of engine `e` may have. -/
def maxWords (e : Nat) : Nat := if e ≤ 1 then 3 else 2

/-- The limits of Table 2.1 on the members of a group, prefixes left out. -/
def withinLimits (e : Nat) (ms : List Instr) : Bool :=
  (ms.dropLast.all fun i => !isBranch i) && (ms.filter isTwait).length ≤ 1 && (ms.filter isDly).length ≤ 1 &&
  (ms.length ≤ 1 || !ms.any isAlone) &&
  (if e = 0 then (ms.filter isMemory).length ≤ 2
   else if e = 1 then (ms.filter isControl).length ≤ 1 && (ms.filter fun i => !isControl i).length ≤ 1
   else true)

/-! ### Prefixes (R40, R46, Table 6.1) -/

/-- How a sequencer word takes a token prefix (Table 2.7). -/
inductive TakesT where
  | refused | optional | required
deriving DecidableEq, Repr

def takesT : Instr → TakesT
  | .ldHandle _ _ _ _ _ _ | .ldxHandle _ _ _ _ _ _ | .amo32 _ _ _ _ _ | .amo64 _ _ _ _ _ | .amoh32 _ _ _ _ _ | .amoh64 _ _ _ _ _ |
    .frmLd _ _ _ | .frmSt _ _ _ | .frmSnap _ _ _ | .frmFork _ _ | .frmRbk _ _ _ | .frmFind _ _ | .frmFindv _ _ _ => .required
  | .stHandle _ _ _ _ _ | .publ _ | .trn _ _ _ _ | .lnch _ _ => .optional
  | _ => .refused

/-- A vector word accepts the rounding field (Table 6.1). -/
def takesRm : Instr → Bool
  | .vadd _ _ _ _ | .vsub _ _ _ _ | .vmul _ _ _ _ | .vfma _ _ _ _ | .vfms _ _ _ _ | .vfnma _ _ _ _ | .vexp2 _ _ _ | .vlog2 _ _ _ |
    .vrcp _ _ _ | .vrsq _ _ _ | .vsqrt _ _ _ | .vrint _ _ _ | .vcvt _ _ _ _ _ | .vqblk _ _ _ _ | .vdqblk _ _ _ _ |
    .vsmax _ _ _ _ => true
  | .vpsum _ _ t | .vpsumx _ _ t | .vpmax _ _ t | .vpxor _ _ t | .vredsum _ _ t | .vredmax _ _ t | .vredmin _ _ t | .vredsq _ _ t => t == 0#4
  | _ => false

/-- A vector word accepts the predicate (Table 6.1). -/
def takesKp : Instr → Bool
  | .vpopq _ _ _ | .vpushq _ _ _ | .vrxpop _ => false
  | i => !isControl i && !isPfx i

/-- A vector word accepts the destination mask (Table 6.1). -/
def takesMask : Instr → Bool
  | .vld _ _ _ _ | .vst _ _ _ _ | .vldState _ _ _ _ | .vstState _ _ _ _ => false
  | i => takesKp i

/-- A prefix word may stand before a word of its engine. -/
def pfxFits (e : Nat) (p w : Instr) : Bool :=
  match p with
  | .pfx _ _ kp rm rx sq mf nr =>
    if e = 0 then takesT w != .refused
    else
      let mask := rx == 1#1 || sq == 1#1 || mf == 1#1 || nr == 1#1
      e == 1 && (rm == 0#3 || takesRm w) && (kp == 0#4 || takesKp w) && (!mask || takesMask w) &&
      (nr == 0#1 || (vWrites w).1 == some 0#6)
  | _ => false

/-- A word stands without a prefix. -/
def bareOk (e : Nat) (w : Instr) : Bool := e != 0 || takesT w != .required

/-- The NR bit of a prefix word. -/
def nrOf : Instr → Bool
  | .pfx _ _ _ _ _ _ _ nr => nr == 1#1
  | _ => false

/-- Members of a group with their prefixes: a prefix belongs to the word that follows it. -/
def unitsOf : List (Nat × Instr) → List (List (Nat × Instr))
  | [] => []
  | p :: w :: r => if isPfx p.2 then [p, w] :: unitsOf r else [p] :: unitsOf (w :: r)
  | [w] => [[w]]

/-- Prefixes of a unit fit. -/
def unitFits (e : Nat) (u : List (Nat × Instr)) : Bool :=
  match u with
  | [(_, w)] => !isPfx w && bareOk e w
  | [(_, p), (_, w)] => pfxFits e p w && !isPfx w
  | _ => false

/-- What a unit uses. -/
def unitUses (e : Nat) (u : List (Nat × Instr)) : Uses :=
  match u with
  | [(_, w)] => uses e false w
  | [(_, p), (_, w)] => uses e (nrOf p) w
  | _ => {}

/-- The group obeys R37 to R40. -/
def groupOk (e : Nat) (ms : List (Nat × Instr)) : Bool :=
  let us := unitsOf ms
  us.all (unitFits e) && withinLimits e ((ms.map (·.2)).filter fun i => !isPfx i) && independent (us.map (unitUses e)) [] [] []

/-! ### Fetching (R13, R35, R39, R294) -/

/-- What fetching a word gives. -/
inductive Fetched where
  | word (w : Nat)
  /-- the slot of a fed ring is not filled -/
  | empty
  /-- an error response with its reason, or a line with a poison syndrome -/
  | refused (reason : Option Nat)
deriving DecidableEq, Repr


/-- A position of a fed ring has been filled, what its CPUSH released has performed, and its slot can be read (R137, R232, R294). -/
def slotReady (s : State) (r : Ring) (p : Nat) : Bool :=
  p < r.tail.toNat && tget 0 r.ready p ≤ s.clock && !(s.accs.any fun a => (tget [] r.relAt p).contains a.id)

/-- A word of scratch as an engine of the executing context fetches it, in its step's view (R13, R260). -/
def fetchScratch (s : State) (a : Nat) : Fetched :=
  match scratchError s s.cur.g a 4 with
  | some r => .refused (some r)
  | none =>
    if badView s (curCtx s).cid (.scratch a) 4 then .refused none
    else .word (wordOfBytes (readView s (curCtx s).cid (.scratch a) 4))

/-- Fetch the word at an address for the executing engine. -/
def fetchWord (s : State) (a : Nat) : Fetched :=
  if s.cur.e = 0 then fetchScratch s a
  else
    let r := ringOf s (curCore s) (engRing s.cur.g s.cur.e)
    if r.kind ≠ 3#2 then fetchScratch s a
    else
      let p := slotPos r a
      if !slotReady s r p then .empty
      else match r.extSlots.find? fun x => x.1 == p with
        | some (_, bs) => .word (wordOfBytes ((bs.drop (a % 16)).take 4))
        | none => fetchScratch s a

/-- The group at an engine's next address. -/
inductive GroupAt where
  /-- its members with their addresses, the address after it, and the address of its last word -/
  | group (ms : List (Nat × Instr)) (next last : Nat)
  /-- an illegal encoding (R56) -/
  | illegal
  | empty
  /-- a fetch at an address was refused -/
  | refused (a : Nat) (reason : Option Nat)
deriving DecidableEq, Repr

/-- Four words of a record. -/
def readRecord (s : State) (a w : Nat) : GroupAt :=
  match fetchWord s (a + 4), fetchWord s (a + 8), fetchWord s (a + 12) with
  | .word x, .word y, .word z =>
    (match decodeRecord s.cur.e w x y z with
     | some i => .group [(a, i)] (movePc s a 16) (a + 12)
     | none => .illegal)
  | _, _, _ => .illegal

/-- Read and decode words until one has its stop bit set; `n` more may follow (R35, R38). -/
def readGroup (s : State) : Nat → Nat → List (Nat × Instr) → GroupAt
  | 0, _, _ => .illegal
  | n + 1, a, ms =>
    match fetchWord s a with
    | .empty => .empty
    | .refused r => .refused a r
    | .word w =>
      if isRecordWord s.cur.e w then (if ms ≠ [] || a % 16 ≠ 0 then .illegal else readRecord s a w)
      else match decodeWord s.cur.e w with
        | (true, some i) => .group (ms ++ [(a, i)]) (movePc s a 4) a
        | (false, some i) => readGroup s n (movePc s a 4) (ms ++ [(a, i)])
        | (_, none) => .illegal

/-- The next group of the executing engine, checked as a whole (R37 to R40, R56). -/
def groupAhead (s : State) : GroupAt :=
  match readGroup s (maxWords s.cur.e) s.cur.grp [] with
  | .group ms next last => if groupOk s.cur.e ms then .group ms next last else .illegal
  | g => g

end Sys2Proof.Machine
end

