-- ==== Sys2Proof/Machine/Place.lean ====
section
/-! DEFINITION. A program of one instruction in place: what `withFetchWord` of Step sets. A program comes to run by a launch, which
takes many steps from reset; this stands for all of them. -/

namespace Sys2Proof.Machine
open Sys2Proof

/-- The address at which the instruction is placed: in the program area of core 0, 16-byte aligned. -/
def placeAt : Nat := 0x1000

/-- The words of the group that holds one instruction of engine `e`: the prefix that it must have, or the word that a prefix must
stand before, with the stop bit in the last word (R35, R40). -/
def placeWords (e w : Nat) (i : Option Instr) : List Nat :=
  let w0 := w % 2 ^ 32
  let stop := w0 % 2 ^ 31 + 2 ^ 31
  if 2 ≤ e then (List.range 4).map fun j => w / 2 ^ (32 * j) % 2 ^ 32
  else match i with
    | some i =>
      if isPfx i then [w0 % 2 ^ 31, (if e = 0 then encodeWord (.publ 0#6) else encodeWord (.vadd 0#6 1#6 2#6 0#4)) % 2 ^ 31 + 2 ^ 31]
      else if e = 0 && takesT i = .required then [encodeWord (.pfx 1#1 0#5 0#4 0#3 0#1 0#1 0#1 0#1) % 2 ^ 31, stop]
      else [stop]
    | none => [stop]

/-- The context in which it runs: a step of launch 1 whose engines stand at it. -/
def placeCtx (cid : Nat) : Ctx :=
  { cid, eng := [0, 1, 2, 3, 4].map (fun e => (e, { stopped := false, pc := placeAt })), step := some { lid := 1, item := 0 } }

/-- The package with the instruction in place: core 0 is a member of fen 0, the step runs on sub-core 0, its engine rings are
static, no event is due, no limiter window runs, and the instruction's engine has the next turn. -/
def placed (s : State) (e : Nat) (ws : List Nat) : State :=
  let s := writeHome s (.scratch placeAt) (ws.flatMap (leBytes 4))
  let s := modFen (setSub s 0 { act := placeCtx s.fresh }) 0 fun f => { f with formed := true }
  let s := modCore s 0 fun c => { c with st := .member, fen := 0 }
  let ring : Ring := { kind := 2#2, ssz := 4#4, count := 16#16, base := BitVec.ofNat 32 placeAt }
  let s := [0, 1, 2, 3].foldl (fun s b => setRing s 0 b ring) s
  let l : Launch := { lid := 1, fen := 0, queue := 0, lnr := [], st := .started, live := 1, next := 1, checked := true }
  let s := modQueue s 0 fun q => { q with owner := some 0, launches := [l] }
  { s with fresh := s.fresh + 2, agenda := [], turn := [(0, e)], svc := { s.svc with limF := 0 }, seen := none,
           ecc := s.ecc.filter fun x => !(linesOf placeAt 16).contains x }

end Sys2Proof.Machine
end

