-- ==== Sys2Proof/Machine/Alu.lean ====
section
/-! DEFINITION. The integer and bit arithmetic of the sequencer: the ALU functions of Table 5.2, the immediate forms of
Table 5.4, MOVW and MOVK, SEL and SELC, KSET and KGET (R114 to R119). Latencies are those of Table 10.1. -/

namespace Sys2Proof.Machine
open Sys2Proof

/-- The carry-less product of two 64-bit values (R114). -/
def clmulNat (a b : Nat) : Nat :=
  (List.range 64).foldl (fun acc j => if bitAt b j then acc ^^^ (a <<< j) else acc) 0

/-- The number of significant bits of a number below 2^n. -/
def bitLen : Nat → Nat → Nat
  | 0, _ => 0
  | n + 1, x => if x = 0 then 0 else 1 + bitLen n (x / 2)

/-- Trailing zero bits of a number, at most n. -/
def ctzNat : Nat → Nat → Nat
  | 0, _ => 0
  | n + 1, x => if x % 2 = 1 then 0 else 1 + ctzNat n (x / 2)

/-- One bits among the low n of a number. -/
def popNat : Nat → Nat → Nat
  | 0, _ => 0
  | n + 1, x => x % 2 + popNat n (x / 2)

/-- The low n bits of a number in reverse order. -/
def revNat : Nat → Nat → Nat
  | 0, _ => 0
  | n + 1, x => x % 2 * 2 ^ n + revNat n (x / 2)

/-- Signed quotient with the corner cases of Table 5.3 (R115). -/
def divS (x y : Word) : Word := if y = 0#64 then BitVec.allOnes 64 else x.sdiv y
/-- Unsigned quotient (R115). -/
def divU (x y : Word) : Word := if y = 0#64 then BitVec.allOnes 64 else x / y
/-- Signed remainder, with the sign of the dividend (R115). -/
def remS (x y : Word) : Word := if y = 0#64 then x else x.srem y
/-- Unsigned remainder (R115). -/
def remU (x y : Word) : Word := if y = 0#64 then x else x % y

/-- Bits [127:64] of a product taken over the integers (R114). -/
def highProduct (x y : Int) : Word := BitVec.ofInt 64 (x * y / 2 ^ 64)

/-- The low 32 bits, sign-extended: the result of a W form (R114). -/
def sextW (x : Word) : Word := (x.setWidth 32).signExtend 64

/-- A two-operand result of latency `lat` (R20, R114). -/
def alu2 (s : State) (lat : Nat) (d a b : BitVec 6) (f : Word → Word → Word) : State :=
  let x := rdS (curCtx s) a.toNat
  let y := rdS (curCtx s) b.toNat
  land s lat (.s d.toNat) ⟨f x.w y.w, meet x.p y.p⟩

/-- A one-operand result of latency 1 (R20, R114, R116). -/
def alu1 (s : State) (d a : BitVec 6) (f : Word → Word) : State :=
  let x := rdS (curCtx s) a.toNat
  land s 1 (.s d.toNat) ⟨f x.w, x.p⟩

/-- ADD: 64-bit add. (R114) -/
def execAdd (d a b : BitVec 6) (s : State) : Host.Outcome State Fault Refusal :=
  .next (alu2 s 1 d a b fun x y => x + y)

/-- SUB: 64-bit subtract. (R114) -/
def execSub (d a b : BitVec 6) (s : State) : Host.Outcome State Fault Refusal :=
  .next (alu2 s 1 d a b fun x y => x - y)

/-- AND: bitwise AND. (R114) -/
def execAnd (d a b : BitVec 6) (s : State) : Host.Outcome State Fault Refusal :=
  .next (alu2 s 1 d a b fun x y => x &&& y)

/-- OR: bitwise OR. (R114) -/
def execOr (d a b : BitVec 6) (s : State) : Host.Outcome State Fault Refusal :=
  .next (alu2 s 1 d a b fun x y => x ||| y)

/-- XOR: bitwise XOR. (R114) -/
def execXor (d a b : BitVec 6) (s : State) : Host.Outcome State Fault Refusal :=
  .next (alu2 s 1 d a b fun x y => x ^^^ y)

/-- ANDN: sa AND NOT sb. (R114) -/
def execAndn (d a b : BitVec 6) (s : State) : Host.Outcome State Fault Refusal :=
  .next (alu2 s 1 d a b fun x y => x &&& ~~~ y)

/-- ORN: sa OR NOT sb. (R114) -/
def execOrn (d a b : BitVec 6) (s : State) : Host.Outcome State Fault Refusal :=
  .next (alu2 s 1 d a b fun x y => x ||| ~~~ y)

/-- XNOR: nOT (sa XOR sb). (R114) -/
def execXnor (d a b : BitVec 6) (s : State) : Host.Outcome State Fault Refusal :=
  .next (alu2 s 1 d a b fun x y => ~~~ (x ^^^ y))

/-- SLL: shift left by register. (R114) -/
def execSll (d a b : BitVec 6) (s : State) : Host.Outcome State Fault Refusal :=
  .next (alu2 s 1 d a b fun x y => x <<< (y.toNat % 64))

/-- SRL: logical shift right by register. (R114) -/
def execSrl (d a b : BitVec 6) (s : State) : Host.Outcome State Fault Refusal :=
  .next (alu2 s 1 d a b fun x y => x >>> (y.toNat % 64))

/-- SRA: arithmetic shift right by register. (R114) -/
def execSra (d a b : BitVec 6) (s : State) : Host.Outcome State Fault Refusal :=
  .next (alu2 s 1 d a b fun x y => x.sshiftRight (y.toNat % 64))

/-- ROL: rotate left by register. (R114) -/
def execRol (d a b : BitVec 6) (s : State) : Host.Outcome State Fault Refusal :=
  .next (alu2 s 1 d a b fun x y => x.rotateLeft (y.toNat % 64))

/-- ROR: rotate right by register. (R114) -/
def execRor (d a b : BitVec 6) (s : State) : Host.Outcome State Fault Refusal :=
  .next (alu2 s 1 d a b fun x y => x.rotateRight (y.toNat % 64))

/-- MUL: low 64 bits of the product. (R114) -/
def execMul (d a b : BitVec 6) (s : State) : Host.Outcome State Fault Refusal :=
  .next (alu2 s 3 d a b fun x y => x * y)

/-- MULH: high 64 bits of the signed product. (R114) -/
def execMulh (d a b : BitVec 6) (s : State) : Host.Outcome State Fault Refusal :=
  .next (alu2 s 3 d a b fun x y => highProduct x.toInt y.toInt)

/-- MULHU: high 64 bits of the unsigned product. (R114) -/
def execMulhu (d a b : BitVec 6) (s : State) : Host.Outcome State Fault Refusal :=
  .next (alu2 s 3 d a b fun x y => highProduct x.toNat y.toNat)

/-- MULHSU: high 64 bits of the signed-by-unsigned product. (R114) -/
def execMulhsu (d a b : BitVec 6) (s : State) : Host.Outcome State Fault Refusal :=
  .next (alu2 s 3 d a b fun x y => highProduct x.toInt y.toNat)

/-- DIV: signed division rounded towards zero, never trapping. (R115) -/
def execDiv (d a b : BitVec 6) (s : State) : Host.Outcome State Fault Refusal :=
  .next (alu2 s 18 d a b fun x y => divS x y)

/-- DIVU: unsigned division. (R115) -/
def execDivu (d a b : BitVec 6) (s : State) : Host.Outcome State Fault Refusal :=
  .next (alu2 s 18 d a b fun x y => divU x y)

/-- REM: signed remainder. (R115) -/
def execRem (d a b : BitVec 6) (s : State) : Host.Outcome State Fault Refusal :=
  .next (alu2 s 18 d a b fun x y => remS x y)

/-- REMU: unsigned remainder. (R115) -/
def execRemu (d a b : BitVec 6) (s : State) : Host.Outcome State Fault Refusal :=
  .next (alu2 s 18 d a b fun x y => remU x y)

/-- MIN: signed minimum. (R114) -/
def execMin (d a b : BitVec 6) (s : State) : Host.Outcome State Fault Refusal :=
  .next (alu2 s 1 d a b fun x y => if x.slt y then x else y)

/-- MAX: signed maximum. (R114) -/
def execMax (d a b : BitVec 6) (s : State) : Host.Outcome State Fault Refusal :=
  .next (alu2 s 1 d a b fun x y => if x.slt y then y else x)

/-- MINU: unsigned minimum. (R114) -/
def execMinu (d a b : BitVec 6) (s : State) : Host.Outcome State Fault Refusal :=
  .next (alu2 s 1 d a b fun x y => if x.ult y then x else y)

/-- MAXU: unsigned maximum. (R114) -/
def execMaxu (d a b : BitVec 6) (s : State) : Host.Outcome State Fault Refusal :=
  .next (alu2 s 1 d a b fun x y => if x.ult y then y else x)

/-- SLT: signed set-less-than. (R114) -/
def execSlt (d a b : BitVec 6) (s : State) : Host.Outcome State Fault Refusal :=
  .next (alu2 s 1 d a b fun x y => Word.ofBool (x.slt y))

/-- SLTU: unsigned set-less-than. (R114) -/
def execSltu (d a b : BitVec 6) (s : State) : Host.Outcome State Fault Refusal :=
  .next (alu2 s 1 d a b fun x y => Word.ofBool (x.ult y))

/-- SEQ: set if equal. (R114) -/
def execSeq (d a b : BitVec 6) (s : State) : Host.Outcome State Fault Refusal :=
  .next (alu2 s 1 d a b fun x y => Word.ofBool (x == y))

/-- SNE: set if not equal. (R114) -/
def execSne (d a b : BitVec 6) (s : State) : Host.Outcome State Fault Refusal :=
  .next (alu2 s 1 d a b fun x y => Word.ofBool (x != y))

/-- ADDW: 32-bit add, sign-extended. (R114) -/
def execAddw (d a b : BitVec 6) (s : State) : Host.Outcome State Fault Refusal :=
  .next (alu2 s 1 d a b fun x y => sextW (x + y))

/-- SUBW: 32-bit subtract, sign-extended. (R114) -/
def execSubw (d a b : BitVec 6) (s : State) : Host.Outcome State Fault Refusal :=
  .next (alu2 s 1 d a b fun x y => sextW (x - y))

/-- SLLW: 32-bit shift left. (R114) -/
def execSllw (d a b : BitVec 6) (s : State) : Host.Outcome State Fault Refusal :=
  .next (alu2 s 1 d a b fun x y => sextW (x <<< (y.toNat % 32)))

/-- SRLW: 32-bit logical shift right. (R114) -/
def execSrlw (d a b : BitVec 6) (s : State) : Host.Outcome State Fault Refusal :=
  .next (alu2 s 1 d a b fun x y => sextW ((x &&& 0xFFFFFFFF#64) >>> (y.toNat % 32)))

/-- SRAW: 32-bit arithmetic shift right. (R114) -/
def execSraw (d a b : BitVec 6) (s : State) : Host.Outcome State Fault Refusal :=
  .next (alu2 s 1 d a b fun x y => (sextW x).sshiftRight (y.toNat % 32))

/-- MULW: 32-bit low product, sign-extended. (R114) -/
def execMulw (d a b : BitVec 6) (s : State) : Host.Outcome State Fault Refusal :=
  .next (alu2 s 3 d a b fun x y => sextW (x * y))

/-- CLMUL: low 64 bits of the carry-less product. (R114) -/
def execClmul (d a b : BitVec 6) (s : State) : Host.Outcome State Fault Refusal :=
  .next (alu2 s 3 d a b fun x y => BitVec.ofNat 64 (clmulNat x.toNat y.toNat))

/-- CLMULH: high bits of the carry-less product. (R114) -/
def execClmulh (d a b : BitVec 6) (s : State) : Host.Outcome State Fault Refusal :=
  .next (alu2 s 3 d a b fun x y => BitVec.ofNat 64 (clmulNat x.toNat y.toNat / 2 ^ 64))

/-- CLZ: counts leading zero bits. (R114) -/
def execClz (d a : BitVec 6) (s : State) : Host.Outcome State Fault Refusal :=
  .next (alu1 s d a fun x => BitVec.ofNat 64 (64 - bitLen 64 x.toNat))

/-- CTZ: counts trailing zero bits. (R114) -/
def execCtz (d a : BitVec 6) (s : State) : Host.Outcome State Fault Refusal :=
  .next (alu1 s d a fun x => BitVec.ofNat 64 (ctzNat 64 x.toNat))

/-- POPC: counts one bits. (R114) -/
def execPopc (d a : BitVec 6) (s : State) : Host.Outcome State Fault Refusal :=
  .next (alu1 s d a fun x => BitVec.ofNat 64 (popNat 64 x.toNat))

/-- BREV: reverses the bits. (R114) -/
def execBrev (d a : BitVec 6) (s : State) : Host.Outcome State Fault Refusal :=
  .next (alu1 s d a fun x => BitVec.ofNat 64 (revNat 64 x.toNat))

/-- BSWAP: reverses the bytes. (R114) -/
def execBswap (d a : BitVec 6) (s : State) : Host.Outcome State Fault Refusal :=
  .next (alu1 s d a fun x => BitVec.ofNat 64 (leNat (leBytes 8 x.toNat).reverse))

/-- SEXTB: sign-extends the low byte. (R114) -/
def execSextb (d a : BitVec 6) (s : State) : Host.Outcome State Fault Refusal :=
  .next (alu1 s d a fun x => (x.setWidth 8).signExtend 64)

/-- SEXTH: sign-extends the low half-word. (R114) -/
def execSexth (d a : BitVec 6) (s : State) : Host.Outcome State Fault Refusal :=
  .next (alu1 s d a fun x => (x.setWidth 16).signExtend 64)

/-- SEXTW: sign-extends the low word. (R114) -/
def execSextw (d a : BitVec 6) (s : State) : Host.Outcome State Fault Refusal :=
  .next (alu1 s d a fun x => sextW x)

/-- ADDI: adds a sign-extended 12-bit immediate. (R116) -/
def execAddi (d a : BitVec 6) (i : BitVec 12) (s : State) : Host.Outcome State Fault Refusal :=
  .next (alu1 s d a fun x => x + i.signExtend 64)

/-- ANDI: aNDs with a zero-extended immediate. (R116) -/
def execAndi (d a : BitVec 6) (i : BitVec 12) (s : State) : Host.Outcome State Fault Refusal :=
  .next (alu1 s d a fun x => x &&& i.setWidth 64)

/-- ORI: oRs with a zero-extended immediate. (R116) -/
def execOri (d a : BitVec 6) (i : BitVec 12) (s : State) : Host.Outcome State Fault Refusal :=
  .next (alu1 s d a fun x => x ||| i.setWidth 64)

/-- XORI: xORs with a zero-extended immediate. (R116) -/
def execXori (d a : BitVec 6) (i : BitVec 12) (s : State) : Host.Outcome State Fault Refusal :=
  .next (alu1 s d a fun x => x ^^^ i.setWidth 64)

/-- SLTI: signed compare with a sign-extended immediate. (R116) -/
def execSlti (d a : BitVec 6) (i : BitVec 12) (s : State) : Host.Outcome State Fault Refusal :=
  .next (alu1 s d a fun x => Word.ofBool (x.slt (i.signExtend 64)))

/-- SLTIU: unsigned compare with a zero-extended immediate. (R116) -/
def execSltiu (d a : BitVec 6) (i : BitVec 12) (s : State) : Host.Outcome State Fault Refusal :=
  .next (alu1 s d a fun x => Word.ofBool (x.ult (i.setWidth 64)))

/-- SLLI: shifts left by an immediate amount. (R116) -/
def execSlli (d a n : BitVec 6) (s : State) : Host.Outcome State Fault Refusal :=
  .next (alu1 s d a fun x => x <<< n.toNat)

/-- SRLI: shifts right logically by an immediate amount. (R116) -/
def execSrli (d a n : BitVec 6) (s : State) : Host.Outcome State Fault Refusal :=
  .next (alu1 s d a fun x => x >>> n.toNat)

/-- SRAI: shifts right arithmetically by an immediate amount. (R116) -/
def execSrai (d a n : BitVec 6) (s : State) : Host.Outcome State Fault Refusal :=
  .next (alu1 s d a fun x => x.sshiftRight n.toNat)

/-- RORI: rotates right by an immediate amount. (R116) -/
def execRori (d a n : BitVec 6) (s : State) : Host.Outcome State Fault Refusal :=
  .next (alu1 s d a fun x => x.rotateRight n.toNat)

/-- zext(imm16) << (16 × hw) (R102, R117). -/
def wideImm (h : BitVec 2) (i : BitVec 16) : Word := i.setWidth 64 <<< (16 * h.toNat)

/-- A value with half-word hw replaced by imm16 (R102, R117). -/
def insertImm (x : Word) (h : BitVec 2) (i : BitVec 16) : Word := (x &&& ~~~ wideImm h 0xFFFF#16) ||| wideImm h i

/-- MOVW: writes a shifted 16-bit immediate, unpoisoned. (R117) -/
def execMovw (d : BitVec 6) (h : BitVec 2) (i : BitVec 16) (s : State) : Host.Outcome State Fault Refusal :=
  .next (land s 1 (.s d.toNat) ⟨wideImm h i, none⟩)

/-- MOVK: inserts a 16-bit immediate into one half-word; sd is a source. (R117) -/
def execMovk (d : BitVec 6) (h : BitVec 2) (i : BitVec 16) (s : State) : Host.Outcome State Fault Refusal :=
  .next (alu1 s d d fun x => insertImm x h i)

/-- SEL: one of two registers, poison from all sources. (R118) -/
def execSel (d c x y : BitVec 6) (s : State) : Host.Outcome State Fault Refusal :=
  let r := curCtx s
  let v := rdS r c.toNat
  let p := rdS r x.toNat
  let q := rdS r y.toNat
  .next (land s 1 (.s d.toNat) ⟨if v.w ≠ 0#64 then p.w else q.w, meet v.p (meet p.p q.p)⟩)

/-- Commit one of two arms by a consumed condition; the other arm leaves no tag (R110). -/
def commit (s : State) (d : Dest) (c : Val) (x y : Unit → Val) : State :=
  consume s [c] fun s => land s 1 d (if c.w ≠ 0#64 then x () else y ())

/-- SELC: commits one speculative arm of s registers on a consumed condition. (R118) -/
def execSelc (d c x y : BitVec 6) (s : State) : Host.Outcome State Fault Refusal :=
  let r := curCtx s
  .next (commit s (.s d.toNat) (rdS r c.toNat) (fun _ => rdS r x.toNat) (fun _ => rdS r y.toNat))

/-- KSET: writes a k register from an s register, with its tags. (R119) -/
def execKset (k : BitVec 3) (a : BitVec 6) (s : State) : Host.Outcome State Fault Refusal :=
  let v := rdS (curCtx s) a.toNat
  .next (land s 1 (.k k.toNat) ⟨v.w &&& 0xFFFFFFFF#64, v.p⟩)

/-- KGET: reads a k register into an s register, with its tags. (R119) -/
def execKget (d : BitVec 6) (k : BitVec 3) (s : State) : Host.Outcome State Fault Refusal :=
  .next (land s 1 (.s d.toNat) (rdK (curCtx s) k.toNat))

end Sys2Proof.Machine
end

