-- ==== Sys2Proof/Machine/Control.lean ====
section
/-! DEFINITION. The shared control subset (R89 to R111): NOP, DLY and ESTOP, branches and jumps, hardware loops, address
arithmetic, tokens, CHK and SELC; and BZ and BNZ of the sequencer (R120). -/

namespace Sys2Proof.Machine
open Sys2Proof

/-- NOP: no effect. (R93) -/
def execNop (s : State) : Host.Outcome State Fault Refusal := .next s

/-- DLY: the engine's next group waits for n more unfrozen clocks. (R93) -/
def execDly (n : BitVec 16) (s : State) : Host.Outcome State Fault Refusal :=
  .next (modCurEng s fun x => { x with dly := n.toNat })

/-- ESTOP: the engine issues nothing more in the step; its pointer is left after the group. (R94) -/
def execEstop (s : State) : Host.Outcome State Fault Refusal :=
  let s' := modCurEng s fun x => { x with stopped := true }
  .next { s' with cur := { s'.cur with taken := true } }

/-! ### Branches and jumps -/

/-- BR: always taken. (R95) -/
def execBr (o : BitVec 24) (s : State) : Host.Outcome State Fault Refusal := .next (jumpTo s (labelTarget s o.toInt))

/-- A conditional branch on two consumed a registers (R90, R95). -/
def branch2 (s : State) (a b : BitVec 4) (o : BitVec 16) (cond : Word → Word → Bool) : State :=
  let c := curCtx s
  let x := rdA c s.cur.e a.toNat
  let y := rdA c s.cur.e b.toNat
  consume s [x, y] fun s => if cond x.w y.w then jumpTo s (labelTarget s o.toInt) else s

/-- BEQ (R95) -/
def execBeq (a b : BitVec 4) (o : BitVec 16) (s : State) : Host.Outcome State Fault Refusal := .next (branch2 s a b o (· == ·))
/-- BNE (R95) -/
def execBne (a b : BitVec 4) (o : BitVec 16) (s : State) : Host.Outcome State Fault Refusal := .next (branch2 s a b o (· != ·))
/-- BLT: signed. (R95) -/
def execBlt (a b : BitVec 4) (o : BitVec 16) (s : State) : Host.Outcome State Fault Refusal := .next (branch2 s a b o BitVec.slt)
/-- BGE: signed. (R95) -/
def execBge (a b : BitVec 4) (o : BitVec 16) (s : State) : Host.Outcome State Fault Refusal :=
  .next (branch2 s a b o fun x y => !x.slt y)
/-- BLTU: unsigned. (R95) -/
def execBltu (a b : BitVec 4) (o : BitVec 16) (s : State) : Host.Outcome State Fault Refusal := .next (branch2 s a b o BitVec.ult)
/-- BGEU: unsigned. (R95) -/
def execBgeu (a b : BitVec 4) (o : BitVec 16) (s : State) : Host.Outcome State Fault Refusal :=
  .next (branch2 s a b o fun x y => !x.ult y)

/-- Pop bq and branch when the entry is `sense`: an empty bq freezes, a poisoned entry traps and stays (R90, R96). -/
def branchQ (s : State) (o : BitVec 16) (sense : Bool) : State :=
  match headQ (curCtx s) 6 s.clock with
  | none => freeze s
  | some e => consume s [⟨e.val, e.poison⟩] fun s =>
      let s' := modCur s fun c => popQ c 6
      if (e.val != 0#64) == sense then jumpTo s' (labelTarget s' o.toInt) else s'

/-- BQT: taken when the popped bq entry is 1. (R96) -/
def execBqt (o : BitVec 16) (s : State) : Host.Outcome State Fault Refusal := .next (branchQ s o true)
/-- BQF: taken when the popped bq entry is 0. (R96) -/
def execBqf (o : BitVec 16) (s : State) : Host.Outcome State Fault Refusal := .next (branchQ s o false)

/-- JAL: writes the address of the word after the group to lr or a14, and jumps. (R97) -/
def execJal (o : BitVec 24) (s : State) : Host.Outcome State Fault Refusal :=
  let d := if s.cur.e = 0 then Dest.lr else .a s.cur.e 14
  let t := labelTarget s o.toInt
  .next (jumpTo (land s 1 d ⟨BitVec.ofNat 64 s.cur.next, none⟩) t)

/-- Jump to a consumed register value; an illegal one traps with BADPC (R90, R92). -/
def jumpReg (s : State) (v : Val) : State :=
  consume s [v] fun s => if regTargetOk s v.w then jumpTo s v.w.toNat else trapWith s .badpc

/-- JR: jumps to an a register. (R97) -/
def execJr (a : BitVec 4) (s : State) : Host.Outcome State Fault Refusal := .next (jumpReg s (rdA (curCtx s) s.cur.e a.toNat))
/-- RET: the sequencer jumps to lr. (R97) -/
def execRet (s : State) : Host.Outcome State Fault Refusal := .next (jumpReg s (rdLr (curCtx s)))

/-- A branch of the sequencer on an s register (R120). -/
def branchS (s : State) (a : BitVec 6) (o : BitVec 18) (zero : Bool) : State :=
  let v := rdS (curCtx s) a.toNat
  consume s [v] fun s => if (v.w == 0#64) == zero then jumpTo s (labelTarget s o.toInt) else s

/-- BZ (R120) -/
def execBz (a : BitVec 6) (o : BitVec 18) (s : State) : Host.Outcome State Fault Refusal := .next (branchS s a o true)
/-- BNZ (R120) -/
def execBnz (a : BitVec 6) (o : BitVec 18) (s : State) : Host.Outcome State Fault Refusal := .next (branchS s a o false)

/-! ### Hardware loops -/

/-- Enter a loop of `n` passes over a body of `b` words (R98). -/
def enterLoop (s : State) (l n b : Nat) : State :=
  let last := movePc s s.cur.next (4 * (b - 1 : Int))
  let s' := modCurEng s fun x =>
    let r : LoopReg := { count := BitVec.ofNat 32 n, start := s.cur.next, last := last, seq := x.grp + 1 }
    { x with l := tset x.l l r }
  if n % 2 ^ 32 = 0 then jumpTo s' (movePc s s.cur.next (4 * b)) else s'

/-- LOOP: the trip count is bits [31:0] of a consumed a register. (R98) -/
def execLoop (l : BitVec 2) (a : BitVec 4) (b : BitVec 16) (s : State) : Host.Outcome State Fault Refusal :=
  let v := rdA (curCtx s) s.cur.e a.toNat
  .next (consume s [v] fun s => enterLoop s l.toNat (v.w.toNat % 2 ^ 32) b.toNat)

/-- LOOPI: an immediate trip count. (R98) -/
def execLoopi (l : BitVec 2) (n : BitVec 16) (b : BitVec 6) (s : State) : Host.Outcome State Fault Refusal :=
  .next (enterLoop s l.toNat n.toNat b.toNat)

/-- The loops of an engine that are active and end at `a`, latest entry first (R99); of those that no LOOP or LOOPI of the step entered, the
lower-numbered first (DESIGN CHOICE, log 127). -/
def loopsEnding (x : EngCtx) (a : Nat) : List (Nat × LoopReg) :=
  sortBy (fun p q => q.2.seq ≤ p.2.seq) (x.l.filter fun (_, l) => l.count != 0#32 && l.last == a)

/-- What the end test of a group finds. -/
inductive LoopEnd where
  | none
  /-- back to a start address, with counts written -/
  | back (start : Nat) (l : Tab LoopReg)
  /-- every loop that ends here falls out -/
  | out (l : Tab LoopReg)
  | trap (c : Cause) (tval : Word)
deriving DecidableEq, Repr

/-- The end test over loops in order (R99). -/
def endTest : List (Nat × LoopReg) → Tab LoopReg → LoopEnd
  | [], t => .out t
  | (n, l) :: r, t =>
    if l.tag.pending.isSome then .trap .underwait 0#64
    else match l.tag.poison with
      | some c => .trap c (l.count.setWidth 64)
      | none =>
        if l.count.toNat ≥ 2 then .back l.start (tset t n { l with count := l.count - 1#32 })
        else endTest r (tset t n { l with count := 0#32 })

/-! ### Address arithmetic (R102, Table 4.3) -/

/-- A result computed from a registers, of latency 1, with the poison of every source. -/
def addrOp (s : State) (d : BitVec 4) (src : List (BitVec 4)) (f : List Word → Word) : State :=
  let c := curCtx s
  let vs := src.map fun a => rdA c s.cur.e a.toNat
  land s 1 (destA s.cur.e d.toNat) ⟨f (vs.map (·.w)), vs.foldl (fun p v => meet p v.p) none⟩

/-- ADDA (R102) -/
def execAdda (d a b : BitVec 4) (s : State) : Host.Outcome State Fault Refusal :=
  .next (addrOp s d [a, b] fun | [x, y] => x + y | _ => 0#64)
/-- SUBA (R102) -/
def execSuba (d a b : BitVec 4) (s : State) : Host.Outcome State Fault Refusal :=
  .next (addrOp s d [a, b] fun | [x, y] => x - y | _ => 0#64)
/-- ADDMA: aa + (ab × ac)[63:0]. (R102) -/
def execAddma (d a b c : BitVec 4) (s : State) : Host.Outcome State Fault Refusal :=
  .next (addrOp s d [a, b, c] fun | [x, y, z] => x + y * z | _ => 0#64)
/-- ADDIA (R102) -/
def execAddia (d a : BitVec 4) (i : BitVec 16) (s : State) : Host.Outcome State Fault Refusal :=
  .next (addrOp s d [a] fun | [x] => x + i.signExtend 64 | _ => 0#64)
/-- ANDIA (R102) -/
def execAndia (d a : BitVec 4) (i : BitVec 16) (s : State) : Host.Outcome State Fault Refusal :=
  .next (addrOp s d [a] fun | [x] => x &&& i.setWidth 64 | _ => 0#64)
/-- SLLIA (R102) -/
def execSllia (d a : BitVec 4) (n : BitVec 6) (s : State) : Host.Outcome State Fault Refusal :=
  .next (addrOp s d [a] fun | [x] => x <<< n.toNat | _ => 0#64)
/-- SRLIA (R102) -/
def execSrlia (d a : BitVec 4) (n : BitVec 6) (s : State) : Host.Outcome State Fault Refusal :=
  .next (addrOp s d [a] fun | [x] => x >>> n.toNat | _ => 0#64)
/-- MOVIA: reads nothing. (R102) -/
def execMovia (d : BitVec 4) (h : BitVec 2) (i : BitVec 16) (s : State) : Host.Outcome State Fault Refusal :=
  .next (addrOp s d [] fun _ => wideImm h i)
/-- MOVKA: ad is a source. (R102) -/
def execMovka (d : BitVec 4) (h : BitVec 2) (i : BitVec 16) (s : State) : Host.Outcome State Fault Refusal :=
  .next (addrOp s d [d] fun | [x] => insertImm x h i | _ => 0#64)
/-- MOVAL: ad := zext(l.count). (R102) -/
def execMoval (l : BitVec 2) (a : BitVec 4) (s : State) : Host.Outcome State Fault Refusal :=
  .next (land s 1 (destA s.cur.e a.toNat) (rdL (curCtx s) s.cur.e l.toNat))
/-- MOVLA: l.count := aa[31:0]; start and end addresses are unchanged. (R101, R102) -/
def execMovla (l : BitVec 2) (a : BitVec 4) (s : State) : Host.Outcome State Fault Refusal :=
  let v := rdA (curCtx s) s.cur.e a.toNat
  .next (land s 1 (.l s.cur.e l.toNat) ⟨v.w &&& 0xFFFFFFFF#64, v.p⟩)

/-! ### Tokens -/

/-- TWAIT with threshold θ (R104, R105): waits, or sets STALE where Table 4.4 says so and lets the group clear the pending
tags that it covers. The threshold is tested again in each clock of the wait, and STALE is set in the clock in which the TWAIT issues
(DESIGN CHOICE, log 89). -/
def waitToken (s : State) (t : Nat) (theta : BitVec 16) : State :=
  let c := curCtx s
  if tokenMet (beforeGroup s) s.cur.g s.cur.e t theta then
    let s' := if (threshold (tget {} c.t t).count theta).2 then raiseTok s c.cid t 0 stStale else s
    { s' with cur := { s'.cur with clears := s'.cur.clears ++ [t] } }
  else waitOn s (.token t theta)

/-- TWAIT: waits for an immediate threshold. (R104) -/
def execTwait (t : BitVec 5) (n : BitVec 16) (s : State) : Host.Outcome State Fault Refusal := .next (waitToken s t.toNat n)

/-- The operand of a wait as it stood in the wait's first clock (R104): consumed then, and kept while the wait lasts. -/
def heldOperand (s : State) (v : Val) (k : State → Word → State) : State :=
  match heldWord s with
  | some w => k s w
  | none => consume s [v] fun s => k (holdWord s v.w) v.w

/-- TWAIT with a register threshold, read in the first clock of the wait. (R104) -/
def execTwaitReg (t : BitVec 5) (a : BitVec 4) (s : State) : Host.Outcome State Fault Refusal :=
  .next (heldOperand s (rdA (curCtx s) s.cur.e a.toNat) fun s w => waitToken s t.toNat (w.setWidth 16))

/-- TPOST: raises a token n times in its issue clock. (R106, R242) -/
def execTpost (t : BitVec 5) (n : BitVec 8) (s : State) : Host.Outcome State Fault Refusal :=
  .next (raiseTok s (curCtx s).cid t.toNat n.toNat 0#32)

/-- TSTAT: reads the status word with every raise of earlier clocks; with CL = 1 it is cleared at the end of the clock, and raises of
the same clock survive. (R107, R242) -/
def execTstat (t : BitVec 5) (d : BitVec 4) (c : BitVec 1) (s : State) : Host.Outcome State Fault Refusal :=
  let st := (tget {} (curCtx s).t t.toNat).status
  let s' := land s 1 (destA s.cur.e d.toNat) ⟨st.setWidth 64, none⟩
  .next (if c = 1#1 then
      { s' with raises := s'.raises ++ [{ cid := (curCtx s).cid, token := t.toNat, n := 0, status := 0#32, clear := true }] }
    else s')

/-! ### Poison checks and commit select -/

/-- The register that CHK names (R44, R109). -/
def chkVal (s : State) (f : BitVec 2) (n : BitVec 6) : Val :=
  let c := curCtx s
  let e := s.cur.e
  match f.toNat with
  | 0 => rdA c e n.toNat
  | 1 => rdL c e n.toNat
  | 2 => if e = 0 then rdS c n.toNat else
      let r := vregOf c n.toNat
      ⟨r.val.setWidth 64, r.poison⟩
  | _ => if n.toNat < 16 then rdH c n.toNat else rdK c (n.toNat - 16)

/-- CHK: traps if the register is poisoned or pending. (R109) -/
def execChk (f : BitVec 2) (n : BitVec 6) (s : State) : Host.Outcome State Fault Refusal :=
  let v := chkVal s f n
  .next (match v.p with
    | none => s
    | some c => trapWith s c v.w 0#16
        (if s.cur.e = 0 && f = 3#2 && n.toNat < 16 && causeResumable c then some (frecPoison c n.toNat v.w 0#64 0) else none))

/-- SELC of a registers. (R110) -/
def execSelcShared (d c x y : BitVec 4) (s : State) : Host.Outcome State Fault Refusal :=
  let r := curCtx s
  let e := s.cur.e
  .next (commit s (destA e d.toNat) (rdA r e c.toNat) (fun _ => rdA r e x.toNat) (fun _ => rdA r e y.toNat))

/-- PFX: its fields apply to the word that follows it. (R40) -/
def execPfx (t : BitVec 1) (k : BitVec 5) (p : BitVec 4) (r : BitVec 3) (x q m n : BitVec 1) (s : State) :
    Host.Outcome State Fault Refusal :=
  .next { s with cur := { s.cur with pfx :=
    { t := t == 1#1, token := k.toNat, kp := if p.toNat < 8 then none else some (p.toNat - 8), rm := r.toNat,
      rx := x == 1#1, sq := q == 1#1, mf := m == 1#1, nr := n == 1#1 } } }

end Sys2Proof.Machine
end

