-- ==== Sys2Proof/Machine/Convert.lean ====
section
/-! DEFINITION. Conversions between element types (R71 to R73), block scales (R74, R75), CRC-64 (R206), and byte lists as lists of
elements (R19). -/

namespace Sys2Proof.Machine
open Sys2Proof

/-! ### Elements -/

/-- The first `k` pieces of `n` items of a list. -/
def chunk {α : Type} (n : Nat) : Nat → List α → List (List α)
  | 0, _ => []
  | k + 1, l => l.take n :: chunk n k (l.drop n)

/-- The first `k` elements of `w` bytes. -/
def elems (w k : Nat) (bs : List Byte) : List Nat := (chunk w k bs).map leNat

/-- The bytes of elements of `w` bytes. -/
def elemBytes (w : Nat) (xs : List Nat) : List Byte := xs.flatMap (leBytes w)

/-- Floating types of R50. -/
def isFloat (t : Nat) : Bool := t < 5
/-- Signed integer types i8, i16, i32, i64. -/
def isSigned (t : Nat) : Bool := 7 ≤ t && t ≤ 10

/-- The integer that an element of an i or b type holds. -/
def intVal (t x : Nat) : Int := if isSigned t then toSignedN (typeBits t) x else x
where toSignedN (w x : Nat) : Int := if x < 2 ^ (w - 1) then x else (x : Int) - 2 ^ w

/-- An integer as the bits of a type of `w` bits. -/
def wrapInt (w : Nat) (i : Int) : Nat := (i % 2 ^ w).toNat

/-- The least and greatest values of an integer type. -/
def intRange (t : Nat) : Int × Int :=
  let w := typeBits t
  if isSigned t then (-(2 ^ (w - 1)), 2 ^ (w - 1) - 1) else (0, 2 ^ w - 1)

def clampInt (r : Int × Int) (i : Int) : Int := if i < r.1 then r.1 else if r.2 < i then r.2 else i

/-- Floating to integer (R72). -/
def floatToInt (f : Fmt) (t mode : Nat) (sat : Bool) (x : Nat) : Nat :=
  let r := intRange t
  let w := typeBits t
  match decodeF f x with
  | .nan => if sat then 0 else wrapInt w r.1
  | .inf neg => wrapInt w (if sat then (if neg then r.1 else r.2) else r.1)
  | .fin neg m e =>
    let i := roundInt mode neg m e
    wrapInt w (if r.1 ≤ i && i ≤ r.2 then i else if sat then clampInt r i else r.1)

/-- Convert one element (R71 to R73). -/
def convert (src dst mode : Nat) (sat : Bool) (x : Nat) : Nat :=
  if isFloat src then
    if isFloat dst then roundS (fmtOf dst) mode sat (decodeF (fmtOf src) x) false
    else floatToInt (fmtOf src) dst mode sat x
  else if isFloat dst then roundS (fmtOf dst) mode sat (FV.ofInt (intVal src x)) false
  else
    let i := intVal src x
    wrapInt (typeBits dst) (if sat && typeBits dst < typeBits src then clampInt (intRange dst) i else i)

/-! ### Block scales (R74, R75) -/

/-- emax of an element type (R74). -/
def emaxOf (t : Nat) : Int := if t = 3 then 8 else if t = 4 then 15 else 0

/-- floor(log2) of a finite value's magnitude; none for zero. -/
def FV.log2 : FV → Option Int
  | .fin _ m e => if m = 0 then none else some ((numBits m : Int) - 1 + e)
  | _ => none

/-- Multiply by 2^k. -/
def FV.scale (k : Int) : FV → FV
  | .fin s m e => .fin s m (e + k)
  | v => v

/-- Round to the element grid, then clamp; a zero is +0 (R74). -/
def roundSat (t mode : Nat) (v : FV) : Nat :=
  if t = 7 then
    match v with
    | .fin s m e => wrapInt 8 (clampInt (-128, 127) (roundInt mode s m (e + 6)))
    | _ => 0
  else
    let x := roundS (fmtOf t) mode true v false
    if x % 128 = 0 then 0 else x

/-- Quantise a block of f32 patterns: the scale and the elements (R74). -/
def quantBlock (t mode : Nat) (xs : List Nat) : Nat × List Nat :=
  let vs := xs.map (decodeF f32)
  if vs.any fun v => !v.isFin then (0xFF, xs.map fun _ => 0)
  else
    match vs.foldl (fun (m : Option Int) v => match m, v.log2 with | none, l => l | m, none => m | some a, some b => some (max a b)) none with
    | none => (0, xs.map fun _ => 0)
    | some l =>
      let x := clampInt (-127, 127) (l - emaxOf t)
      ((x + 127).toNat, vs.map fun v => roundSat t mode (v.scale (-x)))

/-- The value of an e8m0 scale code; NaN for 0xFF. -/
def scaleVal (s : Nat) : FV := if s = 0xFF then .nan else .fin false 1 ((s : Int) - 127)

/-- The value of a block element: i8 is MXINT8 (R74). -/
def elementVal (t q : Nat) : FV :=
  if t = 7 then let i := intVal 7 q; .fin (i < 0) i.natAbs (-6) else decodeF (fmtOf t) q

/-- Dequantise one element to a floating type (R75). -/
def dequant (t dst mode s q : Nat) : Nat := roundF (fmtOf dst) mode ((elementVal t q).mul (scaleVal s))

/-! ### CRC-64 (R206) -/

/-- ECMA-182, reflected. -/
def crcPoly : Word := 0xC96C5795D7870F42#64

/-- One bit of the reflected CRC. -/
def crcBit (c : Word) : Word := if c.getLsbD 0 then (c >>> 1) ^^^ crcPoly else c >>> 1

/-- One byte. -/
def crcByte (c : Word) (b : Byte) : Word :=
  (List.range 8).foldl (fun c _ => crcBit c) (c ^^^ b.setWidth 64)

/-- The CRC register after bytes, from a register value. -/
def crcRun (c : Word) (bs : List Byte) : Word := bs.foldl crcByte c

/-- CRC-64 of bytes (R206). -/
def crc64 (bs : List Byte) : Word := crcRun (BitVec.allOnes 64) bs ^^^ BitVec.allOnes 64

end Sys2Proof.Machine
end

