-- ==== Sys2Proof/Machine/MemAccess.lean ====
section
/-! DEFINITION. Loads and stores of the sequencer in every form (R121 to R127), atomics (R128), resting reductions (R129),
FENCE (R130 to R132) and PUBL (R133), and the events by which accesses perform and complete (R242, R350 to R356). -/

namespace Sys2Proof.Machine
open Sys2Proof

/-! ### Operands and checks -/

/-- Consume operands of an access; a speculative load lands poisoned with the worst cause and makes no access (R112, R122). -/
def consumeSp (s : State) (sp : Bool) (vs : List Val) (poison : State → Cause → State) (k : State → State) : State :=
  match worst vs with
  | some (c, w) => if sp then poison s c else trapWith s c w
  | none => k s

/-- Consume a handle register with the operands that go with it: a handle poisoned with a resumable cause gives a fault record
(R324, R327). `check` is what a failed check on the address asks for, which traps where its priority is higher (R329). -/
def consumeH (s : State) (sp : Bool) (h : Nat) (x : Word) (n : Nat) (vs : List Val) (poison : State → Cause → State)
    (k : State → Word → State) (check : Option Cause := none) : State :=
  let hv := rdH (curCtx s) h
  match worst (hv :: vs) with
  | some (c, w) =>
    if sp then poison s c
    else if check.any fun a => causePrio a < causePrio c then trapWith s (check.getD c)
    else trapWith s c w 0#16 (if hv.p = some c && causeResumable c then some (frecPoison c h w x n) else none)
  | none => k s hv.w

/-- A request that needs a packet freezes its engine while its core has no credit for the receive agent (R352). -/
def needCredit (s : State) (l : Loc) (k : State → State) : State :=
  if noCredit s (curCore s) l then freeze s else k s

/-- Bytes of a size code (R47). -/
def sizeOf (z : BitVec 2) : Nat := 2 ^ z.toNat

/-- A poisoned scalar result whose bits are free. -/
def landPoison (lat : Nat) (d : Dest) (s : State) (c : Cause) : State :=
  let (v, s) := freePoison s c
  land s lat d v

/-- The executing word's operation completes by token with a result (R125, R242). -/
def postResult (s : State) (d : Dest) (v : Val) (st : BitVec 32) (cls : Option Nat := none) : State :=
  let (id, s) := freshId s
  let (n, s) := draw s
  let t := s.cur.pfx.token
  let p : Posted := { id, cid := (curCtx s).cid, dest := d, val := v.w, poison := v.p, token := some t, status := st, due := s.clock + n,
                      cls, grp := (curEng s).grp }
  setPending { s with posted := s.posted ++ [p] } d t

/-- A poisoned result that lands by token. -/
def postPoison (d : Dest) (st : BitVec 32) (s : State) (c : Cause) (cls : Option Nat := none) : State :=
  let (v, s) := freePoison s c
  postResult s d v st cls

/-- An error response to the executing word (R123): the violation record. -/
def errorResponse (s : State) (space addr reason kind : Nat) : State :=
  logViolation s (curFen s) space addr reason s.cur.e kind s.cur.g

/-- Handle bits [47:0], which a violation record holds (Table 18.4). -/
def handleBits (hv : Word) : Nat := hv.toNat % 2 ^ 48

/-! ### Scratch, state and ring accesses -/

/-- ALIGN for an address that is not a multiple of the access's size (R122). -/
def alignCheck (a n : Nat) : Option Cause := if a % n ≠ 0 then some .align else none

/-- STOFF or ALIGN for an access to the own state store (R28, R122, R272). -/
def stateCheck (s : State) (a n align : Nat) : Option Cause :=
  if stateError s (curCore s) a n then some .stoff else alignCheck a align

/-- A load from scratch (R121 to R124). -/
def loadScratch (s : State) (d : BitVec 6) (src : List Val) (addr n cls : Nat) (sp signed : Bool) : State :=
  let dst := Dest.s d.toNat
  consumeSp s sp src (landPoison 4 dst) fun s =>
    if addr % n ≠ 0 then (if sp then landPoison 4 dst s .align else trapWith s .align)
    else match scratchError s s.cur.g addr n with
      | some r => landPoison 4 dst (errorResponse s 0 addr r 0) .memerr
      | none => needCredit s (.scratch addr) fun s => issueLoad s 4 cls (.scratch addr) n signed dst

/-- A store to scratch: its data is a consumed operand (R112, R123). -/
def storeScratch (s : State) (data : Val) (src : List Val) (addr n cls : Nat) : State :=
  consumeWith s (data :: src) (checkOn src (alignCheck addr n)) id fun s =>
    match scratchError s s.cur.g addr n with
      | some r => storeError (errorResponse s 0 addr r 1) (curCtx s).cid cls
      | none => if shadowOver s (curCtx s).cid [(addr, n)] then trapWith s .shadowfull else needCredit s (.scratch addr) fun s =>
          (issueAccess s { id := 0, g := 0, cid := 0, kind := .store, cls, loc := .scratch addr, size := n, data := data.w }).2

/-- Base plus scaled offset, modulo 2^64 (Table 5.5). -/
def baseAddr (b : Word) (o : BitVec 5) (n : Nat) : Nat := (b + (o.setWidth 64) * BitVec.ofNat 64 n).toNat

/-- LD from scratch. (R121) -/
def execLdScratch (d b : BitVec 6) (p : BitVec 1) (o : BitVec 5) (z : BitVec 2) (c : BitVec 4) (s : State) :
    Host.Outcome State Fault Refusal :=
  let v := rdS (curCtx s) b.toNat
  .next (loadScratch s d [v] (baseAddr v.w o (sizeOf z)) (sizeOf z) c.toNat (p == 1#1) false)

/-- LDX from scratch: sign-extended. (R121) -/
def execLdxScratch (d b : BitVec 6) (p : BitVec 1) (o : BitVec 5) (z : BitVec 2) (c : BitVec 4) (s : State) :
    Host.Outcome State Fault Refusal :=
  let v := rdS (curCtx s) b.toNat
  .next (loadScratch s d [v] (baseAddr v.w o (sizeOf z)) (sizeOf z) c.toNat (p == 1#1) true)

/-- ST to scratch. (R121) -/
def execStScratch (d b : BitVec 6) (o : BitVec 5) (z : BitVec 2) (c : BitVec 4) (s : State) : Host.Outcome State Fault Refusal :=
  let v := rdS (curCtx s) b.toNat
  .next (storeScratch s (rdS (curCtx s) d.toNat) [v] (baseAddr v.w o (sizeOf z)) (sizeOf z) c.toNat)

/-- LD from the own state store: a reach past the store, or into half 1 of a live region, is STOFF (R28, R122, R272). -/
def execLdState (d b : BitVec 6) (p : BitVec 1) (o : BitVec 5) (z : BitVec 2) (c : BitVec 4) (s : State) :
    Host.Outcome State Fault Refusal :=
  let v := rdS (curCtx s) b.toNat
  let n := sizeOf z
  let a := baseAddr v.w o n
  let dst := Dest.s d.toNat
  let sp := p == 1#1
  .next (consumeSp s sp [v] (landPoison 5 dst) fun s =>
    if stateError s (curCore s) a n then (if sp then landPoison 5 dst s .stoff else trapWith s .stoff)
    else if a % n ≠ 0 then (if sp then landPoison 5 dst s .align else trapWith s .align)
    else issueLoad s 5 c.toNat (.state (curCore s) a) n false dst)

/-- ST to the own state store. (R121) -/
def execStState (d b : BitVec 6) (o : BitVec 5) (z : BitVec 2) (c : BitVec 4) (s : State) : Host.Outcome State Fault Refusal :=
  let v := rdS (curCtx s) b.toNat
  let w := rdS (curCtx s) d.toNat
  let n := sizeOf z
  let a := baseAddr v.w o n
  .next (consumeWith s [w, v] (checkOn [v] (stateCheck s a n n)) id fun s =>
    (issueAccess s { id := 0, g := 0, cid := 0, kind := .store, cls := c.toNat, loc := .state (curCore s) a, size := n, data := w.w }).2)

/-- Address of a ring access: none where the descriptor has KIND 0 (Table 5.5). -/
def ringAddr (s : State) (b : BitVec 6) (x : Word) : Option Nat :=
  let r := ringOf s (curCore s) b.toNat
  let n := r.count.toNat * 2 ^ r.ssz.toNat
  if r.kind = 0#2 then none else some (r.base.toNat + x.toNat % n)

/-- LDB: a load from a ring of the core. (R121) -/
def execLdb (d b x : BitVec 6) (z : BitVec 2) (c : BitVec 4) (s : State) : Host.Outcome State Fault Refusal :=
  let v := rdS (curCtx s) x.toNat
  .next (consume s [v] fun s =>
    match ringAddr s b v.w with
    | none => trapWith s .ringerr
    | some a => loadScratch s d [v] a (sizeOf z) c.toNat false false)

/-- STB: a store to a ring of the core. (R121) -/
def execStb (d b x : BitVec 6) (z : BitVec 2) (c : BitVec 4) (s : State) : Host.Outcome State Fault Refusal :=
  let v := rdS (curCtx s) x.toNat
  let w := rdS (curCtx s) d.toNat
  .next (match ringAddr s b v.w with
    | none => consumeWith s [w, v] (some .ringerr) id id
    | some a => storeScratch s w [v] a (sizeOf z) c.toNat)

/-! ### Accesses through handles -/

/-- The issuer runs at M (R316). -/
def atM (s : State) : Bool := (curCtx s).pl == 3#2

/-- Check an access through a handle at its check point (R321): a failed check answers `bad`; a passed one, or one against an
absent entry, goes on with its home and what it is held with. -/
def checked (s : State) (hreg : Nat) (hv x : Word) (n kind : Nat) (bad : State → State)
    (k : State → Loc → Option (Nat × Word × Word) → State) : State :=
  match checkHandle s (curFen s) hv x.toNat n kind (atM s) with
  | .fail r => bad (errorResponse s 3 (handleBits hv) r kind)
  | .absent => k s (.phys 0) (some (hreg, hv, x))
  | .pass pa => needCredit s (.phys pa) fun s => k s (.phys pa) none

/-- The address that an access through a handle names is a multiple of `n` (R122): pages are aligned, so the offset decides. -/
def handleAligned (hv x : Word) (n : Nat) : Bool := ((Handle.ofWord hv).off + x.toNat) % n == 0

/-- ALIGN for an access through handle register `h` with index operand `x`. -/
def handleCheck (s : State) (h : Nat) (x : Val) (n : Nat) : Option Cause :=
  let hv := rdH (curCtx s) h
  checkOn [hv, x] (if handleAligned hv.w x.w n then none else some .align)

/-- A handle load (R121, R122, R125, R325). -/
def loadHandle (s : State) (d : BitVec 6) (h : BitVec 4) (x : BitVec 6) (sp : Bool) (n cls : Nat) (signed : Bool) : State :=
  let v := rdS (curCtx s) x.toNat
  let dst := Dest.s d.toNat
  let poison := fun s c => postPoison dst 0#32 s c (some cls)
  consumeH s sp h.toNat v.w n [v] poison fun s hv =>
    if !handleAligned hv v.w n then (if sp then poison s .align else trapWith s .align)
    else checked s h.toNat hv v.w n 0 (fun s => postPoison dst stErr s .memerr (some cls)) fun s l held =>
      if held.isSome && sp then poison s .notpresent
      else
        let (_, s) := issueAccess s { id := 0, g := 0, cid := 0, kind := .load signed, cls, loc := l, size := n, dest := dst, held,
                                      token := some s.cur.pfx.token, hidx := (Handle.ofWord hv).index }
        setPending s dst s.cur.pfx.token

/-- LD through a handle. (R121) -/
def execLdHandle (d : BitVec 6) (h : BitVec 4) (x : BitVec 6) (p : BitVec 1) (z : BitVec 2) (c : BitVec 4) (s : State) :
    Host.Outcome State Fault Refusal :=
  .next (loadHandle s d h x (p == 1#1) (sizeOf z) c.toNat false)

/-- LDX through a handle: sign-extended. (R121) -/
def execLdxHandle (d : BitVec 6) (h : BitVec 4) (x : BitVec 6) (p : BitVec 1) (z : BitVec 2) (c : BitVec 4) (s : State) :
    Host.Outcome State Fault Refusal :=
  .next (loadHandle s d h x (p == 1#1) (sizeOf z) c.toNat true)

/-- ST through a handle; with a token prefix it raises the token when it has performed. (R121, R125) -/
def execStHandle (d : BitVec 6) (h : BitVec 4) (x : BitVec 6) (z : BitVec 2) (c : BitVec 4) (s : State) :
    Host.Outcome State Fault Refusal :=
  let v := rdS (curCtx s) x.toNat
  let w := rdS (curCtx s) d.toNat
  let n := sizeOf z
  let token := if s.cur.pfx.t then some s.cur.pfx.token else none
  .next (consumeH s false h.toNat v.w n [w, v] (fun s _ => s) (fun s hv =>
    if !handleAligned hv v.w n then trapWith s .align
    else checked s h.toNat hv v.w n 1
      (fun s =>
        let s := storeError s (curCtx s).cid c.toNat
        if token.isSome then postResult s .none ⟨0#64, none⟩ stErr else s)
      fun s l held =>
        (issueAccess s { id := 0, g := 0, cid := 0, kind := .store, cls := c.toNat, loc := l, size := n, data := w.w, held, token,
                         hidx := (Handle.ofWord hv).index }).2) (handleCheck s h.toNat v n))

/-! ### Atomics (R128) -/

/-- The operands of an atomic: v, and for CAS the expected value. -/
def amoOperands (s : State) (v : BitVec 6) (o : BitVec 4) : List Val :=
  let c := curCtx s
  if o.toNat = 9 then [rdS c v.toNat, rdS c (v.toNat + 1)] else [rdS c v.toNat]

/-- The second operand of a list, or 0. -/
def expectOf (vs : List Val) : Word := match vs with | [_, e] => e.w | _ => 0#64

/-- Put an atomic in flight, with its place in the order log. -/
def issueAmo (s : State) (v : BitVec 6) (o c : BitVec 4) (l : Loc) (place n : Nat) (data expect : Word)
    (held : Option (Nat × Word × Word)) (hidx : Nat) : State :=
  let dst := Dest.s v.toNat
  let (owner, s) := olOwner s (curCtx s).cid 1 (applyCore l) place
  let (_, s) := issueAccess s { id := 0, g := 0, cid := 0, kind := .amo o.toNat, cls := c.toNat, loc := l, size := n, data, expect,
                                dest := dst, token := some s.cur.pfx.token, owner, held, hidx }
  setPending s dst s.cur.pfx.token

/-- An atomic on scratch. -/
def amoScratch (s : State) (v : BitVec 6) (b : BitVec 4) (x : BitVec 6) (o c : BitVec 4) (n : Nat) : State :=
  let r := curCtx s
  let base := rdA r 0 b.toNat
  let idx := rdS r x.toNat
  let vs := amoOperands s v o
  let a := (base.w + idx.w).toNat
  consumeWith s (base :: idx :: vs) (checkOn [base, idx] (alignCheck a n)) id fun s =>
    match scratchError s s.cur.g a n with
      | some e => postPoison (.s v.toNat) stErr (errorResponse s 0 a e 2) .memerr (some c.toNat)
      | none => needCredit s (.scratch a) fun s =>
          issueAmo s v o c (.scratch a) a n ((vs.headD ⟨0#64, none⟩).w) (expectOf vs) none 0

/-- AMO of 4 bytes. (R128) -/
def execAmo32 (v : BitVec 6) (b : BitVec 4) (x : BitVec 6) (o c : BitVec 4) (s : State) : Host.Outcome State Fault Refusal :=
  .next (amoScratch s v b x o c 4)
/-- AMO of 8 bytes. (R128) -/
def execAmo64 (v : BitVec 6) (b : BitVec 4) (x : BitVec 6) (o c : BitVec 4) (s : State) : Host.Outcome State Fault Refusal :=
  .next (amoScratch s v b x o c 8)

/-- An atomic through a handle. -/
def amoHandle (s : State) (v : BitVec 6) (h : BitVec 4) (x : BitVec 6) (o c : BitVec 4) (n : Nat) : State :=
  let idx := rdS (curCtx s) x.toNat
  let vs := amoOperands s v o
  consumeH s false h.toNat idx.w n (idx :: vs) (fun s _ => s) (fun s hv =>
    if !handleAligned hv idx.w n then trapWith s .align
    else checked s h.toNat hv idx.w n 2 (fun s => postPoison (.s v.toNat) stErr s .memerr (some c.toNat)) fun s l held =>
      issueAmo s v o c l (handleVa s (curFen s) hv idx.w.toNat) n ((vs.headD ⟨0#64, none⟩).w) (expectOf vs) held (Handle.ofWord hv).index)
    (handleCheck s h.toNat idx n)

/-- AMOH of 4 bytes. (R128) -/
def execAmoh32 (v : BitVec 6) (h : BitVec 4) (x : BitVec 6) (o c : BitVec 4) (s : State) : Host.Outcome State Fault Refusal :=
  .next (amoHandle s v h x o c 4)
/-- AMOH of 8 bytes. (R128) -/
def execAmoh64 (v : BitVec 6) (h : BitVec 4) (x : BitVec 6) (o c : BitVec 4) (s : State) : Host.Outcome State Fault Refusal :=
  .next (amoHandle s v h x o c 8)

/-! ### Resting reductions (R129) -/

/-- A reduction reaches the combining buffer (R129, R307, R365). It freezes its engine, as a lost bank does, while it cannot. Its entry's
application follows the earlier accesses of its class, and of its group the loads and the writes of a common byte (R127, R307). -/
def restRed (s : State) (op cls size : Nat) (l : Loc) (place : Nat) (v : Word) (hidx : Nat := 0) : State :=
  let k := curCore s
  let cid := (curCtx s).cid
  let (m, s1) := olOwner s cid 2 (redKey op cls size k) place
  match contribute s1 k s.cur.g cid m op cls size l v hidx (precedes s cid cls false l size) with
  | some t => t
  | none =>
    let replay := (launchOf s m.1).olmode == 2#2 && m.1 ≠ 0
    freeze (if replay then olHold s (curFen s) (2 * (5 * s.cur.g) + 1) else s)

/-- A reduction on scratch: checked at the issuing core; a failed check is a store error of its class (R129). -/
def redScratch (s : State) (v : BitVec 6) (b : BitVec 4) (x : BitVec 6) (o c : BitVec 4) (n : Nat) : State :=
  let r := curCtx s
  let base := rdA r 0 b.toNat
  let idx := rdS r x.toNat
  let w := rdS r v.toNat
  let a := (base.w + idx.w).toNat
  consumeWith s [base, idx, w] (checkOn [base, idx] (alignCheck a n)) id fun s =>
    match scratchError s s.cur.g a n with
      | some e => storeError (errorResponse s 0 a e 2) (curCtx s).cid c.toNat
      | none => restRed s o.toNat c.toNat n (.scratch a) a w.w

/-- RED of 4 bytes. (R129) -/
def execRed32 (v : BitVec 6) (b : BitVec 4) (x : BitVec 6) (o c : BitVec 4) (s : State) : Host.Outcome State Fault Refusal :=
  .next (redScratch s v b x o c 4)
/-- RED of 8 bytes. (R129) -/
def execRed64 (v : BitVec 6) (b : BitVec 4) (x : BitVec 6) (o c : BitVec 4) (s : State) : Host.Outcome State Fault Refusal :=
  .next (redScratch s v b x o c 8)

/-- A reduction through a handle (R129, R325): against an absent entry it is held at its check point. -/
def redHandle (s : State) (v : BitVec 6) (h : BitVec 4) (x : BitVec 6) (o c : BitVec 4) (n : Nat) : State :=
  let idx := rdS (curCtx s) x.toNat
  let w := rdS (curCtx s) v.toNat
  consumeH s false h.toNat idx.w n [idx, w] (fun s _ => s) (fun s hv =>
    if !handleAligned hv idx.w n then trapWith s .align
    else match checkHandle s (curFen s) hv idx.w.toNat n 2 (atM s) with
      | .fail r => storeError (errorResponse s 3 (handleBits hv) r 2) (curCtx s).cid c.toNat
      | .absent =>
        let (owner, s) := olOwner s (curCtx s).cid 2 (redKey o.toNat c.toNat n (curCore s)) (handleVa s (curFen s) hv idx.w.toNat)
        (issueAccess s { id := 0, g := 0, cid := 0, kind := .red o.toNat, cls := c.toNat, loc := .phys 0, size := n, data := w.w, owner,
                         held := some (h.toNat, hv, idx.w), contrib := [(curCtx s).cid], hidx := (Handle.ofWord hv).index }).2
      | .pass pa =>
        restRed s o.toNat c.toNat n (.phys pa) (handleVa s (curFen s) hv idx.w.toNat) w.w (Handle.ofWord hv).index)
    (handleCheck s h.toNat idx n)

/-- REDH of 4 bytes. (R129) -/
def execRedh32 (v : BitVec 6) (h : BitVec 4) (x : BitVec 6) (o c : BitVec 4) (s : State) : Host.Outcome State Fault Refusal :=
  .next (redHandle s v h x o c 4)
/-- REDH of 8 bytes. (R129) -/
def execRedh64 (v : BitVec 6) (h : BitVec 4) (x : BitVec 6) (o c : BitVec 4) (s : State) : Host.Outcome State Fault Refusal :=
  .next (redHandle s v h x o c 8)

/-! ### FENCE and PUBL -/

/-- FENCE: waits for the condition of its kind; a pending store error of a named class traps instead. (R123, R130, R132) -/
def execFence (k : BitVec 2) (p : BitVec 3) (m : BitVec 16) (s : State) : Host.Outcome State Fault Refusal :=
  .next (if pendingErrors (curCtx s) &&& m != 0#16 then trapWith s .memerr
    else if waitMet (beforeGroup s) s.cur.g s.cur.e (.fence k.toNat p.toNat m) then s
    else waitOn s (.fence k.toNat p.toNat m))

/-- PUBL: publishes the selected shadow destinations in one act, once nothing issued before still writes them. (R133) -/
def execPubl (a : BitVec 6) (s : State) : Host.Outcome State Fault Refusal :=
  let v := if a = 0#6 then ⟨BitVec.allOnes 64, none⟩ else rdS (curCtx s) a.toNat
  .next (heldOperand s v fun s m =>
    if waitMet (beforeGroup s) s.cur.g s.cur.e (.publ m) then
      let s := publish s s.cur.g (curCtx s).cid m.toNat
      if s.cur.pfx.t then raiseTok s (curCtx s).cid s.cur.pfx.token 1 0#32 else s
    else waitOn s (.publ m))

/-! ### Events of accesses in flight -/

/-- Perform access `id` when it can. -/
def performId (s : State) (id : Nat) (red : Bool) : State :=
  match s.accs.find? fun a => a.id == id && a.isRed == red with
  | some a =>
    if canPerform s a then
      let (won, s) := askBanks s a.need
      if won then applyAccess s a else s
    else s
  | none => s

/-- PACKET_APPLIED: a load, store or atomic performs at its home, next in its stream. (R301, R353) -/
def execPacketApplied (id : Nat) (s : State) : Host.Outcome State Fault Refusal := .next (performId s id false)

/-- REDUCTION_APPLIED: a flushed reduction performs at its home as one write. (R129, R307) -/
def execReductionApplied (id : Nat) (s : State) : Host.Outcome State Fault Refusal := .next (performId s id true)

/-- CREDIT_RETURN: a core gets back the credit of a receive agent. (R352) -/
def execCreditReturn (core agent : Nat) (s : State) : Host.Outcome State Fault Refusal :=
  if core < 96 then .next (modCore s core fun c => { c with spent := tmod 0 c.spent agent (· - 1) }) else .fault .noSuchObject

/-- OPERATION_COMPLETES: the result lands in its context and the token rises in the same clock. (R21, R242, R245) -/
def execOperationCompletes (id : Nat) (s : State) : Host.Outcome State Fault Refusal :=
  match s.posted.find? (·.id == id) with
  | none => .next s
  | some p =>
    let s1 := { s with posted := s.posted.filter (·.id != id) }
    let s2 := arriveAt s1 p.cid { left := 0, dest := p.dest, val := .word p.val, poison := p.poison, grp := p.grp }
    .next (match p.token with
      | some t => raiseTok s2 p.cid t 1 p.status
      | none => s2)

/-- TIMEOUT_FIRES: the detector of a lane whose packet has not moved for 2,048 clocks fires. (R354) -/
def execTimeoutFires (id : Nat) (s : State) : Host.Outcome State Fault Refusal :=
  .next (modPacket s id fun a => match a.place with
    | .lane r p l m _ => if m + 2048 ≤ s.clock then { a with place := .lane r p l m true } else a
    | _ => a)

/-- Packets of a router whose detector has fired, least port and lane first (R355). -/
def firedAt (s : State) (r : Nat) : List Packet :=
  sortBy (fun a b => match a.place, b.place with
    | .lane _ p l _ _, .lane _ p' l' _ _ => p < p' || (p == p' && l ≤ l')
    | _, _ => true)
    (s.mesh.filter fun a => match a.place with | .lane r' _ _ _ f => r' == r && f | _ => false)

/-- WISP_CAPTURE: the Wisp has reached a router with a fired detector: it drains one packet into its Slough lane. The Wisp passes to the
next router at the end of the clock. A full Slough buffer takes no packet. (R355, R356) -/
def execWispCapture (die : Nat) (s : State) : Host.Outcome State Fault Refusal :=
  if 2 ≤ die then .fault .noSuchObject
  else
    let w := (dieOf s die).wisp
    let r := die * 48 + w
    .next (match firedAt s r with
      | a :: _ =>
        if tget 0 (dieOf s die).sloughs r ≠ 0 then s else enterSlough (countEv s (coreOf s a.k).fen a.k 14 1) a r
      | [] => s)

/-- SLOUGH_ARRIVAL: a drained packet reaches its receive agent, unaltered. (R356) -/
def execSloughArrival (id : Nat) (s : State) : Host.Outcome State Fault Refusal :=
  .next (match s.mesh.find? (·.id == id) with
    | some a => match a.place with
      | .slough r => if a.due ≤ s.clock && r = a.dest then leaveSlough (modPacket s id fun x => { x with place := .arrived }) r else s
      | _ => s
    | none => s)

end Sys2Proof.Machine
end

