-- ==== Sys2Proof/Machine/Handles.lean ====
section
/-! DEFINITION. TRN and the walk (R134, R317, R318), the handle functions (R135), and the effects of XINV (R319, R322). -/

namespace Sys2Proof.Machine
open Sys2Proof

/-- A word of S and M only: PRIV below (R32, R56). -/
def privileged (s : State) (k : State → State) : State := if (curCtx s).pl = 0#2 then trapWith s .priv else k s

/-! ### TRN -/

/-- A handle result of TRN: by token with the prefix, else at latency 10. -/
def trnResult (s : State) (d : Dest) (v : Val) : State :=
  if s.cur.pfx.t then postResult s d v 0#32 else land s 10 d v

/-- TRN: Table 5.7. (R134, R317) -/
def execTrn (d : BitVec 4) (a : BitVec 6) (p : BitVec 1) (k : BitVec 2) (s : State) : Host.Outcome State Fault Refusal :=
  let v := rdS (curCtx s) a.toNat
  let dst := Dest.h d.toNat
  let va := v.w.toNat
  .next (consumeSp s (p == 1#1) [v] (fun s c => trnResult s dst (poisonHandle v.w c)) fun s =>
    if va ≥ 2 ^ 56 then trnResult s dst (poisonHandle v.w .badva)
    else match (coreOf s (curCore s)).l1.find? fun t => t.serves s (curFen s) va with
      | some t =>
        trnResult s dst (if t.allows k.toNat (atM s) then ⟨trnHandle s t va k.toNat, none⟩ else poisonHandle v.w .perm)
      | none =>
        let (id, s) := freshId (countEv s (curFen s) (curCore s) 11 1)
        let (n, s) := draw s
        let w : WalkOp := { id, g := s.cur.g, cid := (curCtx s).cid, fen := curFen s, va := v.w, acc := k.toNat, atM := atM s,
                            dest := if s.cur.pfx.t then dst else .none,
                            token := if s.cur.pfx.t then some s.cur.pfx.token else none, due := s.clock + n, grp := (curEng s).grp }
        let s := { s with walks := s.walks ++ [w] }
        if s.cur.pfx.t then setPending s dst s.cur.pfx.token else land s 10 dst (poisonHandle v.w .xlate))

/-- What a walk gives a TRN with prefix: the handle value and the status bits (Table 5.7, R318). -/
def walkResult (s : State) (w : WalkOp) : FillOut → Val × BitVec 32
  | .found t =>
    if t.allows w.acc w.atM then (⟨trnHandle s t w.va.toNat w.acc, none⟩, stWalk) else (poisonHandle w.va .perm, stWalk ||| stPerm)
  | .full => (poisonHandle w.va .htfull, stWalk)
  | .nopage mal => (poisonHandle w.va (if mal then .notpresentMal else .notpresent), stWalk ||| stNotpresent)

/-- Table entries that a walk is to read: none when the die's level-2 cache serves it (R317). -/
def walkReads (s : State) (w : WalkOp) : List Nat :=
  if (dieOf s (dieNo (coreNo w.g))).l2.any fun t => t.serves s w.fen w.va.toNat then []
  else walkAddrs s (fenOf s w.fen) w.va.toNat walkPlan (rootOf (fenOf s w.fen))

/-- A regulator holds a read of a walk (R380). -/
def walkHeld (s : State) (w : WalkOp) : Bool :=
  (regulAll s w.fen 0 (coreNo w.g) (8 * w.id + 3) ((walkReads s w).map fun a => (a, 8))).isNone

/-- WALK: a fill ends. It writes both caches when it finds the page; the result of a TRN with prefix lands and its token rises.
(R314 to R318) -/
def execWalk (id : Nat) (s : State) : Host.Outcome State Fault Refusal :=
  match s.walks.find? (·.id == id) with
  | none => .next s
  | some w =>
    if walkHeld s w then .next s
    else
    let (out, s1) := fillTlb { s with walks := s.walks.filter (·.id != id) } (coreNo w.g) w.fen w.va.toNat (8 * w.id + 3)
    .next (match w.token with
      | none => s1
      | some t =>
        let (v, st) := walkResult s1 w out
        raiseTok (arriveAt s1 w.cid { left := 0, dest := w.dest, val := .word v.w, poison := v.p, grp := w.grp }) w.cid t 1 st)

/-! ### Handle functions (Table 5.8) -/

/-- HMOV: ha with its tags. (R135) -/
def execHmov (d a : BitVec 4) (s : State) : Host.Outcome State Fault Refusal :=
  .next (land s 1 (.h d.toNat) (rdH (curCtx s) a.toNat))

/-- HRD: the value of ha with its tags. (R135) -/
def execHrd (d : BitVec 6) (a : BitVec 4) (s : State) : Host.Outcome State Fault Refusal :=
  .next (land s 1 (.s d.toNat) (rdH (curCtx s) a.toNat))

/-- HWR: read(sa) with its tags. (R135) -/
def execHwr (d : BitVec 4) (a : BitVec 6) (s : State) : Host.Outcome State Fault Refusal :=
  .next (land s 1 (.h d.toNat) (rdS (curCtx s) a.toNat))

/-- The violation record of a handle function whose handle fails. KIND is free: no row of Table 18.5 names one (log 6). -/
def handleError (s : State) (hv : Word) (reason : Nat) : State :=
  errorResponse { s with free := s.free + 1 } 3 (handleBits hv) reason ((Config.freeWord s.free).toNat % 4)

/-- HNARROW: a new entry for a narrower window, and its handle. (R135, R320) -/
def execHnarrow (d a : BitVec 4) (b : BitVec 6) (s : State) : Host.Outcome State Fault Refusal :=
  let dst := Dest.h d.toNat
  let hv := rdH (curCtx s) a.toNat
  let r := rdS (curCtx s) b.toNat
  let fen := curFen s
  .next (match hv.p with
    | some c => landPoison 2 dst s ((meet (some c) r.p).getD c)
    | none =>
      let h := Handle.ofWord hv.w
      match handleNames s fen h, r.p with
      | some e, p => landPoison 2 dst (handleError s hv.w e) ((meet (some .memerr) p).getD .memerr)
      | none, some c => landPoison 2 dst s c
      | none, none =>
        let e := hentry s fen h.index
        let lo := h.off + bits r.w.toNat 0 32
        let hi := lo + bits r.w.toNat 32 32
        if lo < e.lo || e.hi < hi then landPoison 2 dst (handleError s hv.w 7) .memerr
        else match allocEntry s fen { e with lo, hi } with
          | none => landPoison 2 dst s .htfull
          | some (i, s) => land s 2 dst ⟨(Handle.mk h.fen h.acc (hentry s fen i).gen i lo).word, none⟩)

/-- HREV: frees the entry that a handle names, once every earlier access of the sub-core through it has performed; a handle that
names none is logged. (R135, R322) -/
def execHrev (a : BitVec 4) (s : State) : Host.Outcome State Fault Refusal :=
  .next (privileged s fun s => consumeH s false a.toNat 0#64 0 [] (fun s _ => s) fun s hv =>
    let h := Handle.ofWord hv
    match handleNames s (curFen s) h with
    | some e => handleError s hv e
    | none =>
      if waitMet (beforeGroup s) s.cur.g s.cur.e (.hrev h.index) then modHentry s (curFen s) h.index releaseEntry
      else waitOn s (.hrev h.index))

/-! ### XINV (R319) -/

/-- An effect of XINV on fen `fen`. -/
def xinvEvent (s : State) (fen : Nat) (va : BitVec 56) (mode : Nat) : Host.Outcome State Fault Refusal :=
  if fen < 16 then .next (xinv s fen va.toNat mode) else .fault .noSuchObject

/-- XINV_FLUSH (R319) -/
def execXinvFlush (fen : Nat) (va : BitVec 56) (s : State) : Host.Outcome State Fault Refusal := xinvEvent s fen va 0
/-- XINV_REVOKE (R319) -/
def execXinvRevoke (fen : Nat) (va : BitVec 56) (s : State) : Host.Outcome State Fault Refusal := xinvEvent s fen va 1
/-- XINV_SUSPEND (R319) -/
def execXinvSuspend (fen : Nat) (va : BitVec 56) (s : State) : Host.Outcome State Fault Refusal := xinvEvent s fen va 2
/-- XINV_RESUME (R319) -/
def execXinvResume (fen : Nat) (va : BitVec 56) (s : State) : Host.Outcome State Fault Refusal := xinvEvent s fen va 3

end Sys2Proof.Machine
end

