-- ==== Sys2Proof/Machine/RingQueue.lean ====
section
/-! DEFINITION. Program rings (R136, R289 to R293), fed rings (R137, R294), queues (R138), PARK (R139, R297) and leases (R140). -/

namespace Sys2Proof.Machine
open Sys2Proof

/-! ### Ring functions (Table 5.9) -/

/-- A descriptor that ring functions accept: b16–b63, a program ring, its positions in order (R136, R291). -/
def ringOk (b : BitVec 6) (r : Ring) : Bool :=
  16 ≤ b.toNat && r.kind == 1#2 && ringOrder r

/-- The phase array lies in the program area of the core's own slice (R290). -/
def phaseOk (k : Nat) (r : Ring) : Bool :=
  k * 0x80_0000 ≤ r.phase.toNat && r.phase.toNat + r.count.toNat ≤ k * 0x80_0000 + 0x59_0000

/-- The accesses of the executing context in flight: what a release at CORE scope for every class covers (R305). -/
def releaseSet (s : State) : List Nat := (s.accs.filter fun a => a.cid == (curCtx s).cid).map (·.id)

/-- A ring that also releases the executing sub-core's earlier accesses. -/
def Ring.releasing (r : Ring) (s : State) : Ring :=
  { r with rel := ((r.rel.filter fun i => s.accs.any (·.id == i)) ++ releaseSet s).eraseDups }

/-- The descriptor that a ring function names, checked: RINGERR when it is none. -/
def withRing (s : State) (b : BitVec 6) (k : State → Ring → State) : State :=
  let r := ringOf s (curCore s) b.toNat
  if ringOk b r then k s r else trapWith s .ringerr

/-- RCLAIM: claims n positions once they fit, and answers the first. (R136) -/
def execRclaim (d b x : BitVec 6) (s : State) : Host.Outcome State Fault Refusal :=
  .next (heldOperand s (rdS (curCtx s) x.toNat) fun s n => withRing s b fun s r =>
    if n.toNat > r.count.toNat then trapWith s .ringerr
    else if waitMet (beforeGroup s) s.cur.g s.cur.e (.rclaim b.toNat n) then
      let (o, s) := olOwner s (curCtx s).cid 3 (curCore s) b.toNat
      let s := olDone s o.1 (olPlace 3 (curCore s) b.toNat) [olDec o.2.1 o.2.2.1 false]
      land (setRing s (curCore s) b.toNat { r with claim := r.claim + n }) 2 (.s d.toNat) ⟨r.claim, none⟩
    else waitOn s (.rclaim b.toNat n))

/-- The tail moved over every committed position in order. -/
def moveTail (s : State) (r : Ring) : Nat → Word → Word
  | 0, t => t
  | n + 1, t => if t.toNat < r.claim.toNat && phaseByte s r t.toNat == phaseOf r t.toNat then moveTail s r n (t + 1#64) else t

/-- RCOMMIT: writes the phase of a position and moves the tail; a release at CORE scope. (R136) -/
def execRcommit (b x : BitVec 6) (s : State) : Host.Outcome State Fault Refusal :=
  let v := rdS (curCtx s) x.toNat
  .next (consume s [v] fun s => withRing s b fun s r =>
    let p := v.w.toNat
    if !phaseOk (curCore s) r || p < r.head.toNat || r.claim.toNat ≤ p || p < r.tail.toNat || phaseByte s r p == phaseOf r p then
      trapWith s .ringerr
    else
      let w := r.phase.toNat + p % r.count.toNat
      let s := useBanks (writeScratchHome s w [phaseOf r p]) (.scratch w) 1
      setRing s (curCore s) b.toNat ({ r with tail := moveTail s r r.count.toNat r.tail }.releasing s))

/-- A ring wait is met; a position far below head sets STALE (R292). -/
def ringWaitMet (s : State) (b : BitVec 6) (r : Ring) (p : Word) : State :=
  if p.toNat + 32768 ≤ r.head.toNat then setRing s (curCore s) b.toNat { r with stale := true } else s

/-- RWAITF: waits until a position is committed. (R136, R292) -/
def execRwaitf (b x : BitVec 6) (s : State) : Host.Outcome State Fault Refusal :=
  .next (heldOperand s (rdS (curCtx s) x.toNat) fun s p => withRing s b fun s r =>
    if !phaseOk (curCore s) r then trapWith s .ringerr
    else if waitMet (beforeGroup s) s.cur.g s.cur.e (.rwaitf b.toNat p) then ringWaitMet s b r p
    else waitOn s (.rwaitf b.toNat p))

/-- RWAITE: waits until a position's slot is free. (R136, R292) -/
def execRwaite (b x : BitVec 6) (s : State) : Host.Outcome State Fault Refusal :=
  .next (heldOperand s (rdS (curCtx s) x.toNat) fun s p => withRing s b fun s r =>
    if waitMet (beforeGroup s) s.cur.g s.cur.e (.rwaite b.toNat p) then ringWaitMet s b r p
    else waitOn s (.rwaite b.toNat p))

/-- RREL: releases n positions at head; a release at CORE scope. (R136) -/
def execRrel (b x : BitVec 6) (s : State) : Host.Outcome State Fault Refusal :=
  let v := rdS (curCtx s) x.toNat
  .next (consume s [v] fun s => withRing s b fun s r =>
    if v.w = 0#64 || r.tail.toNat < r.head.toNat + v.w.toNat then trapWith s .ringerr
    else setRing s (curCore s) b.toNat ({ r with head := r.head + v.w }.releasing s))

/-- RTAIL: reads the tail. (R136) -/
def execRtail (d b : BitVec 6) (s : State) : Host.Outcome State Fault Refusal :=
  .next (withRing s b fun s r => land s 2 (.s d.toNat) ⟨r.tail, none⟩)

/-! ### Fed rings -/

/-- Slots that a fed ring can hold, with the extensions that the Mere has lent (R294, R298). -/
def fedCap (r : Ring) : Nat := r.count.toNat + 16 * r.ext

/-- Write the slot at the tail of a fed ring and advance the tail: the slot can be read three clocks on (R232), once the sub-core's
accesses in flight have performed (R137). -/
def pushSlot (s : State) (k b : Nat) (bs : List Byte) : State :=
  let r := ringOf s k b
  let t := r.tail.toNat
  let beyond := r.count.toNat ≤ t - r.head.toNat
  let l := Loc.scratch (r.base.toNat + 16 * (t % max 1 r.count.toNat))
  let s := if beyond then s else useBanks (writeView s (curCtx s).cid l bs) l 16
  setRing s k b { r with tail := r.tail + 1#64, claim := r.tail + 1#64,
                         extSlots := if beyond then tset r.extSlots t bs else r.extSlots,
                         ready := tset (r.ready.filter fun (p, _) => r.head.toNat ≤ p) t (s.clock + 3),
                         relAt := tset (r.relAt.filter fun (p, _) => r.head.toNat ≤ p) t (releaseSet s) }

/-- CPUSH: writes one slot of a fed engine ring from two registers; a release at CORE scope. A full ring freezes. (R137, R294) -/
def execCpush (b x : BitVec 6) (s : State) : Host.Outcome State Fault Refusal :=
  let lo := rdS (curCtx s) x.toNat
  let hi := rdS (curCtx s) (x.toNat + 1)
  let k := curCore s
  .next (consume s [lo, hi] fun s =>
    let r := ringOf s k b.toNat
    if r.kind ≠ 3#2 then trapWith s .ringerr
    else if fedCap r ≤ r.tail.toNat - r.head.toNat then freezeOn s (10 + b.toNat)
    else pushSlot s k b.toNat (leBytes 8 lo.w.toNat ++ leBytes 8 hi.w.toNat))

/-! ### Queues (R23, R138) -/

/-- Push a value with its tags; a full queue freezes. -/
def pushTo (s : State) (q : Nat) (v : Val) : State :=
  let c := curCtx s
  if queueCap c q ≤ (queueOfCtx c q).length then freezeOn s q else modCur s fun c => pushQ c q v s.clock

/-- QPUSH (R138) -/
def execQpush (a : BitVec 6) (q : BitVec 3) (s : State) : Host.Outcome State Fault Refusal :=
  .next (pushTo s q.toNat (rdS (curCtx s) a.toNat))

/-- QPOP: an empty queue freezes. (R138) -/
def execQpop (d : BitVec 6) (q : BitVec 3) (s : State) : Host.Outcome State Fault Refusal :=
  .next (match headQ (curCtx s) q.toNat s.clock with
    | none => freeze s
    | some e => land (modCur s fun c => popQ c q.toNat) 1 (.s d.toNat) ⟨e.val, e.poison⟩)

/-- BQPUSH: pushes 1 when the register is not zero, with its poison. (R138) -/
def execBqpush (a : BitVec 6) (s : State) : Host.Outcome State Fault Refusal :=
  let v := rdS (curCtx s) a.toNat
  .next (pushTo s 6 ⟨Word.ofBool (v.w != 0#64), v.p⟩)

/-! ### Parking (R139, R297) -/

/-- PARK: enters the wait table when the word equals the expected value and the table has room, and stops issuing. An address that gives
an error response writes a violation record of KIND read (R123, R323; DESIGN CHOICE, log 105). (R139) -/
def execPark (a b : BitVec 6) (c : BitVec 4) (s : State) : Host.Outcome State Fault Refusal :=
  let x := rdS (curCtx s) a.toNat
  let e := rdS (curCtx s) b.toNat
  let k := curCore s
  let addr := x.w.toNat
  let err := scratchError s s.cur.g addr 8
  let check := if addr / 0x80_0000 ≠ k || err.isSome then some Cause.memerr else if addr % 8 ≠ 0 then some .align else none
  let log := fun (s : State) => match err with | some r => logViolation s (curFen s) 0 addr r s.cur.e 0 s.cur.g | none => s
  .next (consumeWith s [x, e] (checkOn [x] check) log fun s =>
    if parkBlocked (beforeGroup s) s.cur.g c.toNat addr then waitOn s (.prior c.toNat addr)
    else
    let s := useBanks s (.scratch addr) 8
    if badView s (curCtx s).cid (.scratch addr) 8 then trapWith s .memerr
    else if BitVec.ofNat 64 (leNat (readView s (curCtx s).cid (.scratch addr) 8)) ≠ e.w then s
    else if 32 ≤ (coreOf s k).waits.length then s
    else
      let w : WaitEntry := { addr, g := s.cur.g, cid := (curCtx s).cid }
      let s := modCore s k fun c => { c with waits := c.waits ++ [w] }
      modCurEng s fun x => { x with wait := some .parked, held := [(s.cur.addr, BitVec.ofNat 64 s.cur.grp)] })

/-! ### Leases (R14, R140) -/

/-- The lease of a unit of a core: 0 matrix array, 1 scan engine. -/
def leaseOf (c : Core) (unit : Nat) : Lease := if unit = 0 then c.mlease else c.slease
def setLease (c : Core) (unit : Nat) (l : Lease) : Core := if unit = 0 then { c with mlease := l } else { c with slease := l }
def requestOf (c : Ctx) (unit : Nat) : Option LeaseReq := if unit = 0 then c.mreq else c.sreq
def setRequest (c : Ctx) (unit : Nat) (r : Option LeaseReq) : Ctx := if unit = 0 then { c with mreq := r } else { c with sreq := r }

/-- End the grant that sub-core `g` holds on a unit. -/
def endGrant (s : State) (g unit : Nat) : State :=
  modCore s (coreNo g) fun c =>
    let l := leaseOf c unit
    if l.holder = some (g % 4) then setLease c unit { l with holder := none, left := 0 } else c

/-- MLEASE: requests the matrix array; a new run length serves from the next grant on. (R140) -/
def execMlease (n : BitVec 7) (s : State) : Host.Outcome State Fault Refusal :=
  .next (modCur s fun c => setRequest c 0 (some { run := n.toNat }))
/-- SLEASE (R140) -/
def execSlease (n : BitVec 7) (s : State) : Host.Outcome State Fault Refusal :=
  .next (modCur s fun c => setRequest c 1 (some { run := n.toNat }))
/-- MREL: withdraws the request and ends the grant. (R140) -/
def execMrel (s : State) : Host.Outcome State Fault Refusal :=
  .next (endGrant (modCur s fun c => setRequest c 0 none) s.cur.g 0)
/-- SREL (R140) -/
def execSrel (s : State) : Host.Outcome State Fault Refusal :=
  .next (endGrant (modCur s fun c => setRequest c 1 none) s.cur.g 1)

/-- A sub-core is a requester that a grant may go to: its port has not executed ESTOP in the step (R140). -/
def requests (s : State) (g unit : Nat) : Bool :=
  (requestOf (ctxOf s g) unit).isSome && !(engOf (ctxOf s g) 4).stopped && (subOf s g).swapLeft == 0

/-- LEASE_GRANT: a free unit goes to the first requester after its last holder. (R14) -/
def execLeaseGrant (core unit : Nat) (s : State) : Host.Outcome State Fault Refusal :=
  if 96 ≤ core || 2 ≤ unit then .fault .noSuchObject
  else
    let l := leaseOf (coreOf s core) unit
    .next (if l.holder.isSome then s
      else match ([1, 2, 3, 4].map fun i => (l.last + i) % 4).find? fun m => requests s (4 * core + m) unit with
        | none => s
        | some m =>
          let run := match requestOf (ctxOf s (4 * core + m)) unit with | some r => r.run | none => 0
          modCore s core fun c => setLease c unit { holder := some m, left := run, last := m })

end Sys2Proof.Machine
end

