-- ==== Sys2Proof/Machine/SysRegs.lean ====
section
/-! DEFINITION. System registers and counters (R224, R225, Tables 8.6 and 8.9): CSRR, CSRW and the writes that act, CNTR, and
RAND (R141). -/

namespace Sys2Proof.Machine
open Sys2Proof

/-! ### Values -/

/-- Keep bits [hi:lo] of a word. -/
def keep (w : Word) (hi lo : Nat) : Word := BitVec.ofNat 64 (bits w.toNat lo (hi - lo + 1) * 2 ^ lo)

/-- The cores of a fen in state MEMBER or JOINING (Table 23.1). -/
def fenCores (s : State) (f : Nat) : List Nat :=
  (List.range 96).filter fun c => let k := coreOf s c; k.fen == f && (k.st == .member || k.st == .joining)

/-- FENID: the owning fen, or 0xFF in SCRUB and UNOWNED (Tables 1.8 and 23.2). -/
def fenId (s : State) (core : Nat) : Nat :=
  match (coreOf s core).st with
  | .member | .leaving | .joining => (coreOf s core).fen
  | .scrub | .unowned => 0xFF

/-- The entries of the sequencer's in-flight queue, in issue order (R335). -/
def ifqEntries (c : Ctx) : List (List Landing) :=
  ((c.ifqS.map (·.grp)).eraseDups).map fun n => c.ifqS.filter (·.grp == n)

/-- The entry that IFQSEL names. -/
def ifqEntry (c : Ctx) : List Landing := nth [] (ifqEntries c) c.tr.ifqsel.toNat

/-- Slot j of an in-flight entry's descriptor (Table 19.5). -/
def ifqSlot (l : Landing) (j : Nat) : Nat :=
  let fn := match l.dest with | .s n => (0, n) | .h n => (1, n) | _ => (0, 0)
  let p := match l.poison with | some c => 2 ^ 5 + causeCode c * 2 | none => 0
  (2 ^ 19 + fn.1 * 2 ^ 17 + fn.2 * 2 ^ 11 + l.left * 2 ^ 6 + p) * 2 ^ (20 * j)

/-- IFQD (Table 19.5). -/
def ifqd (c : Ctx) : Word :=
  BitVec.ofNat 64 (((ifqEntry c).take 3).zipIdx.foldl (fun a (l, j) => a + ifqSlot l j) 0)

/-- IFQV0 to IFQV2. -/
def ifqv (c : Ctx) (j : Nat) : Word :=
  match ((ifqEntry c).drop j).head? with
  | some l => match l.val with | .word w => w | .vec _ => 0#64
  | none => 0#64

/-- WPF and WPS (Table 15.6). -/
def channelWord (s : State) (c : Ctx) (e : Nat) : Word :=
  match s.xfers.find? fun x => x.cid == c.cid && x.eng == e with
  | some x =>
    let none_ := x.major == 0x44 || (e == 2 && x.major == 0x43)
    BitVec.ofNat 64 (x.num % 2 ^ 32 * 2 ^ 32 + (if none_ then 0 else x.done % 2 ^ 32))
  | none => BitVec.ofNat 64 ((if e = 2 then c.recF else c.recS) % 2 ^ 32 * 2 ^ 32)

/-- RDCFG (Table 15.3). -/
def rdcfgWord (r : Ring) : Word :=
  BitVec.ofNat 64 (r.kind.toNat * 2 ^ 62 + r.ssz.toNat * 2 ^ 52 + bnat (r.kind == 3#2) * 2 ^ 48 + r.count.toNat * 2 ^ 32 + r.base.toNat)

/-- RDHEAD: for a static engine ring the address of the engine's next group (Table 15.2). -/
def rdheadWord (s : State) (k b : Nat) : Word :=
  let r := ringOf s k b
  if r.kind = 2#2 then BitVec.ofNat 64 (engOf (ctxOf s (4 * k + b / 4)) (b % 4 + 1)).pc else r.head

/-- QCFG of a queue that the fen owns (Table 23.5). -/
def qcfgWord (q : LQueue) : Word := BitVec.ofNat 64 (q.budget * 2 ^ 32 + q.thresh * 2 ^ 8 + q.prio)

/-- Budget left to a launch, in µs rounded down (R377, R379). -/
def budgetLeft (s : State) (l : Launch) : Nat :=
  match l.budget with
  | some (t, b) => (t + 1000 * b - s.clock) / 1000
  | none => 0

/-- QSTAT (Table 23.4). -/
def qstatWord (s : State) (q : LQueue) : Word :=
  BitVec.ofNat 64 (q.qdone.toNat * 2 ^ 32 + (match q.launches with | l :: _ => budgetLeft s l | [] => 0))

/-- REGRATE (Table 23.7). -/
def regrateWord (r : Regul) : Word := BitVec.ofNat 64 (r.pr * 2 ^ 48 + r.pb * 2 ^ 32 + r.cr * 2 ^ 16 + r.cb)

/-- Place of the regulator that REGSEL names; none where REGRATE reads 0. -/
def regPlace (sel : BitVec 8) : Option Nat :=
  let c := bits sel.toNat 6 2
  let h := bits sel.toNat 0 6
  if c < 3 && h < 48 then some (c * 64 + h) else none

/-- PEERST as the bound fen reads it (Table 21.2). -/
def peerstWord (p : Peers) : Word :=
  let fen := if p.nxtEn || p.prvEn then p.fen else 0
  BitVec.ofNat 64 (fen * 16 + bnat p.nxtUp * 8 + bnat p.prvUp * 4 + bnat p.nxtEn * 2 + bnat p.prvEn)

/-- XLOGA and XLOGI: the record that XLOGSEL names (R323). -/
def xrec (f : Fen) : XRec := nth { a := 0#64, i := 0#64 } f.xlog f.xlogsel.toNat

/-- The fen's usable handle-table entries (R322). -/
def htcapNow (f : Fen) : Nat := f.htcap - (f.ht.filter fun (i, e) => e.retired && 1 ≤ i && i ≤ f.htcap).length

/-- Bytes of the Mere lent to a fen (R299). -/
def mereUse (s : State) (f : Nat) : Nat := tget 0 (dieOf s 0).mere f + tget 0 (dieOf s 1).mere f

/-- A register's value as it stands (Table 8.9). -/
def readReg (s : State) (n : Nat) : Word :=
  let g := s.cur.g
  let k := coreNo g
  let c := curCtx s
  let t := c.tr
  let f := fenOf s (curFen s)
  let r := ringOf s k c.rdsel.toNat
  let cores := fenCores s (curFen s)
  let own := (queueOf s f.qsel.toNat).owner == some (curFen s)
  match n with
  | 0x000 => c.rmode.setWidth 64
  | 0x001 => c.fadefl.setWidth 64
  | 0x002 => c.rndseed
  | 0x003 => c.rndctr
  | 0x008 => BitVec.ofNat 64 k
  | 0x009 => BitVec.ofNat 64 g
  | 0x00A => BitVec.ofNat 64 (fenId s k)
  | 0x00B => BitVec.ofNat 64 cores.length
  | 0x00C => BitVec.ofNat 64 ((cores.filter (· < 64)).foldl (fun a i => a + 2 ^ i) 0)
  | 0x00D => BitVec.ofNat 64 ((cores.filter (64 ≤ ·)).foldl (fun a i => a + 2 ^ (i - 64)) 0)
  | 0x00E => f.fepoch
  | 0x010 => statusWord (subOf s g)
  | 0x018 => channelWord s c 2
  | 0x019 => channelWord s c 3
  | 0x020 => c.rdsel.setWidth 64
  | 0x021 => rdcfgWord r
  | 0x022 => if c.rdsel.toNat < 16 then 0#64 else r.phase.setWidth 64
  | 0x023 => rdheadWord s k c.rdsel.toNat
  | 0x024 => if r.kind = 2#2 then 0#64 else r.tail
  | 0x025 => if r.kind = 2#2 then 0#64 else r.claim
  | 0x026 => BitVec.ofNat 64 (bnat r.stale)
  | 0x100 => t.tcause
  | 0x101 => t.tpc
  | 0x102 => t.tval
  | 0x103 => f.tvec
  | 0x104 => t.tscr
  | 0x105 => f.svec
  | 0x106 => t.ifqsel.setWidth 64
  | 0x107 => ifqd c
  | 0x108 => ifqv c 0
  | 0x109 => ifqv c 1
  | 0x10A => ifqv c 2
  | 0x10B => BitVec.ofNat 64 (c.ifqV.length % 64 * 2 ^ 8 + (ifqEntries c).length % 64)
  | 0x10C => f.tflog0
  | 0x10D => f.tflog1
  | 0x110 => f.qsel.setWidth 64
  | 0x111 => if own then qcfgWord (queueOf s f.qsel.toNat) else 0#64
  | 0x112 => if own then qstatWord s (queueOf s f.qsel.toNat) else 0#64
  | 0x114 => BitVec.ofNat 64 (f.wdmax * 2 ^ 32 + f.weight * 2 ^ 8 + f.pfloor)
  | 0x116 => f.fadedef.setWidth 64
  | 0x120 => f.cntsel.setWidth 64
  | 0x121 =>
    if f.cntsel.toNat < 32 then 0#64
    else let x := tget {} f.cntcfg f.cntsel.toNat
         BitVec.ofNat 64 (bnat x.en * 2 ^ 63 + x.core.toNat * 2 ^ 48 + x.event.toNat)
  | 0x128 => f.regsel.setWidth 64
  | 0x129 => match regPlace f.regsel with | some i => regrateWord (tget {} f.regul i) | none => 0#64
  | 0x140 => f.ptroot
  | 0x142 => BitVec.ofNat 64 (htcapNow f)
  | 0x144 => BitVec.ofNat 64 f.xlogn
  | 0x145 => f.xlogsel.setWidth 64
  | 0x146 => (xrec f).a
  | 0x147 => (xrec f).i
  | 0x148 => t.frec0
  | 0x149 => t.frec1
  | 0x14A => t.frec2
  | 0x14B => t.frec3
  | 0x160 => f.ol.mode.setWidth 64
  | 0x161 => f.ol.base
  | 0x162 => f.ol.size.setWidth 64
  | 0x163 => f.ol.pos.setWidth 64
  | 0x164 => f.ol.stat.setWidth 64
  | 0x170 => if (s.peers.nxtEn || s.peers.prvEn) && s.peers.fen ≠ curFen s then 0#64 else peerstWord s.peers
  | 0x200 => s.svc.mtvec
  | 0x201 => t.mtcause
  | 0x202 => t.mtpc
  | 0x203 => t.mtval
  | 0x204 => t.mscr
  | 0x208 => s.svc.spbase
  | 0x210 => BitVec.ofNat 64 s.svc.limclk
  | _ => 0#64

/-- The state as CSRR and CNTR see it: with the effects of earlier clocks and none of this one (R224, R225). -/
def asSeen (s : State) : State :=
  match s.seen with
  | none => s
  | some x => { s with cores := x.cores, subs := x.subs, fens := x.fens, queues := x.queues, dies := x.dies, xfers := x.xfers,
                       peers := x.peers, svc := x.svc }

/-- What CSRR and CNTR are to see in the clock that begins. -/
def takeView (s : State) : State :=
  { s with seen := some { cores := s.cores, subs := s.subs, fens := s.fens, queues := s.queues, dies := s.dies, xfers := s.xfers,
                          peers := s.peers, svc := s.svc } }

/-- CSRR: zext of the register, at latency 2; a register above the level traps with PRIV. (R32, R224, R230) -/
def execCsrr (d : BitVec 6) (n : BitVec 12) (s : State) : Host.Outcome State Fault Refusal :=
  .next (match sysReg n.toNat with
    | none => trapWith s .illenc
    | some (r, _) => if (curCtx s).pl.toNat < r then trapWith s .priv else land s 2 (.s d.toNat) ⟨readReg (asSeen s) n.toNat, none⟩)

/-! ### Writes -/

/-- TCAUSE and MTCAUSE less their res0 bits (Table 19.4). -/
def tcauseMask (v : Word) : Word := v &&& 0x00000000FFFFF7FF#64

/-- A write to a register of the executing context's trap registers. -/
def writeTr (s : State) (m : TrapRegs → TrapRegs) : State := modCur s fun c => { c with tr := m c.tr }
def writeFen (s : State) (m : Fen → Fen) : State := modFen s (curFen s) m

/-- The descriptor that RDSEL names. -/
def writeRing (s : State) (m : Ring → Ring) : State :=
  let b := (curCtx s).rdsel.toNat
  setRing s (curCore s) b (m (ringOf s (curCore s) b))

/-- A write of descriptors b0–b15 below M is PRIV (R289). -/
def ringWritable (s : State) : Bool := 16 ≤ (curCtx s).rdsel.toNat || (curCtx s).pl == 3#2

/-- A program ring configuration is legal (R290). -/
def rdcfgOk (s : State) (v : Word) : Bool :=
  let x := v.toNat
  let base := bits x 0 32
  let count := bits x 32 16
  let ssz := bits x 52 4
  let lo := curCore s * 0x80_0000
  base % 64 == 0 && 4 ≤ ssz && 1 ≤ count && count ≤ 4096 && lo ≤ base && base + count * 2 ^ ssz ≤ lo + 0x59_0000

/-- Accesses that passed their checks against the page that contains `va` and have not performed (R319). -/
def pageAccesses (s : State) (fen va : Nat) : List Nat :=
  let onPage := fun (ps : List (Nat × Nat × Nat)) => ps.any fun (b, n, _) => b ≤ va && va < b + n
  (s.accs.filter fun a => a.held.isNone && (coreOf s (coreNo a.g)).fen == fen && onPage a.pages).map (·.id) ++
  s.cores.flatMap fun (_, c) => if c.fen = fen then (c.comb.filter fun e => onPage e.pages).map (·.id) else []

/-- Resting reductions that went through entries of the page leave their buffers, so that what XINV waits for performs (R319;
DESIGN CHOICE, log 96). -/
def flushPageReds (s : State) (fen va : Nat) : State :=
  s.cores.foldl (fun s (k, c) =>
    if c.fen == fen then
      (flushComb s k fun x => x.pages.any fun (b, n, _) => b ≤ va && va < b + n).2
    else s) s

/-- XINV (R319): the effect has its point in the first clock; the CSRW then holds issue until earlier accesses have performed. -/
def writeXinv (s : State) (v : Word) : State :=
  let fen := curFen s
  let va := bits v.toNat 12 44 * 2 ^ 12
  let mode := bits v.toNat 62 2
  if (heldWord s).isSome then s
  else
    let s := flushPageReds s fen va
    let ids := pageAccesses s fen va
    if ids = [] then xinv s fen va mode else waitOn s (.xinv fen va mode ids)

/-- RDHEAD of a static engine ring is the engine's next group (Table 15.2). -/
def writeRdhead (s : State) (v : Word) : State :=
  let b := (curCtx s).rdsel.toNat
  let k := curCore s
  if (ringOf s k b).kind = 2#2 then modCtx s (4 * k + b / 4) fun c => modEng c (b % 4 + 1) fun x => { x with pc := v.toNat % 2 ^ 32 }
  else writeRing s fun r => { r with head := v, pos := v.toNat }

/-- A CSRW of RDTAIL or RDCLAIM. For an engine ring the two are one value, which a static ring holds at 0 (Table 15.2; DESIGN CHOICE, log
109). -/
def writeRdtail (s : State) (v : Word) (claim : Bool) : State :=
  let engine := (curCtx s).rdsel.toNat < 16
  writeRing s fun r =>
    if engine then (if r.kind = 2#2 then r else { r with tail := v, claim := v })
    else if claim then { r with claim := v } else { r with tail := v }

/-- The effect of a CSRW of the registers that have no constructor of their own (Table 8.9). -/
def writeReg (s : State) (n : Nat) (v : Word) : State :=
  match n with
  | 0x000 => modCur s fun c => { c with rmode := v.setWidth 2, rmodeWas := some (s.clock, c.rmode) }
  | 0x002 => modCur s fun c => { c with rndseed := v }
  | 0x003 => modCur s fun c => { c with rndctr := v }
  | 0x020 => modCur s fun c => { c with rdsel := v.setWidth 6 }
  | 0x022 => if ringWritable s then writeRing s (fun r => { r with phase := v.setWidth 32 }) else trapWith s .priv
  | 0x023 => if ringWritable s then writeRdhead s v else trapWith s .priv
  | 0x024 => if ringWritable s then writeRdtail s v false else trapWith s .priv
  | 0x025 => if ringWritable s then writeRdtail s v true else trapWith s .priv
  | 0x026 => writeRing s fun r => { r with stale := r.stale && !bitAt v.toNat 0 }
  | 0x100 => writeTr s fun t => { t with tcause := tcauseMask v }
  | 0x101 => writeTr s fun t => { t with tpc := keep v 31 2 }
  | 0x103 => writeFen s fun f => { f with tvec := keep v 31 2 }
  | 0x104 => writeTr s fun t => { t with tscr := v }
  | 0x105 => writeFen s fun f => { f with svec := keep v 31 2 }
  | 0x106 => writeTr s fun t => { t with ifqsel := v.setWidth 6 }
  | 0x110 => writeFen s fun f => { f with qsel := v.setWidth 8 }
  | 0x120 => writeFen s fun f => { f with cntsel := v.setWidth 8 }
  | 0x128 => writeFen s fun f => { f with regsel := v.setWidth 8 }
  | 0x140 => writeFen s fun f => { f with ptroot := keep v 51 11 }
  | 0x141 => writeXinv s v
  | 0x145 => writeFen s fun f => { f with xlogsel := v.setWidth 4 }
  | 0x148 => writeTr s fun t => { t with frec0 := t.frec0 &&& ~~~ (keep v 63 62) }
  | 0x149 | 0x14A | 0x14B => s
  | 0x161 => writeFen s fun f => { f with ol := { f.ol with base := keep v 55 6 } }
  | 0x162 => writeFen s fun f => { f with ol := { f.ol with size := (keep v 31 6).setWidth 32 } }
  | 0x164 => writeFen s fun f => { f with ol := { f.ol with stat := f.ol.stat &&& ~~~ (v.setWidth 4) } }
  | 0x200 => { s with svc := { s.svc with mtvec := keep v 31 2 } }
  | 0x201 => writeTr s fun t => { t with mtcause := tcauseMask v }
  | 0x202 => writeTr s fun t => { t with mtpc := keep v 31 2 }
  | 0x204 => writeTr s fun t => { t with mscr := v }
  | 0x208 => { s with svc := { s.svc with spbase := keep v 51 18 } }
  | _ => s

/-- A CSRW of register `n`: PRIV above the level or without a write level, else the value is consumed and written. (R32, R33,
R224) -/
def csrWrite (s : State) (n : Nat) (a : BitVec 6) (w : State → Word → State) : State :=
  match sysReg n with
  | none => trapWith s .illenc
  | some (_, l) =>
    if l = 4 || (curCtx s).pl.toNat < l then trapWith s .priv
    else
      let v := rdS (curCtx s) a.toNat
      consume s [v] fun s => w s v.w

/-- CSRW (R224) -/
def execCsrw (a : BitVec 6) (n : BitVec 12) (s : State) : Host.Outcome State Fault Refusal :=
  .next (csrWrite s n.toNat a fun s v => writeReg s n.toNat v)

/-- STATUS_WRITE: PL 2, or PL 3 below M, traps with PRIV and changes nothing. (R31, Table 19.3) -/
def execStatusWrite (a : BitVec 6) (s : State) : Host.Outcome State Fault Refusal :=
  .next (csrWrite s 0x010 a fun s v =>
    let p := v.setWidth 2
    if p = 2#2 || (p = 3#2 && (curCtx s).pl ≠ 3#2) then trapWith s .priv else modCur s fun c => { c with pl := p })

/-- A fade floor as it is stored: an all-ones exponent stores the greatest finite magnitude (R85). -/
def floorOf (v : Word) : BitVec 31 := if bits v.toNat 23 8 = 0xFF then 0x7F7FFFFF#31 else v.setWidth 31

/-- FADEFL_WRITE (R85) -/
def execFadeflWrite (a : BitVec 6) (s : State) : Host.Outcome State Fault Refusal :=
  .next (csrWrite s 0x001 a fun s v => modCur s fun c => { c with fadefl := floorOf v })

/-- FADEDEF_WRITE: applies to steps that start later. (R86) -/
def execFadedefWrite (a : BitVec 6) (s : State) : Host.Outcome State Fault Refusal :=
  .next (csrWrite s 0x116 a fun s v => writeFen s fun f => { f with fadedef := floorOf v })

/-- RDCFG_WRITE: KIND 1 is checked, KIND 2 and 3 trap with RINGERR, KIND 0 is always accepted. (R289, R290) -/
def execRdcfgWrite (a : BitVec 6) (s : State) : Host.Outcome State Fault Refusal :=
  .next (csrWrite s 0x021 a fun s v =>
    let x := v.toNat
    let kind := bits x 62 2
    if !ringWritable s then trapWith s .priv
    else if 2 ≤ kind || (kind = 1 && !rdcfgOk s v) then trapWith s .ringerr
    else writeRing s fun r => { r with kind := BitVec.ofNat 2 kind, ssz := BitVec.ofNat 4 (bits x 52 4),
                                       count := BitVec.ofNat 16 (bits x 32 16), base := BitVec.ofNat 32 (bits x 0 32) })

/-- CNTCFG_WRITE: configures the selected counter and zeroes it. (R382) -/
def execCntcfgWrite (a : BitVec 6) (s : State) : Host.Outcome State Fault Refusal :=
  let now := s.clock
  .next (csrWrite s 0x121 a fun s v => writeFen s fun f =>
    let i := f.cntsel.toNat
    if i < 32 then f
    else { f with cntcfg := tset f.cntcfg i { en := bitAt v.toNat 63, core := BitVec.ofNat 8 (bits v.toNat 48 8), event := v.setWidth 16, since := some now },
                  counters := tset f.counters i 0#64, counted := tset f.counted i 0#64 })

/-- QCFG_WRITE: PRIO is held to PFLOOR, BUDGET to WDMAX. (R377, R378) -/
def execQcfgWrite (a : BitVec 6) (s : State) : Host.Outcome State Fault Refusal :=
  .next (csrWrite s 0x111 a fun s v =>
    let f := fenOf s (curFen s)
    let b := bits v.toNat 32 32
    if (queueOf s f.qsel.toNat).owner ≠ some (curFen s) then s
    else modQueue s f.qsel.toNat fun q =>
      { q with prio := max (bits v.toNat 0 3) f.pfloor, thresh := bits v.toNat 8 3,
               budget := if b = 0 || f.wdmax < b then f.wdmax else b })

/-- Hold a fen's queues to its PFLOOR and WDMAX (R378). -/
def clampQueues (s : State) (fen : Nat) : State :=
  let f := fenOf s fen
  { s with queues := s.queues.map fun (i, q) =>
      (i, if q.owner = some fen then { q with prio := max q.prio f.pfloor, budget := if f.wdmax < q.budget then f.wdmax else q.budget }
          else q) }

/-- FENCFG_WRITE: 0 stores 1 in WDMAX and WEIGHT; every queue of the fen is clamped. (R378) -/
def execFencfgWrite (a : BitVec 6) (s : State) : Host.Outcome State Fault Refusal :=
  .next (csrWrite s 0x114 a fun s v =>
    let x := v.toNat
    clampQueues (writeFen s fun f =>
      { f with wdmax := max 1 (bits x 32 32), weight := max 1 (bits x 8 8), pfloor := bits x 0 3 }) (curFen s))

/-- CR of a regulator, as a write has left it. -/
def Regul.rate (r : Regul) : Nat := match r.next with | some (cr, _) => cr | none => r.cr

/-- The sum of CR over every fen and class of a channel, with one regulator replaced (R381). -/
def crSum (s : State) (fen place : Nat) (r : Regul) : Nat :=
  (List.range 16).foldl (fun a f => (List.range 3).foldl (fun a c =>
    let i := c * 64 + place % 64
    a + (if f = fen && i = place then r.cr else (tget {} (fenOf s f).regul i).rate)) a) 0

/-- Set a regulator's rates, for the clocks after this one. A sum of CR above 32,768 is refused (R381). -/
def setRegul (s : State) (fen place : Nat) (cr cb pr pb : Nat) : Option State :=
  if 32768 < crSum s fen place { cr } then none
  else some (modFen s fen fun f => { f with regul := tmod {} f.regul place fun r => { r with next := some (cr, cb, pr, pb) } })

/-- REGRATE_WRITE (R381, Table 23.7) -/
def execRegrateWrite (a : BitVec 6) (s : State) : Host.Outcome State Fault Refusal :=
  .next (csrWrite s 0x129 a fun s v =>
    let x := v.toNat
    match regPlace (fenOf s (curFen s)).regsel with
    | none => s
    | some i => (setRegul s (curFen s) i (bits x 16 16) (bits x 0 16) (bits x 48 16) (bits x 32 16)).getD s)

/-- OLCTL_WRITE: sets the mode for launches that start later; a non-zero mode restarts launch tags. (R363) -/
def execOlctlWrite (a : BitVec 6) (s : State) : Host.Outcome State Fault Refusal :=
  .next (csrWrite s 0x160 a fun s v =>
    let m := if bits v.toNat 0 2 = 3 then 0 else bits v.toNat 0 2
    writeFen s fun f => { f with ol := { f.ol with mode := BitVec.ofNat 2 m, pos := 0#32, tags := if m = 0 then f.ol.tags else 0 } })

/-- HELD: in replay an operation has waited 2,048 clocks for its logged turn. (R365, R366, Table 21.5) -/
def execHeld (fen : Nat) (s : State) : Host.Outcome State Fault Refusal :=
  if fen < 16 then .next (modFen s fen fun f => { f with ol := { f.ol with stat := f.ol.stat ||| 1#4 } }) else .fault .noSuchObject

/-! ### Counters and random numbers -/

/-- Counter `n` of the executing fen (Table 8.7, R382). -/
def counterValue (s : State) (n : Nat) : Word :=
  if n = 0 then BitVec.ofNat 64 s.clock
  else if n = 6 then BitVec.ofNat 64 (mereUse s (curFen s))
  else tget 0#64 (fenOf s (curFen s)).counters n

/-- CNTR (R225) -/
def execCntr (d : BitVec 6) (n : BitVec 12) (s : State) : Host.Outcome State Fault Refusal :=
  .next (land s 2 (.s d.toNat) ⟨counterValue (asSeen s) n.toNat, none⟩)

/-- One Philox round on 32-bit lanes and keys (R141). -/
def philoxRound (c : BitVec 32 × BitVec 32 × BitVec 32 × BitVec 32) (k : BitVec 32 × BitVec 32) :
    BitVec 32 × BitVec 32 × BitVec 32 × BitVec 32 :=
  let p : Word := 0xD2511F53#64 * c.1.setWidth 64
  let q : Word := 0xCD9E8D57#64 * c.2.2.1.setWidth 64
  let hi := fun (w : Word) => (w >>> 32).setWidth 32
  (hi q ^^^ c.2.1 ^^^ k.1, q.setWidth 32, hi p ^^^ c.2.2.2 ^^^ k.2, p.setWidth 32)

/-- n rounds of Philox4x32 (R141). -/
def philox : Nat → BitVec 32 × BitVec 32 × BitVec 32 × BitVec 32 → BitVec 32 × BitVec 32 → BitVec 32 × BitVec 32 × BitVec 32 × BitVec 32
  | 0, c, _ => c
  | n + 1, c, k => philox n (philoxRound c k) (k.1 + 0x9E3779B9#32, k.2 + 0xBB67AE85#32)

/-- The draw for a seed, a counter and a stream (R141). -/
def randWord (seed ctr stream : Word) : Word :=
  let hi := fun (w : Word) => (w >>> 32).setWidth 32
  let c := philox 10 (ctr.setWidth 32, hi ctr, stream.setWidth 32, hi stream) (seed.setWidth 32, hi seed)
  (c.2.1.setWidth 64) <<< 32 ||| c.1.setWidth 64

/-- RAND: RNDCTR advances even where the stream is poisoned. (R141) -/
def execRand (d a : BitVec 6) (s : State) : Host.Outcome State Fault Refusal :=
  let c := curCtx s
  let v := rdS c a.toNat
  .next (modCur (land s 6 (.s d.toNat) ⟨randWord c.rndseed c.rndctr v.w, v.p⟩) fun c => { c with rndctr := c.rndctr + 1#64 })

end Sys2Proof.Machine
end

