-- ==== Sys2Proof/Machine/Links.lean ====
section
/-! DEFINITION. The device event log (R393), the ring network and the peer ring links (R358 to R361), and mesh flit retries
(R401). -/

namespace Sys2Proof.Machine
open Sys2Proof

/-! ### The device event log (R393) -/

/-- Post a device event (Table 24.11); LOST when the log is full. -/
def postEvent (s : State) (code core fen arg : Nat) (value : Word) : State :=
  let v := { s.svc with ibi := s.svc.ibi ++ [code] }
  if v.evtail - v.evhead = 240#32 then { s with svc := { v with evlost := true } }
  else
    let e : DevEvent := { code, core, fen, arg, time := BitVec.ofNat 32 (s.clock / 1000), value }
    { s with svc := { v with evlog := tset v.evlog (v.evtail.toNat % 240) e, evtail := v.evtail + 1#32 } }

/-! ### The ring network (R358, R359) -/

/-- The ring successor of a core on its package (R9). -/
def successor (c : Nat) : Nat := (c + 1) % 96

/-- The ring of a fen runs across packages: it is the bound one, and neither peer link is disabled (R9, R361; DEDUCED, log 117). -/
def ringOpen (s : State) (fen : Nat) : Bool := s.peers.nxtEn && s.peers.prvEn && s.peers.fen == fen

/-- A send of a fen from core 95 goes on the next peer link (R361). -/
def onPeerLink (s : State) (core fen : Nat) : Bool := core == 95 && ringOpen s fen

/-- The banks of a sub-core that take ring entries of a launch: the bank whose step belongs to it (R338). -/
def bankOfLaunch (s : State) (g lid : Nat) : Option Nat :=
  [0, 1].find? fun b => match (ctxAt s g b).step with
    | some st => st.lid == lid && !st.ended
    | none => false

/-- The bank of sub-core n of core 0 whose step belongs to a launch of the bound fen (R361). -/
def bankOfFen (s : State) (g fen : Nat) : Option Nat :=
  if (coreOf s (coreNo g)).fen ≠ fen then none
  else [0, 1].find? fun b => match (ctxAt s g b).step with
    | some st => !st.ended
    | none => false

/-- Entries of a channel, on the own package's link or on a peer link, that are on their way. -/
def inTransit (s : State) (core ch : Nat) (peer : Bool := false) : Nat :=
  (s.ring.filter fun m => m.core == core && m.ch == ch && m.peer == peer).length

/-- An entry of core 95 of the own package is of the fen that is bound to the peer links: core 0 does not take it (R361). -/
def boundElsewhere (s : State) (core fen : Nat) : Bool := core == 95 && ringOpen s fen

/-- The launch of the step that a context runs; 0 for none. -/
def lidOf (c : Ctx) : Nat := match c.step with | some st => st.lid | none => 0

/-- An entry sent by a context of sub-core `g` finds a credit (R359, R361). -/
def ringCredit (s : State) (g : Nat) (c : Ctx) : Bool :=
  let core := coreNo g
  if onPeerLink s core (coreOf s core).fen then s.peers.nxtUp && inTransit s core (g % 4) true < 4
  else
    let dest := 4 * successor core + g % 4
    match bankOfLaunch s dest (lidOf c) with
    | some b => (ctxAt s dest b).ingress.length + inTransit s core (g % 4) < bigCap (ctxAt s dest b) 9
    | none => false

/-- An entry enters the link; it travels at least the clocks of R359. -/
def ringSend (s : State) (g : Nat) (c : Ctx) (e : BigEntry) : State :=
  let core := coreNo g
  let fen := (coreOf s core).fen
  let peer := onPeerLink s core fen
  let transit := if peer then 6 else if dieNo core = dieNo (successor core) then 8 else 16
  let (d, s) := draw s
  { s with ring := s.ring ++ [{ core, ch := g % 4, lid := lidOf c, fen, e, due := s.clock + transit + d, peer }] }

/-- The oldest entry that core 95 has sent on a channel of the next peer link leaves the package, while the link is up (R361). -/
def leavePackage (s : State) (ch : Nat) : State :=
  match s.ring.find? fun m => m.core == 95 && m.ch == ch && m.peer with
  | none => s
  | some m => if s.clock < m.due || !s.peers.nxtUp then s else { s with ring := s.ring.erase m }

/-- RING_ENTRY_DELIVERED: the oldest entry of a channel reaches the ingress queue of the bank that R338 names, when it has
travelled and the queue has room. `core` is the sender: 96 is the previous package. Core 95 has its channels on the own package and
those of the next peer link apart. (R358 to R361) -/
def execRingEntryDelivered (core ch : Nat) (s : State) : Host.Outcome State Fault Refusal :=
  if 97 ≤ core || 4 ≤ ch then .fault .noSuchObject
  else
    let s := if core = 95 then leavePackage s ch else s
    match s.ring.find? fun m => m.core == core && m.ch == ch && (core == 96 || !m.peer) with
    | none => .next s
    | some m =>
      let rest := { s with ring := s.ring.erase m }
      if s.clock < m.due then .next s
      else
        let g := if core = 96 then ch else 4 * successor core + ch
        let bank := if core = 96 then (if s.peers.prvUp then bankOfFen s g s.peers.fen else none)
          else if boundElsewhere s core m.fen then none else bankOfLaunch s g m.lid
        .next (match bank with
          | none => s
          | some b =>
            let c := ctxAt s g b
            if c.ingress.length < bigCap c 9 then setCtxAt rest g b { c with ingress := c.ingress ++ [m.e] } else s)

/-- Set the state of a peer link and post PEERSTATE (Table 24.12). -/
def setPeerUp (s : State) (link : Nat) (up : Bool) : State :=
  let p := s.peers
  let s' := { s with peers := if link = 0 then { p with nxtUp := up } else { p with prvUp := up } }
  postEvent s' 7 0xFF p.fen link (peerstWord s'.peers)

/-- PEER_LINK_UP: an enabled link whose other end is enabled has trained. (R361) -/
def execPeerLinkUp (link : Nat) (s : State) : Host.Outcome State Fault Refusal :=
  if 2 ≤ link then .fault .noSuchObject
  else
    let p := s.peers
    let ready := if link = 0 then p.nxtEn && p.nxtReady && !p.nxtUp else p.prvEn && p.prvReady && !p.prvUp
    .next (if ready then setPeerUp s link true else s)

/-- PEER_LINK_DOWN: a link stops carrying entries; those sent are kept. (R361) -/
def execPeerLinkDown (link : Nat) (s : State) : Host.Outcome State Fault Refusal :=
  if 2 ≤ link then .fault .noSuchObject
  else .next (if (if link = 0 then s.peers.nxtUp else s.peers.prvUp) then setPeerUp s link false else s)

/-- FLIT_RETRY: a hop's check has failed on a flit: it is sent again; the sixteenth failure in a row posts LINKERR. A clock
without a retry on the hop means that the flit has passed (log 8). (R401) -/
def execFlitRetry (core port : Nat) (s : State) : Host.Outcome State Fault Refusal :=
  if 96 ≤ core || 6 ≤ port then .fault .noSuchObject
  else
    let i := core * 8 + port
    let old := tget (0, 0) s.svc.attempts i
    let n := if s.clock ≤ old.2 + 1 then old.1 + 1 else 1
    let s1 := { s with svc := { s.svc with flits := s.svc.flits + 1, attempts := tset s.svc.attempts i (n, s.clock) } }
    .next (if n = 16 then
      postEvent { s1 with svc := { s1.svc with linkerrs := s1.svc.linkerrs + 1 } } 1 core 0xFF port (BitVec.ofNat 64 n)
    else s1)

end Sys2Proof.Machine
end

