-- ==== Sys2Proof/Machine/Units.lean ====
section
/-! DEFINITION. What commands and records share: sources and destinations in the step's own view (R171), the checks when a command
begins (R175), poisoned sources (R173, R174), queue sends (R146, R179), and the array port's forwarding (R169, R170). -/

namespace Sys2Proof.Machine
open Sys2Proof

/-! ### Operands as places -/

/-- Where a resolved operand's bytes stand, for a command of core `k`: scratch, the state store, or the shadow weight plane. -/
def operandLoc (s : State) (k : Nat) (w : BitVec 32) (off : Nat) : Loc :=
  match Operand.ofWord w with
  | .scratch a => .scratch (a + off)
  | .core 2 o => .plane k (1 - (coreOf s k).planeSel) (o + off)
  | .core _ o => .state k (o + off)
  | .handle _ _ => .scratch 0

/-- The causes that the checks of R175 find in `n` bytes at `off` of an operand; a scratch address outside the slice is logged
as for an error response. `any` lets scratch lie in any slice of the fen (R196). -/
def placeFaults (s : State) (g : Nat) (w : BitVec 32) (off n align : Nat) (any : Bool) (kind engine : Nat) : List Cause × State :=
  match Operand.ofWord w with
  | .scratch x0 =>
    let x := x0 + off
    let al := if x % align ≠ 0 then [Cause.align] else []
    let out := match scratchError s g x n with
      | some r => some r
      | none => if !any && x / 0x80_0000 ≠ coreNo g then some 3 else if (x + n - 1) / 0x80_0000 ≠ x / 0x80_0000 && n ≠ 0 then some 1 else none
    match out with
    | some r => (.memerr :: al, logViolation s (coreOf s (coreNo g)).fen 0 x r engine kind g)
    | none => (al, s)
  | .core 0 o =>
    let al := if (o + off) % align ≠ 0 then [Cause.align] else []
    if stateError s (coreNo g) (o + off) n then (.stoff :: al, s) else (al, s)
  | .core 2 o => (if 0x8200 < o + off + n then [.cmdopnd] else [], s)
  | .core _ _ => ([], s)
  | .handle _ o => (if o % align ≠ 0 then [.align] else [], s)

/-- The causes that the checks of R175 find in one operand of `n` bytes from its start. -/
def operandFaults (s : State) (g : Nat) (w : BitVec 32) (ok : List Accept) (n align : Nat) (any : Bool) (kind engine : Nat) :
    List Cause × State :=
  match acceptOf w with
  | none => ([.cmdopnd], s)
  | some a => if ok.contains a then placeFaults s g w 0 n align any kind engine else ([.cmdopnd], s)

/-- A part of a record that does not resolve, as a poisoned value with its cause. -/
def errVal {α : Type} : Except (Cause × Word) α → Val
  | .error (p, w) => ⟨w, some p⟩
  | .ok _ => ⟨0#64, none⟩

/-- The cause of highest priority (Table 19.1). -/
def worstCause : List Cause → Option Cause
  | [] => none
  | c :: r => meet (some c) (worstCause r)

/-! ### Reading and writing in the step's view -/

/-- Read bytes of an operand in the view of a context: the bytes, and whether a line holds a poison syndrome. -/
def readOperand (s : State) (k cid : Nat) (w : BitVec 32) (off n : Nat) : List Byte × Bool :=
  let l := operandLoc s k w off
  (readView s cid l n, badView s cid l n)

/-- Write bytes of an operand in the view of a context; with `bad`, a poison syndrome on their lines (R173). -/
def writeOperand (s : State) (k cid : Nat) (w : BitVec 32) (off : Nat) (bs : List Byte) (bad : Bool) : State :=
  let l := operandLoc s k w off
  if bs = [] then s else if bad then writeBad s cid l bs 4 (recordTpc s cid) else writeView s cid l bs 4 (recordTpc s cid)

/-- The writes of rows of bytes at a stride. -/
def rowWrites (w : BitVec 32) (stride : Nat) (rows : List (List Byte)) (bad : Bool) : List CmdWrite :=
  (rows.zipIdx).map fun (bs, i) => ⟨w, i * stride, bs, bad⟩

/-- Perform the writes of a command. -/
def performWrites (s : State) (k cid : Nat) (ws : List CmdWrite) : State :=
  ws.foldl (fun s x => writeOperand s k cid x.w x.off x.bytes x.bad) s

/-- The bytes of entries, in order. -/
def entryBytes (es : List BigEntry) : List Byte := es.flatMap fun e => vecBytes e.val

/-- Bytes as entries of 2,048 bytes, the last one padded with zero bytes; poisoned with MEMERR when the source was bad. -/
def toEntries (bs : List Byte) (bad : Bool) : List BigEntry :=
  (chunk 2048 ((bs.length + 2047) / 2048) bs).map fun p => { val := vecOfBytes p, poison := if bad then some .memerr else none }

/-! ### Sends to mf, sq and rx (R146, R179) -/

/-- Each destination of a copy has room. -/
def sendRoom (s : State) (g : Nat) (c : Ctx) (mf sq rx : Bool) : Bool :=
  (!mf || c.mf.length < bigCap c 7) && (!sq || c.sq.length < bigCap c 8) && (!rx || ringCredit s g c)

/-- Discard `n` entries of an ended step: they count in QLEFT and as accepted (R344). -/
def discardEntries (s : State) (g n : Nat) : State := count s (coreOf s (coreNo g)).fen cntQleft n

/-- A sending of an ended step: its entries are discarded, but an entry for a peer package is delivered (R344, R361). -/
def sendEnded (s : State) (g : Nat) (c : Ctx) (e : BigEntry) (mf sq rx : Bool) : Option State :=
  let out := rx && onPeerLink s (coreNo g) (coreOf s (coreNo g)).fen
  if out && !ringCredit s g c then none
  else
    let s := discardEntries s g (bnat mf + bnat sq + bnat (rx && !out))
    some (if out then ringSend s g c e else s)

/-- The step of a command or record has ended: its mf and sq are gone, and no trap will serve its fault (R344). -/
def stepGone (s : State) (cid : Nat) : Bool :=
  match (ctxOfCid s cid).step with
  | some st => st.ended
  | none => !(ctxOfCid s cid).svc

/-- Send one entry of context `cid` of sub-core `g`; none when a destination has no room. -/
def sendEntry (s : State) (g cid : Nat) (e : BigEntry) (mf sq rx : Bool) : Option State :=
  let c := ctxOfCid s cid
  if stepGone s cid then sendEnded s g c e mf sq rx
  else if sendRoom s g c mf sq rx then
    let s1 := modCid s cid fun c => { c with mf := if mf then c.mf ++ [e] else c.mf, sq := if sq then c.sq ++ [e] else c.sq }
    some (if rx then ringSend s1 g c e else s1)
  else none

/-- Send as many entries as there is room for. -/
def sendAll (s : State) (g cid : Nat) (mf sq rx : Bool) : List BigEntry → List BigEntry × State
  | [] => ([], s)
  | e :: r =>
    match sendEntry s g cid e mf sq rx with
    | some s' => sendAll s' g cid mf sq rx r
    | none => (e :: r, s)

/-! ### The wait of a record, and forwarding (R169, R170) -/

/-- Perform a record's own wait: with WE = 1 its threshold condition, STALE included (R104, R169). -/
def recordWait (s : State) (r : Record) (k : State → State) : State :=
  let c := curCtx s
  if !r.we then k s
  else if tokenMet (beforeGroup s) s.cur.g s.cur.e r.wtok.toNat r.thr then
    k (if (threshold (tget {} c.t r.wtok.toNat).count r.thr).2 then raiseTok s c.cid r.wtok.toNat 0 stStale else s)
  else waitOn s (.token r.wtok.toNat r.thr)

/-- Forward a record of the array port to its unit (R169): 0 the matrix array, 1 the scan engine. -/
def forward (s : State) (r : Record) (major unit path : Nat) : State :=
  recordWait s r fun s =>
    let k := curCore s
    let n := s.cur.g % 4
    let l := leaseOf (coreOf s k) unit
    if l.holder ≠ some n || l.left = 0 then freeze s
    else
      let cmd : Cmd := { major, r, cid := (curCtx s).cid, g := s.cur.g, path, slot := recordSlot s }
      modCore s k fun c =>
        let c := setLease c unit { l with left := l.left - 1, holder := if l.left = 1 then none else l.holder }
        if unit = 0 then { c with mcmds := c.mcmds ++ [cmd] } else { c with scmds := c.scmds ++ [cmd] }

/-- Commands of a path may begin: the previous command of the path has completed; MSWAP is of both paths (R170). -/
def nextCmd (cs : List Cmd) (path : Nat) : Option Cmd :=
  match cs with
  | [] => none
  | c :: r =>
    if c.path = path then (if c.begun then none else some c)
    else if c.path = 2 || path = 2 || path = 3 then none
    else nextCmd r path

/-- The running command of a path. -/
def runningCmd (cs : List Cmd) (path : Nat) : Option Cmd := cs.find? fun c => c.path == path && c.begun

/-- The accepted commands of the unit that a path belongs to. -/
def cmdsOf (c : Core) (path : Nat) : List Cmd := if path = 3 then c.scmds else c.mcmds
def setCmds (c : Core) (path : Nat) (cs : List Cmd) : Core := if path = 3 then { c with scmds := cs } else { c with mcmds := cs }

/-- Replace the first element equal to `old`, or take it away. -/
def replaceFirst {α : Type} [DecidableEq α] (old : α) (new : Option α) : List α → List α
  | [] => []
  | x :: r => if x = old then new.toList ++ r else x :: replaceFirst old new r

/-- Replace a command of a path, or take it away. -/
def putCmd (s : State) (k path : Nat) (old : Cmd) (new : Option Cmd) : State :=
  modCore s k fun c => setCmds c path (replaceFirst old new (cmdsOf c path))

/-- A command that a sub-core forwarded, in either of its banks, is being recomputed: its array port freezes, and a swap waits (R173,
R332). -/
def portRetries (s : State) (g : Nat) : Bool :=
  let c := coreOf s (coreNo g)
  (c.mcmds ++ c.scmds).any fun m => m.g == g && m.retrying

/-- The array port of a sub-core freezes while a command of the active context holds its path for mf, sq or rx (R179, R236), which
is an issue freeze and ends at a swap (R332; DESIGN CHOICE, log 119), and while a command is being recomputed (R173). -/
def portHeld (s : State) (g cid : Nat) : Bool :=
  let c := coreOf s (coreNo g)
  portRetries s g || (c.mcmds ++ c.scmds).any fun m => m.cid == cid && m.stuck

/-- A command completes: it raises ptok once with its status (R171). -/
def completeCmd (s : State) (k path : Nat) (c : Cmd) : State :=
  let s1 := putCmd s k path c none
  let fen := (coreOf s k).fen
  let s2 := if bitAt c.status.toNat 3 then count s1 fen cntRetried 1 else s1
  let s3 := if bitAt c.status.toNat 2 then count s2 fen cntDerr 1 else s2
  let s4 := if path = 3 then s3 else countEv s3 fen k 4 1
  raiseTok s4 c.cid c.r.ptok.toNat 1 c.status

/-- The failed attempts that the next residue check finds (R173). -/
def residueCheck (s : State) : Nat × State :=
  match s.residue with
  | [] => (0, s)
  | n :: r => (n, { s with residue := r })

/-- Status bits of failed attempts: a retry sets RETRIED, a third failure DERR (R173). -/
def retryStatus (n : Nat) : BitVec 32 := if n = 0 then 0#32 else if n < 3 then stRetried else stRetried ||| stDerr

end Sys2Proof.Machine
end

