-- ==== Sys2Proof/Machine/Transfer.lean ====
section
/-! DEFINITION. Transfer records of the fetch and store engines (R195 to R207): taking, beginning and checking a record, moving its
bytes piece by piece, resumable faults (R324 to R328), and completion. -/

namespace Sys2Proof.Machine
open Sys2Proof

/-! ### Taking a record -/

/-- Replace a record in flight. -/
def putXfer (s : State) (x : Xfer) : State := { s with xfers := s.xfers.map fun y => if y.id = x.id then x else y }
def dropXfer (s : State) (x : Xfer) : State := { s with xfers := s.xfers.filter fun y => y.id != x.id }

/-- An engine takes a record from its ring (R169, R198): its wait, the hold of CBLOAD (R205) and the limit of eight are met, or it
holds. -/
def takeRecord (s : State) (r : Record) (eng major : Nat) : State :=
  recordWait s r fun s =>
    let c := curCtx s
    let mine := xfersOf s c.cid eng
    let bank := if eng = 2 && major = 0x43 then bits r.variant.toNat 3 1 else 2
    if eng = 2 && !waitMet (beforeGroup s) s.cur.g eng (.cbload bank) then waitOn s (.cbload bank)
    else if 8 ≤ mine.length then freeze s
    else
      let (id, s) := freshId s
      let num := if eng = 2 then c.recF else c.recS
      let x : Xfer := { id, g := s.cur.g, cid := c.cid, eng, major, r, num, tpc := s.cur.grp, slot := recordSlot s }
      let s := modCur { s with xfers := s.xfers ++ [x] } fun c =>
        if eng = 2 then { c with recF := (num + 1) % 2 ^ 32 } else { c with recS := (num + 1) % 2 ^ 32 }
      now s (.transferRecordBegins s.cur.g eng)

/-- FCOPY: copies the source stream into the core. (R199) -/
def execFcopy (r : Record) (s : State) : Host.Outcome State Fault Refusal := .next (takeRecord s r 2 0x40)
/-- FGATH: gathers rows by an index list. (R200) -/
def execFgath (r : Record) (s : State) : Host.Outcome State Fault Refusal := .next (takeRecord s r 2 0x41)
/-- FXFM: copies through a transform. (R203) -/
def execFxfm (r : Record) (s : State) : Host.Outcome State Fault Refusal := .next (takeRecord s r 2 0x42)
/-- CBLOAD: loads a codebook bank. (R205) -/
def execCbload (r : Record) (s : State) : Host.Outcome State Fault Refusal := .next (takeRecord s r 2 0x43)
/-- FCRC: CRC-64 of the source stream. (R206) -/
def execFcrc (r : Record) (s : State) : Host.Outcome State Fault Refusal := .next (takeRecord s r 2 0x44)
/-- SCOPY: copies the source stream out of the core. (R199) -/
def execScopy (r : Record) (s : State) : Host.Outcome State Fault Refusal := .next (takeRecord s r 3 0x40)
/-- SSCAT: scatters rows by an index list. (R200) -/
def execSscat (r : Record) (s : State) : Host.Outcome State Fault Refusal := .next (takeRecord s r 3 0x41)
/-- SREDS: applies the stream as reductions. (R202) -/
def execSreds (r : Record) (s : State) : Host.Outcome State Fault Refusal := .next (takeRecord s r 3 0x42)
/-- SMCAST: writes the stream in several cores. (R201) -/
def execSmcast (r : Record) (s : State) : Host.Outcome State Fault Refusal := .next (takeRecord s r 3 0x43)
/-- SCRC: CRC-64 of the source stream. (R206) -/
def execScrc (r : Record) (s : State) : Host.Outcome State Fault Refusal := .next (takeRecord s r 3 0x44)

/-! ### Reading and writing places -/

/-- What an access of a record meets. -/
inductive Reach where
  | at_ (l : Loc)
  /-- an error response (R123) -/
  | refused
  /-- an absent page (R325) -/
  | absent
deriving DecidableEq, Repr

/-- The place of `n` bytes from byte `d` of the row that stands at `off` of an operand and has `len` bytes; an error response is logged
(R323). A handle is checked for the whole row, and a row that fails is logged once (R321). -/
def reach (s : State) (x : Xfer) (w : BitVec 32) (hv : Word) (off len d n kind : Nat) : Reach × State :=
  let k := coreNo x.g
  let fen := (coreOf s k).fen
  match Operand.ofWord w with
  | .scratch a =>
    match scratchError s x.g (a + off + d) n with
    | some r => (.refused, logViolation s fen 0 (a + off + d) r x.eng kind x.g)
    | none => (.at_ (.scratch (a + off + d)), s)
  | .handle _ o =>
    match checkHandle s fen hv (o + off) len kind false with
    | .fail r =>
      (.refused, if x.logged.contains (bnat (kind != 0), x.pos / x.len) then s else logViolation s fen 3 (handleBits hv) r x.eng kind x.g)
    | .absent => (.absent, s)
    | .pass pa =>
      if hostRefuses s (.phys (pa + d)) n then (.refused, logViolation s fen 2 (handleVa s fen hv (o + off + d)) 8 x.eng kind x.g)
      else (.at_ (.phys (pa + d)), s)
  | _ =>
    match placeOf s x w hv (off + d) n kind with
    | some l => (.at_ l, s)
    | none => (.refused, s)

/-- Bytes at a place in the record's view, and whether a line of them is bad. -/
def readPlace (s : State) (x : Xfer) (l : Loc) (n : Nat) : List Byte × Bool :=
  (readView s x.cid l n, badView s x.cid l n)

/-- Write bytes at a place in the record's view. Bad bytes become poison syndromes; in host memory they are left unchanged
(R198). -/
def writePlace (s : State) (x : Xfer) (l : Loc) (bs : List Byte) (bad : Bool) : State :=
  if !bad then writeView s x.cid l bs x.eng (recordTpc s x.cid)
  else match l with
    | .phys pa => if bitAt pa 51 then s else poisonLines s l bs.length
    | _ => writeBad s x.cid l bs x.eng (recordTpc s x.cid)

/-! ### Pieces of the source stream -/

/-- The operand is sq or mf. -/
def isQueue (w : BitVec 32) : Bool := bits w.toNat 24 8 == 0x41 || bits w.toNat 24 8 == 0x43
def toMf (x : Xfer) : Bool := x.eng == 2 && bits x.opB.toNat 24 8 == 0x41
def fromSq (x : Xfer) : Bool := x.eng == 3 && bits x.opA.toNat 24 8 == 0x43
/-- The destination is the shadow plane, which is packed (R197). -/
def toPlane (x : Xfer) : Bool := x.eng == 2 && bits x.opB.toNat 24 8 == 0x42 && !x.isCrc && !x.isCbload

/-- Bytes of the next piece: within a line of the row, within an sq entry, and one element of an SREDS. -/
def Xfer.piece (x : Xfer) : Nat :=
  if x.isReduce then x.w
  else
    let b := x.pos % x.len
    let n := min (64 - b % 64) (x.len - b)
    if isQueue x.opA then min n (2048 - x.pos % 2048) else n

/-- What reading a piece gives. -/
inductive Got where
  | data (bs : List Byte) (bad : Bool)
  | refused
  | absent
  /-- sq is empty -/
  | stall
deriving DecidableEq, Repr

/-- Read the next piece (R197, R200). -/
def readPiece (s : State) (x : Xfer) (n : Nat) : Got × Xfer × State :=
  let row := x.pos / x.len
  let byte := x.pos % x.len
  match x.buf, x.inbox.find? (·.pos == x.pos) with
  | (bs, bad) :: r, _ => (.data bs bad, { x with buf := r }, s)
  | [], some f => (if f.refused then .refused else .data f.bytes f.bad, x, s)
  | [], none =>
    if fromSq x then
      let at_ := fun (e : BigEntry) => Got.data (((vecBytes e.val).drop (x.pos % 2048)).take n) e.poison.isSome
      match (if x.pos % 2048 = 0 then none else x.ent) with
      | some e => (at_ e, x, s)
      | none =>
        match (ctxOfCid s x.cid).sq with
        | [] => (.stall, x, s)
        | e :: _ => (at_ e, { x with ent := some e }, modCid s x.cid fun c => { c with sq := c.sq.drop 1 })
    else
      match x.srcRow row with
      | none => (.data (List.replicate n 0#8) false, x, s)
      | some o =>
        match reach s x x.opA x.hA o x.len byte n 0 with
        | (.at_ l, s) => let (bs, bad) := readPlace s x l n; (.data bs bad, x, s)
        | (.refused, s) => (.refused, x, s)
        | (.absent, s) => (.absent, x, s)

/-- Elements of a type that FXFM expands or converts (Table 8.3). -/
def transform (s : State) (x : Xfer) (bs : List Byte) : List Byte :=
  let t := x.r.typ.toNat
  match x.xf with
  | 0 =>
    let cb := tget {} (ctxOfCid s x.cid).cb x.bank
    let w := typeBytes cb.typ.toNat
    bs.flatMap fun b => leBytes w (nth 0#16 cb.entries (b.toNat % 16)).toNat ++ leBytes w (nth 0#16 cb.entries (b.toNat / 16)).toNat
  | 1 => elemBytes 4 ((elems x.w (bs.length / x.w) bs).map (convert t 0 0 false))
  | _ => elemBytes x.w ((elems 4 (bs.length / 4) bs).map (convert 0 t 0 true))

/-! ### Writing a piece -/

/-- What writing a piece gives. -/
inductive Put where
  | done
  | refused
  | absent
  | stall
deriving DecidableEq, Repr

/-- Append bytes to the mf entry being filled, and send it when it is full (R197). -/
def fillMf (s : State) (x : Xfer) (bs : List Byte) (bad : Bool) : Put × Xfer × State :=
  let all := x.fill ++ bs
  if all.length < 2048 then (.done, { x with fill := all, fillBad := x.fillBad || bad }, s)
  else
    let e : BigEntry := { val := vecOfBytes (all.take 2048), poison := if x.fillBad || bad then some .memerr else none }
    match sendEntry s x.g x.cid e true false false with
    | none => (.stall, x, s)
    | some s' => (.done, { x with fill := all.drop 2048, fillBad := bad && 2048 < all.length, done := x.done + 2048 }, s')

/-- The address of an SREDS element `off` bytes from opB, as the order log names it: its scratch address, or its virtual one (Table 21.6). -/
def redPlace (s : State) (x : Xfer) (l : Loc) (off : Nat) : Nat :=
  match l with
  | .scratch a => a
  | _ => handleVa s (coreOf s (coreNo x.g)).fen x.hB (bits x.opB.toNat 0 26 + off)

/-- The logged turn of an SREDS element: the element's owner and place in the order log, with the state that counts it. -/
def reduceTurn (s : State) (x : Xfer) (l : Loc) (place : Nat) : (Nat × Nat × Nat × Nat) × OlPlace × State :=
  let (o, s) := olOwner s x.cid 1 (applyCore l) place
  (o, olPlace 1 (applyCore l) place, s)

/-- An SREDS element at a home in the core waits for the reductions that touch it; one elsewhere set out after them (R129, R202). -/
def redsAhead (s : State) (k : Nat) (l : Loc) (n : Nat) : Bool :=
  isLocal k l && ((coreOf s k).comb.any (fun e => overlaps e.loc e.size l n) ||
    s.accs.any fun a => a.isRed && coreNo a.g == k && overlaps a.loc a.size l n)

/-- One SREDS element is applied at its home (R202), after the reductions that touch it, and in its logged turn (R365). -/
def reduceAt (s : State) (x : Xfer) (l : Loc) (place : Nat) (v : Nat) : Put × State :=
  let n := x.w
  if redsAhead s (coreNo x.g) l n then (.stall, s)
  else
    let (o, p, s') := reduceTurn s x l place
    let d := olDec o.2.1 o.2.2.1 false
    if !olAllows s' o.1 p d then (.stall, s)
    else if poisoned s' l n then (.done, olDone s' o.1 p [d])
    else
      let new := leBytes n (amoNew x.r.variant.toNat n (leNat (readHome s' l n)) v 0)
      (.done, olDone (match l with | .scratch a => writeScratchHome s' a new | l => writeHome s' l new) o.1 p [d])

/-- Write one run of a piece from byte `d` of the row of `len` bytes that stands at `off` of opB, or of a core's slice for SMCAST. -/
def writeRun (s : State) (x : Xfer) (w : BitVec 32) (off len d : Nat) (bs : List Byte) (bad : Bool) : Put × State :=
  match reach s x w x.hB off len d bs.length (if x.isReduce then 2 else 1) with
  | (.refused, s) => (.refused, s)
  | (.absent, s) => (.absent, s)
  | (.at_ l, s) =>
    if x.isReduce then
      if bad then (.done, s)
      else
        reduceAt s x l (redPlace s x l (off + d)) (leNat bs)
    else (.done, writePlace s x l bs bad)

/-- Write a piece at the destination. `n` is its length in the source stream. -/
def writePiece (s : State) (x : Xfer) (n : Nat) (bs : List Byte) (bad : Bool) : Put × Xfer × State :=
  let row := x.pos / x.len
  let byte := x.outBytes s (x.pos % x.len)
  if x.isCrc then (.done, { x with crc := crcRun x.crc bs }, s)
  else if x.isCbload then
    let bank := if bad then (Config.freeVec s.free).toNat else leNat bs
    let es := (List.range 16).map fun i => BitVec.ofNat 16 (bits bank (8 * x.w * i) (8 * x.w))
    let s := if bad then { s with free := s.free + 1 } else s
    (.done, x, modCid s x.cid fun c => { c with cb := tset c.cb x.bank { typ := x.r.typ, entries := es } })
  else
    let out := if x.isFxfm then transform s x bs else bs
    if toMf x then fillMf s x out bad
    else if toPlane x then
      let (p, s) := writeRun s x x.opB x.done out.length 0 out bad
      (p, { x with done := x.done + out.length }, s)
    else
      let step := fun (r : Put × State) => (r.1, if r.1 == .done || r.1 == .refused then { x with done := x.done + x.outBytes s n } else x, r.2)
      match x.dstRow row with
      | none => step (.done, s)
      | some o =>
        if x.isMcast then
          step (x.mcastCores.foldl (fun (p, s) c =>
            let w := BitVec.ofNat 32 (c * 0x80_0000 + bits x.opB.toNat 0 30 % 0x80_0000)
            let (p', s') := writeRun s x w o (x.outBytes s x.len) byte out bad
            (if p' = .refused then p' else p, s')) (Put.done, s))
        else step (writeRun s x x.opB o (x.outBytes s x.len) byte out bad)

/-! ### Moving bytes -/

/-- An earlier record of the engine in the same class has still to touch a byte of the runs (R198, R303). -/
def behind (s : State) (x : Xfer) (runs : List (Loc × Nat)) : Bool :=
  (xfersOf s x.cid x.eng).any fun y => y.id < x.id && y.begun && y.total ≠ 0 && y.r.cls == x.r.cls &&
    (srcRuns s y ++ dstRuns s y).any fun (l, n) => runs.any fun (l', n') => overlaps l n l' n'

/-- Earlier records of the engine use the same queue: entries go in ring order (log 26). -/
def queueBusy (s : State) (x : Xfer) : Bool :=
  (xfersOf s x.cid x.eng).any fun y => y.id < x.id && y.begun && ((toMf x && toMf y) || (fromSq x && fromSq y))

/-- Where the next piece comes from; none when it is already read, or reads nothing. -/
def pieceSrc (s : State) (x : Xfer) (n : Nat) : Option (Loc × Nat) :=
  if x.buf ≠ [] || x.inbox.any (·.pos == x.pos) then none
  else (x.srcRow (x.pos / x.len)).bind fun o => (placeOf s x x.opA x.hA o x.len 0).map fun l => (l.plus (x.pos % x.len), n)

/-- Where the next piece goes. -/
def pieceDst (s : State) (x : Xfer) (n : Nat) : List (Loc × Nat) :=
  let m := x.outBytes s n
  if x.isCrc || x.isCbload then []
  else if toPlane x then ((placeOf s x x.opB x.hB x.done m 1).map fun l => (l, m)).toList
  else match x.dstRow (x.pos / x.len) with
    | none => []
    | some o =>
      let d := x.outBytes s (x.pos % x.len)
      if x.isMcast then x.mcastCores.map fun c => (Loc.scratch (c * 0x80_0000 + bits x.opB.toNat 0 30 % 0x80_0000 + o + d), m)
      else ((placeOf s x x.opB x.hB o (x.outBytes s x.len) (if x.isReduce then 2 else 1)).map fun l => (l.plus d, m)).toList

/-- The runs of the next piece. -/
def pieceRuns (s : State) (x : Xfer) (n : Nat) : List (Loc × Nat) := (pieceSrc s x n).toList ++ pieceDst s x n

/-- What a record needs of the banks of its own core, and as a mesh arrival of the banks of others, to move runs (R238). -/
def Xfer.needs (x : Xfer) (runs : List (Loc × Nat)) : List Need :=
  runs.filterMap fun (l, n) =>
    let k := coreIn l
    if linesIn l n = [] then none else some (k, 16 * x.id + (if k = coreNo x.g then x.eng + 3 else 4), linesIn l n)

/-- The next piece writes host memory while an earlier record of its class still has host bytes to write: host writes of one class reach
the host in program order (R311). -/
def hostBehind (s : State) (x : Xfer) (runs : List (Loc × Nat)) : Bool :=
  let host := fun (l : Loc) => agentOf l == 144
  x.eng == 3 && (runs.any fun (l, _) => host l) &&
  (xfersOf s x.cid 3).any fun y => y.id < x.id && y.begun && y.total ≠ 0 && y.r.cls == x.r.cls && (dstRuns s y).any fun (l, _) => host l

/-! ### Packets of a record (R349, R352, R353) -/

/-- Pieces of the stream from byte `p` to byte `e`: where each stands, and its bytes. -/
def Xfer.cuts (x : Xfer) : Nat → Nat → Nat → List (Nat × Nat)
  | 0, _, _ => []
  | k + 1, p, e =>
    let n := ({ x with pos := p } : Xfer).piece
    if e ≤ p || n = 0 then [] else (p, n) :: x.cuts k (p + n) e

/-- The bytes of a packet, from where to where in the stream. -/
def Xfer.packetRun (x : Xfer) (w : Nat) : Nat × Nat :=
  let p := x.windowAt w
  (p, min x.total (p + min 256 (x.len - p % max 1 x.len)))

/-- The receive agents outside the core at which runs stand. -/
def farAgents (k : Nat) (runs : List (Loc × Nat)) : List Nat :=
  (runs.flatMap fun (l, m) => if isLocal k l || m = 0 then [] else ([agentOf l, agentOf (l.plus (m - 1))].filter (· < 145))).eraseDups

/-- The pieces of a packet that an agent is to read: those whose source stands there, and that have not been read. -/
def Xfer.wanted (s : State) (x : Xfer) (w agent : Nat) : List (Nat × Nat × Loc) :=
  let (p, e) := x.packetRun w
  (x.cuts 8 (max p x.pos) e).filterMap fun (q, n) =>
    match pieceSrc s { x with pos := q } n with
    | some (l, _) => if agentOf l = agent && !(x.inbox.any (·.pos == q)) then some (q, n, l) else none
    | none => none

/-- The destination runs of a packet. -/
def packetDst (s : State) (x : Xfer) (w : Nat) : List (Loc × Nat) :=
  let (p, e) := x.packetRun w
  pieceDst s { x with pos := p } (e - p)

/-- A packet of a record is on its way, or with its agent. -/
def onItsWay (s : State) (x : Xfer) (w agent : Nat) : Bool :=
  s.mesh.any fun p => p.agent == agent && (p.job == .record x.id w || p.job == .bytes x.id w agent)

/-- A begun record asks for the source bytes of its next 1,024 that stand outside the core: a request to each agent, once no earlier record
of its class is to write them, and where there is a credit; it waits for one without freezing its engine (R198, R349, R352). -/
def askReads (s : State) (x : Xfer) : State :=
  let k := coreNo x.g
  (List.range 4).foldl (fun s j =>
    let w := x.window x.pos + j
    let (p, e) := x.packetRun w
    if x.total ≤ p then s
    else
      let runs := (x.cuts 8 (max p x.pos) e).filterMap fun (q, n) => pieceSrc s { x with pos := q } n
      (farAgents k runs).foldl (fun s a =>
        if x.wanted s w a = [] || onItsWay s x w a || behind s x runs || shortOf s k a then s
        else request s x.g x.r.cls.toNat a 0 true (.record x.id w)) s) s

/-- sq holds the entries that a packet of a record is to send. -/
def sqReady (s : State) (x : Xfer) (e : Nat) : Bool :=
  !fromSq x || e ≤ (if x.ent.isSome then (x.pos + 2047) / 2048 * 2048 else x.pos) + 2048 * (ctxOfCid s x.cid).sq.length

/-- The resting reductions that the elements of a packet touch leave, and perform before the packet sets out (R129, R202). -/
def clearReds (s : State) (x : Xfer) (runs : List (Loc × Nat)) : Bool × State :=
  if !x.isReduce then (true, s)
  else
    let k := coreNo x.g
    let s := runs.foldl (fun s (l, n) => (flushTouched s k l n).2) s
    (!(runs.any fun (l, n) => (coreOf s k).comb.any (fun e => overlaps e.loc e.size l n) ||
      s.accs.any fun a => a.isRed && coreNo a.g == k && overlaps a.loc a.size l n), s)

/-- A begun record sends the packets of its next 1,024 bytes that write outside the core, in order: each when its bytes are there, no
earlier record of its class is to touch them, and every agent that it writes has a credit (R198, R311, R349, R352). -/
def askWrites (s : State) (x : Xfer) : State :=
  let k := coreNo x.g
  ((List.range 4).foldl (fun (go, s) j =>
    let w := x.window x.pos + j
    let (p, e) := x.packetRun w
    let dst := packetDst s x w
    let ags := farAgents k dst
    let runs := dst ++ (pieceSrc s { x with pos := p } (e - p)).toList
    if !go || x.total ≤ p then (false, s)
    else if ags.all (onItsWay s x w) then (true, s)
    else if behind s x runs || queueBusy s x || hostBehind s x dst || !sqReady s x e || ags.any (shortOf s k) then (false, s)
    else
      let (clear, s) := clearReds s x dst
      if !clear then (false, s)
      else (true, ags.foldl (fun s a => request s x.g x.r.cls.toNat a ((e - p + 63) / 64) false (.record x.id w)) s)) (true, s)).2

/-- The packet that writes at an agent has arrived, and is the next of its stream (R353). -/
def atAgent (s : State) (x : Xfer) (w agent : Nat) : Bool :=
  s.mesh.any fun p => p.agent == agent && p.job == .record x.id w && p.place == .arrived && nextInStream s p

/-- The next piece can move as far as the mesh goes: a source outside the core has been read and its bytes are here, and the packet that
writes outside the core is with its agent. -/
def farReached (s : State) (x : Xfer) : Bool :=
  let n := x.piece
  let k := coreNo x.g
  (match x.inbox.find? (·.pos == x.pos), pieceSrc s x n with
   | some f, _ => f.landed
   | none, some (l, _) => isLocal k l
   | none, none => true) &&
  (farAgents k (pieceDst s x n)).all (atAgent s x (x.window x.pos))

/-- What the reads of an arrived packet need of the banks of their home (R238). -/
def captureNeeds (s : State) (x : Xfer) (w agent : Nat) : List Need :=
  x.needs ((x.wanted s w agent).map fun (_, n, l) => (l, n))

/-- A read packet of a record that is with its agent. -/
def readsHere (s : State) (x : Xfer) : List Packet :=
  if x.eng ≠ 2 then [] else s.mesh.filter fun p => p.place == .arrived && nextInStream s p &&
    (match p.job with | .record id _ => id == x.id | _ => false)

/-- The source runs that stand at an agent, to be read. -/
def runsHere (s : State) (x : Xfer) : List (Loc × Nat) :=
  (readsHere s x).flatMap fun p => match p.job with
    | .record _ w => (x.wanted s w p.agent).map fun (_, n, l) => (l, n)
    | _ => []

/-- An agent reads the bytes that an arrived packet asks for: no bucket holds them, and it wins its banks. They set out in a response, and
the packet's credit goes back (R238, R352, R353, R380). -/
def readAtAgent (s : State) (x : Xfer) (p : Packet) (w : Nat) : State :=
  let ps := x.wanted s w p.agent
  let lines := ps.filterMap fun (_, n, l) => match l with | .phys pa => some (pa, n) | _ => none
  let (won, s) := askBanks s (captureNeeds s x w p.agent)
  if !won then s
  else match regulAll s (coreOf s (coreNo x.g)).fen 0 (coreNo x.g) (8 * x.id + 1) lines with
    | none => s
    | some s =>
      let (x, s) := ps.foldl (fun (x, s) (q, n, _) =>
        match readPiece s { x with pos := q } n with
        | (.data bs bad, _, s) => ({ x with inbox := x.inbox ++ [⟨q, p.agent, bs, bad, false, false⟩] }, s)
        | (.refused, _, s) =>
          ({ x with inbox := x.inbox ++ [⟨q, p.agent, [], false, true, false⟩], logged := (0, q / max 1 x.len) :: x.logged }, s)
        | (.absent, _, s) | (.stall, _, s) => (x, s)) (x, s)
      retireRequest (sendReply (putXfer s x) p.agent p.g p.cls 4 (.bytes x.id w p.agent) 0) p

/-- The packets of a record's reads that have arrived are applied. -/
def captures (s : State) (x : Xfer) : State :=
  (readsHere s x).foldl (fun s p =>
    match p.job, s.xfers.find? (·.id == x.id) with
    | .record _ w, some y => readAtAgent s y p w
    | _, _ => s) s

/-- Packets whose bytes have all been written leave their agents, and their credits go back (R352). -/
def retireWrites (s : State) (id : Nat) : State :=
  match s.xfers.find? (·.id == id) with
  | none => s
  | some x =>
    if x.eng ≠ 3 then s
    else s.mesh.foldl (fun s p => match p.job with
      | .record i w => if i = id && (x.packetRun w).2 ≤ x.pos then retireRequest s p else s
      | _ => s) s

/-- A record that halts takes its packets back and forgets what it has read ahead: no byte past the halt performs (R326; DESIGN CHOICE,
log 120). -/
def withdraw (s : State) (x : Xfer) : State :=
  let s := if x.inbox = [] then s else putXfer s { x with inbox := [] }
  s.mesh.foldl (fun s p => match p.job with
    | .record id _ => if id = x.id then retireRequest s p else s
    | _ => s) s

/-- A resumable fault of a record (R324, R326): it halts, and its engine begins nothing more. In a context that is not active, or
while TRAPPED is set, it is held under PEND and its fault record is written now (R343, R346). In an ended step no handler will
run, and the access gets an error response (log 27). -/
def recordFault (s : State) (x : Xfer) (c : Cause) (opnd hreg : Nat) : State :=
  modCid (putXfer s { x with fault := some (c, opnd, hreg) }) x.cid fun y => modEng y x.eng fun z => { z with halted := true }

/-- The fault record of a halted record (Table 18.6). -/
def recordFrec (s : State) (x : Xfer) (c : Cause) (opnd hreg : Nat) : Word × Word × Word × Word :=
  let fen := (coreOf s (coreNo x.g)).fen
  let row := x.pos / max 1 x.len
  let byte := x.pos % max 1 x.len
  let off := (if opnd = 0 then (x.srcRow row).getD 0 + byte else (x.dstRow row).getD 0 + x.outBytes s byte) +
    bits (if opnd = 0 then x.opA else x.opB).toNat 0 26
  let hv := if opnd = 0 then x.hA else x.hB
  let va := if x.poisonH then hv.toNat + off else handleVa s fen hv off
  frecOf (x.poisonH && poisonMal c) c (x.eng - 1) opnd hreg x.num va row (if x.shaped then x.rows else 1)
    (if x.shaped then byte else x.pos) (x.total - x.pos)

/-- Its context takes no trap for it now: the fault is held under PEND, with its fault record (R343, R346). Of several faults the record
describes the one that R326 will choose. -/
def pendFault (s : State) (x : Xfer) : State :=
  match x.fault, findCtx s x.cid with
  | some (c, o, h), some (g, bank) =>
    let y := ctxAt s g bank
    if x.pended || x.served || (bank = 0 && y.pl = 0#2 && !y.trapped) then s
    else
      let mine := s.xfers.filter fun y => y.cid == x.cid && y.recorded
      let first := !mine.any fun y => y.eng < x.eng || (y.eng == x.eng && y.id < x.id)
      let s := if first then mine.foldl (fun s y => putXfer s { y with recorded := false }) s else s
      let s := putXfer s { x with pended := true, recorded := first }
      modCid s x.cid fun y => { y with pend := true, tr := if first then y.tr.record (some (recordFrec s x c o h)) else y.tr }
  | _, _ => s

/-- Regulators of the handle operands of a piece (R380): none holds it, and the state with its bytes carried. -/
def pieceRegul (s : State) (x : Xfer) (n : Nat) : Option State :=
  regulAll s (coreOf s (coreNo x.g)).fen (if x.eng = 2 then 0 else 1) (coreNo x.g) (8 * x.id + 1)
    ((pieceRuns s x n).filterMap fun (l, m) => match l with | .phys pa => some (pa, m) | _ => none)

/-- Status of an access that met an error response (R123), or of bad bytes. -/
def Xfer.mark (x : Xfer) (st : BitVec 32) : Xfer := { x with status := x.status ||| st }

/-- A piece with a bad source byte sets DERR, wherever it goes (R198). -/
def Xfer.spoil (x : Xfer) (bad : Bool) : Xfer := if bad then x.mark stDerr else x

/-- The index of the piece's row stood in a line with an uncorrectable error (R198). -/
def lostIndex (x : Xfer) : Bool := (x.isGather || x.isScatter) && nth none x.idx (x.pos / x.len) == none

/-- Move one piece. Bytes that an error response withholds leave the destination unchanged; in an mf entry and in a CRC, which the
spec gives no value then, they are free (log 6). The record and state after it, or none when it cannot move in this clock. -/
def movePiece (s : State) (x : Xfer) : Option (Xfer × State) :=
  let n := x.piece
  let needs := x.needs (pieceRuns s x n)
  if behind s x (pieceRuns s x n) || queueBusy s x || !farReached s x || hostBehind s x (pieceRuns s x n) ||
      needs.any (bankLost s) then none
  else match pieceRegul s x n with
    | none => none
    | some s =>
      let s := needs.foldl takeBanks s
      let hA := bits x.opA.toNat 26 4
      let hB := bits x.opB.toNat 26 4
      let halt := fun (s : State) (o h : Nat) => if stepGone s x.cid then none else some (x, recordFault s x .notpresent o h)
      let skip := fun (s : State) (x : Xfer) => some ({ (x.mark stErr) with pos := x.pos + n }, s)
      let seen := fun (o : Nat) (x : Xfer) => { x with logged := (o, x.pos / x.len) :: x.logged }
      match readPiece s x n with
      | (.stall, _, _) => none
      | (.absent, _, s') => if stepGone s x.cid then skip s' x else halt s 0 hA
      | (.refused, x', s') =>
        let x' := seen 0 x'
        if toMf x || x.isCrc then
          let free := (vecBytes (Config.freeVec s'.free)).take n
          match writePiece { s' with free := s'.free + 1 } x' n free false with
          | (.done, x2, s2) => skip s2 x2
          | _ => none
        else skip s' { x' with done := x'.done + x.outBytes s n }
      | (.data bs bad0, x1, s1) =>
        let bad := bad0 || lostIndex x
        match writePiece s1 x1 n bs bad with
        | (.stall, _, _) => none
        | (.absent, _, s') => if stepGone s x.cid then skip s' (x1.spoil bad) else halt s 1 hB
        | (.refused, x2, s2) => skip s2 (seen 1 (x2.spoil bad))
        | (.done, x2, s2) => some ({ (x2.spoil bad) with pos := x.pos + n, fillBad := x2.fillBad || (x2.isCrc && bad) }, s2)

/-- A piece of a record does not move: the resting reductions that an SREDS element in the core touches leave (R129, R202), and an element
that waits for its logged turn counts as held (R366). -/
def stalled (s : State) (x : Xfer) : State :=
  let k := coreNo x.g
  match (if x.isReduce then pieceDst s x x.piece else []) with
  | [(l, n)] =>
    let s := if isLocal k l then (flushTouched s k l n).2 else s
    if redsAhead s k l n || !farReached s x then s
    else
      let (o, p, _) := reduceTurn s x l (redPlace s x l ((x.dstRow (x.pos / x.len)).getD 0 + x.pos % x.len))
      if olAllows s o.1 p (olDec o.2.1 o.2.2.1 false) then s else olHold s (coreOf s k).fen (2 * x.id)
  | _ => s

/-- Move up to `k` pieces of a record, and at most 256 bytes (R233). -/
def moveXfer (s : State) (x : Xfer) : Nat → Nat → State
  | 0, _ => s
  | k + 1, budget =>
    if x.pos ≥ x.total || x.fault.isSome || budget < x.piece then s
    else match movePiece s x with
      | none => stalled s x
      | some (x', s') =>
        if (s'.xfers.any fun y => y.id == x.id && y.fault.isSome) then s'
        else moveXfer (putXfer s' x') x' k (budget - x.piece)

/-- A record stands still behind an earlier record of its engine that halts (R326). -/
def haltedBehind (s : State) (x : Xfer) : Bool := (xfersOf s x.cid x.eng).any fun y => y.fault.isSome && y.id ≤ x.id

/-! ### Beginning (R53, R196) -/

/-- Classes that a record accepts of opA and of opB (Table 8.2). -/
def xferAccepts (eng major : Nat) : List Accept × List Accept :=
  let src := if eng = 2 then [Accept.own, .state, .handle] else [.own, .state, .sq]
  (src, match eng, major with
    | 2, 0x40 | 2, 0x42 => [.own, .state, .mf, .plane]
    | 2, 0x41 => [.own, .state, .mf]
    | _, 0x44 => [.own, .state]
    | 3, 0x43 => [.own]
    | _, _ => [.own, .handle])

/-- The handle register of an operand of space 2, and its value. -/
def operandHandle (c : Ctx) (w : BitVec 32) : Option (Nat × Val) :=
  match Operand.ofWord w with
  | .handle h _ => some (h, rdH c h)
  | _ => none

/-- Checks of a list of rows, until one fails. -/
def rowFaults (x : Xfer) (w : BitVec 32) (n : Nat) (any : Bool) (kind : Nat) : List (Option Nat) → State → List Cause × State
  | [], s => ([], s)
  | none :: r, s => rowFaults x w n any kind r s
  | some o :: r, s =>
    match placeFaults s x.g w o n 64 any kind x.eng with
    | ([], s) => rowFaults x w n any kind r s
    | (c, s) => (c, s)

/-- A handle operand's address is a multiple of 64 (R197). -/
def handleOff (w : BitVec 32) (hv : Word) : Bool :=
  match Operand.ofWord w with
  | .handle _ o => ((Handle.ofWord hv).off + o) % 64 ≠ 0
  | _ => false

/-- Read the index list at an operand: an index of a line with an uncorrectable error is none. -/
def readIndices (s : State) (x : Xfer) (w : BitVec 32) : List (Option Nat) :=
  (List.range x.rows).map fun i =>
    let (bs, bad) := readOperand s (coreNo x.g) x.cid w (i * x.w) x.w
    if bad then none else some (leNat bs)

/-- A value of an index register: an address operand of space 0, or of space 1 with target 0 (R200). -/
def indexOperand (v : Word) : Option (BitVec 32) :=
  if v.toNat < 2 ^ 32 && (bits v.toNat 30 2 == 0 || bits v.toNat 24 8 == 0x40) then some (v.setWidth 32) else none

/-- A value of a set register is legal (R201). -/
def setOk (v : Word) : Bool :=
  let x := v.toNat
  x < 2 ^ 15 && !bitAt x 7 && 1 ≤ bits x 0 7 && bits x 0 7 ≤ 96 && 1 ≤ bits x 8 7 && bits x 8 7 ≤ 95

/-- Every piece of the source, read at once (R199). -/
def readWhole (s : State) (x : Xfer) : Nat → List (List Byte × Bool)
  | 0 => []
  | k + 1 =>
    if x.pos ≥ x.total then []
    else match readPiece s x x.piece with
      | (.data bs bad, _, _) => (bs, bad) :: readWhole s { x with pos := x.pos + x.piece } k
      | _ => ([], false) :: readWhole s { x with pos := x.pos + x.piece } k

/-- CHAIN: the record reads the value at opB first (R206). -/
def Xfer.chained (x : Xfer) : Bool := x.isCrc && x.r.variant.getLsbD 3

/-- The source of a record overlaps its destination (R199). -/
def crosses (s : State) (x : Xfer) : Bool :=
  (srcRuns s x).any fun (l, n) => (dstRuns s x).any fun (l', n') => overlaps l n l' n'

/-- The index list of a record that is to begin is still to be written by an earlier record of its class (R198). -/
def listBehind (s : State) (x : Xfer) : Bool :=
  let c := ctxOfCid s x.cid
  (x.isGather || x.isScatter) &&
  match recordShape c x.eng x.r, indexOperand (rdA c x.eng x.r.variant.toNat).w with
  | .ok sh, some w => behind s x [(operandLoc s (coreNo x.g) w 0, sh.rows * x.w)]
  | _, _ => false

/-- What a record needs of its core's banks for bytes that it reads or writes at once: its index list as it is about to begin, CHAIN's
value, an overlapping source, and its CRC at the end. A long run counts as one line of each of its banks (R238, R397; log 11). -/
def wholeNeeds (s : State) (x : Xfer) : List Need :=
  let k := coreNo x.g
  let one := fun (l : Loc) (ls : List (Nat × Nat)) => if coreIn l = k && ls ≠ [] then [((k, 16 * x.id + x.eng + 3, ls) : Need)] else []
  let crc := operandLoc s k x.opB 0
  if !x.begun then
    let c := ctxOfCid s x.cid
    let next := (xfersOf s x.cid x.eng).find? (fun y => !y.begun && y.fault.isNone) == some x && !haltedBehind s x && !listBehind s x
    match next && (x.isGather || x.isScatter), recordShape c x.eng x.r, indexOperand (rdA c x.eng x.r.variant.toNat).w with
    | true, .ok sh, some w => let l := operandLoc s k w 0; one l (banksIn l (sh.rows * x.w))
    | _, _, _ => []
  else if x.isCrc && x.total ≤ x.pos then one crc (linesIn crc 8)
  else if x.ready then []
  else (if x.chained then one crc (linesIn crc 8) else []) ++
    (if crosses s x then (srcRuns s x).flatMap fun (l, n) => one l (banksIn l n) else [])

/-- What a begun record reads before its first byte: CHAIN's value (R206), and a source that overlaps the destination (R199); none while an
earlier record of its class has still to touch those bytes, or while their banks are lost (R198, R238). -/
def prepared (s : State) (x : Xfer) : Option Xfer :=
  if x.ready then some x
  else
    let k := coreNo x.g
    let chained := x.chained
    let crosses := crosses s x
    if (chained && behind s x [(operandLoc s k x.opB 0, 8)]) || (crosses && behind s x (srcRuns s x)) ||
        (wholeNeeds s x).any (bankLost s) then none
    else
      let (bs, bad) := readOperand s k x.cid x.opB 0 8
      let x := if chained then { (if bad then x.mark stDerr else x) with crc := BitVec.allOnes 64 ^^^ BitVec.ofNat 64 (leNat bs),
                                                                         fillBad := x.fillBad || bad } else x
      some { x with ready := true, buf := if crosses then readWhole s x x.total else x.buf }

/-- One clock of a begun record: its packets that have arrived read, its next ones set out, and the bytes that are at hand move. -/
def runXfer (s : State) (x : Xfer) : State :=
  match prepared s x with
  | none => s
  | some y =>
    let y := { y with inbox := y.inbox.filter fun f => y.pos ≤ f.pos }
    let s := captures (if y = x then s else putXfer s y) y
    match s.xfers.find? (·.id == x.id) with
    | none => s
    | some y =>
      let s := if y.eng = 2 then askReads s y else askWrites s y
      retireWrites (moveXfer s y 64 256) x.id

/-- The record is to move bytes in this clock. -/
def xferActs (s : State) (x : Xfer) : Bool :=
  x.begun && x.start ≤ s.clock && x.pos < x.total && x.fault.isNone && !haltedBehind s x

/-- The needs of the pieces that a record is to move in this clock, 256 bytes at most. -/
def pieceNeeds (s : State) : Nat → Nat → Xfer → List (List Need)
  | 0, _, _ => []
  | k + 1, budget, x =>
    if x.total ≤ x.pos || budget < x.piece || !farReached s x then []
    else x.needs (pieceRuns s x x.piece) ::
      pieceNeeds s k (budget - x.piece) { x with pos := x.pos + x.piece, done := x.done + x.outBytes s x.piece }

/-- What a record needs of banks in this clock: for its arrived reads, for what it reads or writes at once, and for its next pieces. -/
def xferNeeds (s : State) (x : Xfer) : List (List Need) :=
  if x.begun && (s.clock < x.start || haltedBehind s x) then []
  else (wholeNeeds s x).map (fun n => [n]) ++
    (if xferActs s x then (readsHere s x).map (fun p => match p.job with | .record _ w => captureNeeds s x w p.agent | _ => []) ++
      pieceNeeds s 64 256 x else [])

/-- A fetch or store engine loses the arbitration of this clock: a record of it needs a bank of its core that it has not won (R238). -/
def recordLoses (s : State) (g e : Nat) : Bool :=
  s.xfers.any fun x => x.g == g && x.eng == e &&
    (xferNeeds s x).any fun xs => xs.any fun n => n.1 == coreNo g && n.2.1 % 16 == e + 3 && bankLost s n

/-- One clock of a record. -/
def moveXferOf (s : State) (id : Nat) : State :=
  match s.xfers.find? (·.id == id) with
  | some x =>
    if !x.begun || s.clock < x.start then s
    else if haltedBehind s x then withdraw s x
    else runXfer s x
  | none => s

/-- The checks on a record's resolved operands (R175, R196, R200 to R203), and the record with its index list. -/
def xferChecks (s : State) (x : Xfer) : List Cause × Xfer × State :=
  let (okA, okB) := xferAccepts x.eng x.major
  let cls := fun (w : BitVec 32) (ok : List Accept) => match acceptOf w with | some a => ok.contains a | none => false
  let element := if x.isFxfm then (if x.xf = 1 then x.w else if x.xf = 2 then 4 else 1) else if x.isReduce then x.w else 1
  if !cls x.opA okA || (!x.isCbload && !cls x.opB okB) || x.len % element ≠ 0 || (x.isMcast && !setOk x.reg) then ([.cmdopnd], x, s)
  else
    let (fi, x, s) :=
      if x.isGather || x.isScatter then
        match indexOperand x.reg with
        | none => ([Cause.cmdopnd], x, s)
        | some w =>
          let (f, s) := placeFaults s x.g w 0 (x.rows * x.w) 64 false 0 x.eng
          if f = [] then ([], { x with idx := readIndices s x w }, s) else (f, x, s)
      else ([], x, s)
    if fi ≠ [] then (fi, x, s)
    else
      let rows := List.range x.rows
      let (fa, s) := rowFaults x x.opA x.len (x.eng == 2) 0 (rows.map x.srcRow) s
      let (fb, s) :=
        if x.isCbload then (([] : List Cause), s)
        else if x.isCrc then placeFaults s x.g x.opB 0 8 8 false 1 x.eng
        else if toPlane x then placeFaults s x.g x.opB 0 (x.outBytes s x.total) 1 false 1 x.eng
        else rowFaults x x.opB (x.outBytes s x.len) (x.eng == 3) (if x.isReduce then 2 else 1) (rows.map x.dstRow) s
      (fa ++ fb ++ (if handleOff x.opA x.hA || handleOff x.opB x.hB then [.align] else []), x, s)

/-- A terminal fault of a record as it begins: it is gone, and its launch ends (R344). TPC is the sequencer's next group (R333). -/
def xferTrap (s : State) (x : Xfer) (c : Cause) (tval : Word) : State := faultStep (dropXfer s x) x.cid x.eng c (recordTpc s x.cid) tval

/-- A record completes: it raises ptok once with its status (R198). -/
def finishXfer (s : State) (x : Xfer) : State :=
  let s := dropXfer s x
  let s := if bitAt x.status.toNat 2 then count s (coreOf s (coreNo x.g)).fen cntDerr 1 else s
  raiseTok s x.cid x.r.ptok.toNat 1 x.status

/-- Begin a record whose operands are there: it is checked, and its bytes move from the tenth clock on (R233). A record of zero extent
touches no memory (R54), so the checks of R175 and R196 on its operands are not made (DESIGN CHOICE, log 104). -/
def beginChecked (s : State) (x : Xfer) : State :=
  if x.total = 0 then
    let (d, s) := draw s
    putXfer s { x with begun := true, ready := true, start := s.clock + 10 + d, due := s.clock + 10 + d }
  else
    let (fs, x, s) := xferChecks s x
    match worstCause fs with
    | some c => xferTrap s x c 0#64
    | none =>
      let (d, s) := draw s
      let most := max x.total (x.outBytes s x.total)
      let start := s.clock + 10 + d
      putXfer s { x with begun := true, start, due := start + (most + 255) / 256, crc := BitVec.allOnes 64 }

/-- Begin a record: its operands, shape and registers are read; a poisoned one faults, of several the cause of highest priority (R53,
R54, R195, R196, R329; log 105). A handle poisoned with a resumable cause halts it (R324); its fault record names the row of the first
index (Table 18.6). -/
def beginXfer (s : State) (x : Xfer) : State :=
  let c := ctxOfCid s x.cid
  let named := x.isGather || x.isScatter || x.isMcast
  let a := resolveOperand c x.eng x.r.opA
  let b := resolveOperand c x.eng x.r.opB
  let sh := recordShape c x.eng x.r
  let reg := if named then rdA c x.eng x.r.variant.toNat else ⟨0#64, none⟩
  let ha := a.toOption.bind (operandHandle c)
  let hb := b.toOption.bind (operandHandle c)
  let hv := fun (h : Option (Nat × Val)) => match h with | some (_, v) => v | none => ⟨0#64, none⟩
  let shape := sh.toOption.getD ⟨1, 0, 0, 0, false⟩
  let x := { x with opA := a.toOption.getD 0#32, opB := b.toOption.getD 0#32, hA := (hv ha).w, hB := (hv hb).w, reg := reg.w,
                    rows := shape.rows, len := shape.len, strideA := shape.strideA, strideB := shape.strideB, shaped := shape.shaped }
  let regs := [errVal a, errVal b, errVal sh, reg]
  match worst (regs ++ [hv ha, hv hb]) with
  | none => beginChecked s x
  | some (p, w) =>
    if causeResumable p && !regs.any (·.p == some p) then
      let (o, h) := if (hv ha).p = some p then (0, ha) else (1, hb)
      let idx := match (if x.isGather || x.isScatter then indexOperand x.reg else none) with | some w => readIndices s x w | none => []
      let x := { x with poisonH := true, idx }
      recordFault (putXfer s x) x p o (match h with | some (n, _) => n | none => 0)
    else xferTrap s x p w

/-- TRANSFER_RECORD_BEGINS: the oldest record that the engine has taken and not begun, unless the engine halts or the record's index list
is still being written. (R198) -/
def execTransferRecordBegins (g e : Nat) (s : State) : Host.Outcome State Fault Refusal :=
  if 384 ≤ g || (e ≠ 2 && e ≠ 3) then .fault .noSuchObject
  else .next (match (xfersOf s (ctxOf s g).cid e).find? fun x => !x.begun && x.fault.isNone with
    | some x => if haltedBehind s x || listBehind s x || (wholeNeeds s x).any (bankLost s) then s else beginXfer s x
    | none => s)

/-! ### Restart (R328) -/

/-- A halted record, or one behind it, re-reads the handle registers that it names, and keeps its other operands. A record that halted as it
began begins; one behind it that has not begun does so in its turn (R53, R328). -/
def restartXfer (s : State) (x : Xfer) : State :=
  let c := ctxOfCid s x.cid
  let fresh := !x.begun && x.fault.isNone
  let x := { x with fault := none, pended := false, served := false, poisonH := false, recorded := false }
  if fresh then putXfer s x
  else
    let ha := operandHandle c x.opA
    let hb := operandHandle c x.opB
    let hv := fun (h : Option (Nat × Val)) => match h with | some (_, v) => v | none => ⟨0#64, none⟩
    let x := { x with hA := (hv ha).w, hB := (hv hb).w }
    match worst [hv ha, hv hb] with
    | none => if x.begun then putXfer s x else beginChecked (putXfer s x) x
    | some (p, w) =>
      if causeResumable p then
        let (o, h) := if (hv ha).p = some p then (0, ha) else (1, hb)
        recordFault s { x with poisonH := true } p o (match h with | some (n, _) => n | none => 0)
      else xferTrap s x p w

/-- Restart the halted records of a context whose fault has been delivered (R328). -/
def restartXfers (s : State) (cid : Nat) : State :=
  let ids := (s.xfers.filter fun x => x.cid == cid && haltedBehind s x).map (·.id)
  let s := modCid s cid fun c => modEng (modEng c 2 fun z => { z with halted := false }) 3 fun z => { z with halted := false }
  ids.foldl (fun s id =>
    match s.xfers.find? (·.id == id) with
    | some x =>
      if x.pended then modCid s cid fun c => modEng c x.eng fun z => { z with halted := true }
      else if (xfersOf s cid x.eng).any fun y => y.fault.isSome && y.id < x.id then s
      else restartXfer s x
    | none => s) s

/-! ### Completion (R198) -/

/-- The last write of a record: the part-filled mf entry, or the CRC (R197, R206); none while mf has no room, or while an earlier record of
the class has still to touch the CRC's bytes, or its bank is lost (R198, R238). -/
def lastWrite (s : State) (x : Xfer) : Option State :=
  if x.isCrc then
    let out := leBytes 8 (x.crc ^^^ BitVec.allOnes 64).toNat
    if behind s x [(operandLoc s (coreNo x.g) x.opB 0, 8)] || (wholeNeeds s x).any (bankLost s) then none
    else some (writeOperand s (coreNo x.g) x.cid x.opB 0 out x.fillBad)
  else if x.fill = [] then some s
  else sendEntry s x.g x.cid { val := vecOfBytes x.fill, poison := if x.fillBad then some .memerr else none } true false false

/-- TRANSFER_RECORD_COMPLETES: every byte has moved and the last write is made; ptok rises. A record behind a halted one, and one of zero
extent before its minimum duration, do not complete. (R54, R198, R233, R326) -/
def execTransferRecordCompletes (id : Nat) (s : State) : Host.Outcome State Fault Refusal :=
  match s.xfers.find? (·.id == id) with
  | none => .next s
  | some x =>
    if !x.begun || haltedBehind s x || x.pos < x.total || s.clock < x.due then .next s
    else if x.total = 0 then .next (finishXfer s x)
    else .next (match lastWrite s x with
      | some s' => finishXfer s' x
      | none => s)

end Sys2Proof.Machine
end

