-- ==== Sys2Proof/Machine/Frames.lean ====
section
/-! DEFINITION. The frame engine: the frame area of a fen (R268 to R271), frame regions (R272, R273), the FRM words (R208 to R215,
R274, R275), and the prefix cache (R276). -/

namespace Sys2Proof.Machine
open Sys2Proof

/-! ### Reaching the frame area (R268) -/

/-- Why a frame operation fails as a whole. -/
inductive FErr where
  /-- FRMERR -/
  | frm
  /-- NOSPACE -/
  | noSpace
  /-- a page of the frame area cannot be reached: its address, and whether a write met it -/
  | page (va : Nat) (write : Bool)
  /-- scratch bytes that the command reads got an error response: address and reason (R323) -/
  | scratch (a reason : Nat)
deriving DecidableEq, Repr

/-- The page that contains `va` is absent (R319). -/
def pageAbsent (f : Fen) (va : Nat) : Bool := f.ht.any fun (_, e) => e.alloc && !e.present && e.base ≤ va && va < e.base + e.size

/-- Physical address of a byte of the frame area. -/
def frameVa (s : State) (fen va : Nat) (write : Bool) : Except FErr Nat :=
  if pageAbsent (fenOf s fen) va then .error (.page va write)
  else match translateVa s fen va write true with
    | some pa => .ok pa
    | none => .error (.page va write)

/-- Read bytes of the frame area. -/
def frameRead (s : State) (fen va n : Nat) : Except FErr (List Byte) :=
  (pieces 4096 va n).foldl (fun o (a, k) => do
    let bs ← o
    let pa ← frameVa s fen a false
    .ok (bs ++ readHome s (.phys pa) k)) (.ok [])

/-- Some line of a run of the frame area holds a poison syndrome. -/
def frameBad (s : State) (fen va n : Nat) : Bool :=
  (pieces 4096 va n).any fun (a, k) => match frameVa s fen a false with
    | .ok pa => poisoned s (.phys pa) k
    | .error _ => false

/-- Write bytes of the frame area. -/
def frameWrite (s : State) (fen va : Nat) (bs : List Byte) : Except FErr State :=
  (pieces 4096 va bs.length).foldl (fun o (a, n) => do
    let s ← o
    let pa ← frameVa s fen a true
    .ok (writeHome s (.phys pa) ((bs.drop (a - va)).take n))) (.ok s)

/-! ### The frame table (R269, R270) -/

/-- A frame table entry (Table 13.2). -/
structure FEntry where
  st : Nat
  hold : Nat
  gen : Nat
  npages : Nat
  plist : Nat
  trec : Nat
  key : Nat
  iseq : Nat
deriving DecidableEq, Repr

def FEntry.bytes (e : FEntry) : List Byte :=
  leBytes 1 e.st ++ leBytes 1 e.hold ++ leBytes 2 0 ++ leBytes 4 e.gen ++ leBytes 4 e.npages ++ leBytes 4 0 ++ leBytes 8 e.plist ++
  leBytes 8 e.trec ++ leBytes 16 e.key ++ leBytes 8 e.iseq ++ leBytes 8 0

def FEntry.ofBytes (bs : List Byte) : FEntry :=
  ⟨fieldLE bs 0 1, fieldLE bs 1 1, fieldLE bs 4 4, fieldLE bs 8 4, fieldLE bs 0x10 8, fieldLE bs 0x18 8, fieldLE bs 0x20 16, fieldLE bs 0x30 8⟩

/-- Session registers of a fen. -/
def sessOf (s : State) (fen : Nat) : SessRegs := (fenOf s fen).sess
def ftCount (s : State) (fen : Nat) : Nat := (sessOf s fen).ftcount.toNat
def poolBase (s : State) (fen : Nat) : Nat := (sessOf s fen).poolbase.toNat
def poolPages (s : State) (fen : Nat) : Nat := (sessOf s fen).poolpages.toNat

def entryAt (s : State) (fen i : Nat) : Except FErr FEntry :=
  (frameRead s fen ((sessOf s fen).ftbase.toNat + 64 * i) 64).map FEntry.ofBytes
def putEntry (s : State) (fen i : Nat) (e : FEntry) : Except FErr State :=
  frameWrite s fen ((sessOf s fen).ftbase.toNat + 64 * i) e.bytes

/-- The first free entry among `n` from index `i`. -/
def findEntry (s : State) (fen : Nat) : Nat → Nat → Except FErr (Nat × FEntry)
  | 0, _ => .error .noSpace
  | n + 1, i => do
    let e ← entryAt s fen i
    if e.st = 0 then .ok (i, e) else findEntry s fen n (i + 1)

/-- Every entry of the frame table with its index. -/
def allEntries (s : State) (fen : Nat) : Except FErr (List (Nat × FEntry)) :=
  (List.range (ftCount s fen)).foldl (fun o i => do
    let l ← o
    let e ← entryAt s fen i
    .ok (l ++ [(i, e)])) (.ok [])

/-- A frame or snapshot handle: fen, kind, generation, index (Table 13.1). -/
def frameHandle (fen kind gen i : Nat) : Word := BitVec.ofNat 64 (fen * 2 ^ 60 + kind * 2 ^ 58 + gen % 2 ^ 26 * 2 ^ 32 + i % 2 ^ 20)

/-- The entry that a handle names, if it passes its check with one of the kinds (R269). -/
def frameCheck (s : State) (fen : Nat) (w : Word) (kinds : List Nat) : Except FErr (Nat × FEntry) := do
  let x := w.toNat
  let i := bits x 0 20
  if bits x 60 4 ≠ fen || !kinds.contains (bits x 58 2) || bits x 20 12 ≠ 0 || ftCount s fen ≤ i then .error .frm
  else
    let e ← entryAt s fen i
    if e.st = bits x 58 2 && e.gen % 2 ^ 26 = bits x 32 26 then .ok (i, e) else .error .frm

/-- The pages of a frame, in order. -/
def pageList (s : State) (fen : Nat) (e : FEntry) : Except FErr (List Nat) := do
  let bs ← frameRead s fen e.plist (8 * e.npages)
  .ok (elems8 e.npages bs)
where
  elems8 (n : Nat) (bs : List Byte) : List Nat := (chunk 8 n bs).map leNat

/-! ### Pool pages (R270, R271) -/

/-- Address of the sidecar of the pool page at `p`. -/
def sidecar (s : State) (fen p : Nat) : Nat :=
  poolBase s fen + poolPages s fen * 0x1_0000 + 256 * ((p - poolBase s fen) / 0x1_0000)

/-- REF of a pool page. -/
def refOf (s : State) (fen p : Nat) : Except FErr Nat := (frameRead s fen (sidecar s fen p + 128) 2).map leNat
def setRef (s : State) (fen p n : Nat) : Except FErr State := frameWrite s fen (sidecar s fen p + 128) (leBytes 2 n)

/-- A page gains a reference; above 65,535 the operation fails. -/
def upRef (s : State) (fen p : Nat) : Except FErr State := do
  let n ← refOf s fen p
  if 65535 ≤ n then .error .frm else setRef s fen p (n + 1)

/-- A page loses a reference. -/
def downRef (s : State) (fen p : Nat) : Except FErr State := do
  let n ← refOf s fen p
  setRef s fen p (n - 1)

def upRefs (s : State) (fen : Nat) (ps : List Nat) : Except FErr State := ps.foldl (fun o p => o.bind fun s => upRef s fen p) (.ok s)
def downRefs (s : State) (fen : Nat) (ps : List Nat) : Except FErr State := ps.foldl (fun o p => o.bind fun s => downRef s fen p) (.ok s)

/-- The first free page among `n` from `p`. -/
def findPage (s : State) (fen : Nat) : Nat → Nat → Except FErr Nat
  | 0, _ => .error .noSpace
  | n + 1, p => do
    let r ← refOf s fen p
    if r = 0 then .ok p else findPage s fen n (p + 0x1_0000)

/-- Write the CRC of a 4 KiB block of a page (R270). -/
def putCrc (s : State) (fen p block : Nat) (bs : List Byte) : Except FErr State :=
  frameWrite s fen (sidecar s fen p + 8 * block) (leBytes 8 (crc64 bs).toNat)

/-- Allocate the free page of least index: zeroed, with the CRCs of its blocks, and with REF 1 (R270, R271). -/
def allocPage (s : State) (fen : Nat) : Except FErr (Nat × State) := do
  let p ← findPage s fen (poolPages s fen) (poolBase s fen)
  let s ← frameWrite s fen p (List.replicate 0x1_0000 0#8)
  let crc := leBytes 8 (crc64 (List.replicate 4096 0#8)).toNat
  let s ← frameWrite s fen (sidecar s fen p) ((List.replicate 16 crc).flatten)
  let s ← setRef s fen p 1
  .ok (p, s)

/-- Write bytes of a pool page, and the CRC of every 4 KiB block that they touch (R270). -/
def pageWrite (s : State) (fen va : Nat) (bs : List Byte) : Except FErr State := do
  let s ← frameWrite s fen va bs
  let p := poolBase s fen + (va - poolBase s fen) / 0x1_0000 * 0x1_0000
  ((pieces 4096 (va - p) bs.length).map (·.1 / 4096)).foldl (fun o b => do
    let s ← o
    let block ← frameRead s fen (p + 4096 * b) 4096
    putCrc s fen p b block) (.ok s)

/-- Store a page list. -/
def putPages (s : State) (fen : Nat) (e : FEntry) (ps : List Nat) : Except FErr State :=
  pageWrite s fen e.plist (ps.flatMap fun p => leBytes 8 p)

/-- Free pool pages now (POOLFREE). -/
def poolFree (s : State) (fen : Nat) : Nat :=
  ((List.range (poolPages s fen)).filter fun i => match refOf s fen (poolBase s fen + 0x1_0000 * i) with | .ok 0 => true | _ => false).length

/-- Take the free entry of least index (R271). -/
def allocFEntry (s : State) (fen : Nat) : Except FErr (Nat × FEntry) := findEntry s fen (ftCount s fen) 0

/-- Free an entry: its generation rises (R269), and its page list's page loses its reference (R275). -/
def freeFEntry (s : State) (fen i : Nat) (e : FEntry) : Except FErr State := do
  let s ← putEntry s fen i { e with st := 0, hold := 0, gen := (e.gen + 1) % 2 ^ 26 }
  downRef s fen e.plist

/-- Clear a HOLD bit of a snapshot. One that is no longer cached has KEY and TREC 0, and its token record's page is freed (Table 13.2;
DESIGN CHOICE, log 108); at HOLD 0 it is freed (R271). -/
def dropHold (s : State) (fen i bit : Nat) (e : FEntry) : Except FErr State := do
  let h := if bitAt e.hold bit then e.hold - 2 ^ bit else e.hold
  let out := !bitAt h 1
  let s ← if out && e.trec ≠ 0 then downRef s fen e.trec else .ok s
  let e' := if out then { e with hold := h, trec := 0, key := 0 } else { e with hold := h }
  if h ≠ 0 then putEntry s fen i e'
  else
    let ps ← pageList s fen e
    let s ← downRefs s fen ps
    freeFEntry s fen i e'

/-! ### Frame regions (R272, R273) -/

/-- Make a region entry. -/
def makeRegion (s : State) (core : Nat) (r : Region) : State := modCore s core fun c => { c with regions := c.regions ++ [r] }

/-- Copy one line of the state store. -/
def copyLine (s : State) (core src dst : Nat) : State :=
  let bad := poisoned s (.state core src) 64
  let s := writeHome s (.state core dst) (readHome s (.state core src) 64)
  if bad then poisonLines s (.state core dst) 64 else s

/-- Release a region: the active lines of half 1 go into half 0, and the entry frees. -/
def releaseRegion (s : State) (core : Nat) (r : Region) : State :=
  let s := r.act.foldl (fun s i => copyLine s core (r.off + 64 * r.lines + 64 * i) (r.off + 64 * i)) s
  modCore s core fun c => { c with regions := c.regions.filter fun x => x.off != r.off }

/-- Discard the unpublished lines of the regions of a launch that a holder holds (Table 13.3). -/
def discardDirty (s : State) (lid : Nat) (holder : Option Nat) : State :=
  { s with cores := s.cores.map fun (k, c) => (k, { c with regions := c.regions.map fun r =>
      if r.lid = lid && (holder == none || holder == some r.holder) then { r with dirty := [] } else r }) }

/-- Regions of the cores overlap, or a core would hold more than eight (R272). -/
def regionFits (c : Core) (off lines : Nat) (more : Nat) : Bool :=
  off + 128 * lines ≤ 0x30_0000 && c.regions.length + more < 8 + 1 &&
  !(c.regions.any fun r => off < r.off + 128 * r.lines && r.off < off + 128 * lines)

/-! ### Loads and stores of frames (R209, R210, R274, R282) -/

/-- Frame byte runs by 4 KiB block: page number, block, and offset in the run, for `n` bytes from frame byte `off`. -/
def blocksOf (off n : Nat) : List (Nat × Nat × Nat) :=
  (List.range (n / 4096)).map fun i => let x := off + 4096 * i; (x / 0x1_0000, x % 0x1_0000 / 4096, 4096 * i)

/-- Load frame bytes into state bytes in the view of a step: the blocks that failed their CRC, and the state. -/
def loadFrame (s : State) (fen core : Nat) (st : Option StepCtx) (e : FEntry) (off n dest : Nat) : Except FErr (Nat × State) := do
  let ps ← pageList s fen e
  (blocksOf off n).foldl (fun o (p, b, d) => do
    let (bad, s) ← o
    let page := nth 0 ps p
    let bs ← frameRead s fen (page + 4096 * b) 4096
    let crc ← frameRead s fen (sidecar s fen page + 8 * b) 8
    let fail := leNat crc ≠ (crc64 bs).toNat || frameBad s fen (page + 4096 * b) 4096
    let s := writeState s core st (dest + d) bs
    let s := if fail then (List.range 64).foldl (fun s i =>
        poisonLines s (.state core (viewOff (coreOf s core) st (dest + d + 64 * i))) 64) s else s
    .ok (bad + bnat fail, s)) (.ok (0, s))

/-- State bytes in the view of a step for a store to a frame; a line with an uncorrectable error gives free bytes (log 6). -/
def stateBytes (s : State) (core : Nat) (st : Option StepCtx) (o n : Nat) : List Byte :=
  (List.range (n / 64)).flatMap fun i =>
    if poisoned s (.state core (viewOff (coreOf s core) st (o + 64 * i))) 64 then (vecBytes (Config.freeVec (s.free + i))).take 64
    else readState s core st (o + 64 * i) 64

/-- The lines of state bytes that hold a poison syndrome in the view of a step, counted from the first. -/
def stateBad (s : State) (core : Nat) (st : Option StepCtx) (o n : Nat) : List Nat :=
  (List.range (n / 64)).filter fun i => poisoned s (.state core (viewOff (coreOf s core) st (o + 64 * i))) 64

/-- Lines of a run of the frame area take a poison syndrome: its first line is number `i0`, and `bad` lists the numbers (R401). -/
def frameSpoil (s : State) (fen va n i0 : Nat) (bad : List Nat) : State :=
  (bad.filter fun i => i0 ≤ i && i < i0 + n / 64).foldl (fun s i =>
    match frameVa s fen (va + 64 * (i - i0)) true with
    | .ok pa => poisonLines s (.phys pa) 64
    | .error _ => s) s

/-- Copy on write of page `p` of a frame (R210): the list, the pages copied so far, and the state. -/
def ownPage (s : State) (fen : Nat) (ps : List Nat) (p : Nat) : Except FErr (Nat × List Nat × State) := do
  let page := nth 0 ps p
  let r ← refOf s fen page
  if r ≤ 1 then .ok (0, ps, s)
  else
    let (new, s) ← allocPage s fen
    let bs ← frameRead s fen page 0x1_0000
    let cs ← frameRead s fen (sidecar s fen page) 128
    let bad := if frameBad s fen page 0x1_0000 then (List.range 1024).filter fun i => frameBad s fen (page + 64 * i) 64 else []
    let s ← frameWrite s fen new bs
    let s := frameSpoil s fen new 0x1_0000 0 bad
    let s ← frameWrite s fen (sidecar s fen new) cs
    let s ← downRef s fen page
    .ok (1, ps.set p new, s)

/-- Store bytes at frame byte `off`, with their CRCs: the pages copied on write, and the state. -/
def storeFrame (s : State) (fen : Nat) (e : FEntry) (off : Nat) (bs : List Byte) (bad : List Nat := []) : Except FErr (Nat × State) := do
  let ps ← pageList s fen e
  let (n, ps, s) ← (((blocksOf off bs.length).map (·.1)).eraseDups).foldl (fun o p => do
    let (n, ps, s) ← o
    let (k, ps, s) ← ownPage s fen ps p
    .ok (n + k, ps, s)) (.ok (0, ps, s))
  let old ← pageList s fen e
  let s ← ((ps.zip old).zipIdx).foldl (fun o ((p, q), i) =>
    if p = q then o else o.bind fun s => pageWrite s fen (e.plist + 8 * i) (leBytes 8 p)) (.ok s)
  let s ← (blocksOf off bs.length).foldl (fun o (p, b, d) => do
    let s ← o
    let page := nth 0 ps p
    let part := (bs.drop d).take 4096
    let s ← frameWrite s fen (page + 4096 * b) part
    putCrc (frameSpoil s fen (page + 4096 * b) 4096 (d / 64) bad) fen page b part) (.ok s)
  .ok (n, s)

/-- The region at a state offset that a step holds and that a frame fits (R274). -/
def heldRegion (s : State) (core : Nat) (st : Option StepCtx) (o : Word) (e : FEntry) : Except FErr Region :=
  match (coreOf s core).regions.find? fun r => r.off == o.toNat && holds st r with
  | some r => if e.npages * 0x1_0000 ≤ 64 * r.lines then .ok r else .error .frm
  | none => .error .frm

/-! ### The commands -/

/-- A new entry that shares every page of another (R275): its index and generation. -/
def shareEntry (s : State) (fen : Nat) (src : FEntry) (kind : Nat) : Except FErr (Nat × FEntry × State) := do
  let (i, old) ← allocFEntry s fen
  let ps ← pageList s fen src
  let (list, s) ← allocPage s fen
  let s ← upRefs s fen ps
  let e : FEntry := { st := kind, hold := if kind = 2 then 1 else 0, gen := old.gen, npages := src.npages, plist := list, trec := 0, key := 0, iseq := 0 }
  let s ← putPages s fen e ps
  let s ← putEntry s fen i e
  .ok (i, e, s)

/-- Snapshots in the prefix cache, newest insertion first (R276). -/
def cached (s : State) (fen : Nat) : Except FErr (List (Nat × FEntry)) := do
  let es ← allEntries s fen
  .ok (sortBy (fun a b => b.2.iseq ≤ a.2.iseq) (es.filter fun (_, e) => e.st == 2 && bitAt e.hold 1))

/-- Evict snapshots from the prefix cache. -/
def evict (s : State) (fen : Nat) (l : List (Nat × FEntry)) : Except FErr State :=
  l.foldl (fun o (i, e) => o.bind fun s => dropHold s fen i 1 e) (.ok s)

/-- What an insertion under a key evicts (R211, R276). -/
def evictions (key : Nat) (l : List (Nat × FEntry)) : List (Nat × FEntry) :=
  let same := l.filter fun (_, e) => e.key == key
  if same ≠ [] then same.drop 3
  else
    let keys := (l.map (·.2.key)).eraseDups
    if 4096 ≤ keys.length then l.filter fun (_, e) => some e.key == keys.getLast? else []

/-- Insert snapshot `i` under a key with its stored token record (R276). -/
def insertSnap (s : State) (fen i : Nat) (e : FEntry) (key : Nat) (rec : List Byte) : Except FErr State := do
  let l ← cached s fen
  let s ← evict s fen (evictions key l)
  let (p, s) ← allocPage s fen
  let s ← pageWrite s fen p rec
  let n := (sessOf s fen).iseq + 1
  let s ← putEntry s fen i { e with hold := e.hold ||| 2, key, trec := p, iseq := n }
  .ok (modFen s fen fun f => { f with sess := { f.sess with iseq := n } })

/-- Scratch bytes that an FRM command reads, in its step's view; the private window of the issuing sub-core is among them (DESIGN CHOICE,
log 125). -/
def frmScratch (s : State) (o : FrmOp) (a : Word) (n : Nat) : Except FErr (List Byte) :=
  match scratchError s o.g a.toNat n with
  | some r => .error (.scratch a.toNat r)
  | none =>
    if poisoned s (.scratch a.toNat) n then .error .frm
    else .ok (readView s o.cid (.scratch a.toNat) n)

/-- A token record: its count and tokens, from a scratch address (R211). -/
def tokenRecord (s : State) (o : FrmOp) (a : Word) : Except FErr (List Byte) := do
  let n ← frmScratch s o a 4
  let n := leNat n
  if n = 0 || 4096 < n then .error .frm else frmScratch s o a (4 + 4 * n)

/-- FRM.SNAP (R211, R275). -/
def frmSnap (s : State) (o : FrmOp) : Except FErr (Word × State) := do
  let (_, e) ← frameCheck s o.fen o.a [1]
  let (i, n, s1) ← shareEntry s o.fen e 2
  let w := frameHandle o.fen 2 n.gen i
  if o.b = 0#64 then .ok (w, s1)
  else if o.b.toNat % 64 ≠ 0 then .error .frm
  else
    let key ← frmScratch s o o.b 16
    let rec ← tokenRecord s o (o.b + 16#64)
    let s2 ← insertSnap s1 o.fen i n (leNat key) rec
    .ok (w, s2)

/-- FRM.RBK (R213). -/
def frmRbk (s : State) (o : FrmOp) : Except FErr (Word × State) := do
  let (_, e) ← frameCheck s o.fen o.a [1]
  let (_, f) ← frameCheck s o.fen o.b [2]
  if e.npages ≠ f.npages then .error .frm
  else
    let old ← pageList s o.fen e
    let new ← pageList s o.fen f
    let s ← upRefs s o.fen new
    let s ← putPages s o.fen e new
    let s ← downRefs s o.fen old
    .ok (0#64, s)

/-- FRM.FIND and FRM.FINDV (R214). -/
def frmFind (s : State) (o : FrmOp) (verify : Bool) : Except FErr (Word × State) := do
  let key ← frmScratch s o o.a 16
  let rec ← if verify then tokenRecord s o o.b else .ok []
  let l ← cached s o.fen
  let hits := l.filter fun (_, e) => e.key == leNat key
  let hit ← hits.foldl (fun r (i, e) => do
    match ← r with
    | some x => .ok (some x)
    | none =>
      if !verify then .ok (some (i, e))
      else
        let got ← frameRead s o.fen e.trec rec.length
        .ok (if got = rec then some (i, e) else none)) (.ok none)
  .ok (match hit with
    | some (i, e) => (frameHandle o.fen 2 e.gen i, s)
    | none => (0#64, s))

/-- An FRM command: sd, status bits on success, and the state. FRM.ST reads the region as its step sees it (R210, Table 13.3; DEDUCED, log
123). -/
def frmEffect (s : State) (o : FrmOp) : Except FErr (Word × BitVec 32 × State) := do
  let k := coreNo o.g
  let st := (ctxOfCid s o.cid).step
  match o.fn with
  | 0 =>
    let (_, e) ← frameCheck s o.fen o.a [1]
    let r ← heldRegion s k st o.b e
    let (n, s) ← loadFrame s o.fen k st e 0 (e.npages * 0x1_0000) r.off
    .ok (BitVec.ofNat 64 n, if n = 0 then 0#32 else stCrcerr, s)
  | 1 =>
    let (_, e) ← frameCheck s o.fen o.a [1]
    let r ← heldRegion s k st o.b e
    let (n, s) ← storeFrame s o.fen e 0 (stateBytes s k st r.off (e.npages * 0x1_0000)) (stateBad s k st r.off (e.npages * 0x1_0000))
    .ok (BitVec.ofNat 64 n, 0#32, { s with free := s.free + e.npages * 1024 })
  | 2 => let (w, s) ← frmSnap s o; .ok (w, 0#32, s)
  | 3 =>
    let (_, e) ← frameCheck s o.fen o.a [1, 2]
    let (i, n, s) ← shareEntry s o.fen e 1
    .ok (frameHandle o.fen 1 n.gen i, 0#32, s)
  | 4 => let (w, s) ← frmRbk s o; .ok (w, 0#32, s)
  | 5 => let (w, s) ← frmFind s o false; .ok (w, 0#32, s)
  | _ => let (w, s) ← frmFind s o true; .ok (w, 0#32, s)

/-- An unreachable page writes a violation record with ENGINE 5 (R268, R323). -/
def frameViolation (s : State) (fen g va : Nat) (write : Bool) (coreless : Bool := false) : State :=
  logViolation s fen 2 va 3 5 (bnat write) g coreless

/-- A frame command takes effect at once and its result is on its way (R208, R215, R268). -/
def frmPerform (s : State) (o : FrmOp) : State :=
  let (w, st, s1) := match frmEffect s o with
    | .ok r => r
    | .error .frm => (0#64, stFrmerr, s)
    | .error .noSpace => (0#64, stNospace, s)
    | .error (.page va wr) => (0#64, stFrmerr ||| stErr, frameViolation s o.fen o.g va wr)
    | .error (.scratch a r) => (0#64, stFrmerr ||| stErr, logViolation s o.fen 0 a r 5 0 o.g)
  let (d, s1) := draw s1
  { s1 with frms := s1.frms.filter (·.id != o.id),
            posted := s1.posted ++ [{ id := o.id, cid := o.cid, dest := o.dest, val := w, poison := none, token := some o.token,
                                      status := st, due := s1.clock + d, grp := o.grp }] }

/-- A frame command that is the oldest of its sub-core, whose bytes are past the regulators, and whose clock has come. -/
def frmReady (s : State) (o : FrmOp) : Bool :=
  ((s.frms.find? fun x => x.g == o.g).map (·.id) == some o.id) && o.lines = [] && o.due ≤ s.clock

/-- What the frame engine port needs of its core's banks: for a load or a store-back of a frame, every bank of the state store (R238). -/
def FrmOp.need (o : FrmOp) : Need := (coreNo o.g, 16 * o.id + 1, if o.fn ≤ 1 then (List.range 16).map fun b => (100 + b, 0) else [])

/-- One clock of a frame command: those of a sub-core take effect in issue order, across a shadow swap too, each once its bytes are past the
regulators and the banks are won (R215, R238, R380). -/
def frmTickOf (s : State) (id : Nat) : State :=
  match s.frms.find? (·.id == id) with
  | none => s
  | some o =>
    let ready := frmReady s o
    let (ls, s) := payLines o.fen 2 (coreNo o.g) (8 * o.id + 2) 4 o.lines s
    let o := { o with lines := ls }
    let s := { s with frms := s.frms.map fun x => if x.id = o.id then o else x }
    let (won, s) := if ready then askBanks s [o.need] else (false, s)
    if won then frmPerform s o else s

/-- Physical lines of a run of the frame area, as far as its pages can be reached. -/
def areaLines (s : State) (fen va n : Nat) : List Nat :=
  (pieces 4096 va n).flatMap fun (a, k) => match frameVa s fen a false with | .ok pa => (linesOf pa k).map (64 * ·) | .error _ => []

/-- Lines of frame table entry `i`. -/
def entryLines (s : State) (fen i : Nat) : List Nat := areaLines s fen ((sessOf s fen).ftbase.toNat + 64 * i) 64

/-- Lines of the sidecar of the page at `p`. -/
def sidecarLines (s : State) (fen p : Nat) : List Nat := areaLines s fen (sidecar s fen p) 192

/-- Lines of a frame's page list. -/
def listLines (s : State) (fen : Nat) (e : FEntry) : List Nat := areaLines s fen e.plist (8 * e.npages)

/-- The `n` free pages of least index. -/
def freePages (s : State) (fen n : Nat) : List Nat :=
  (((List.range (poolPages s fen)).map fun i => poolBase s fen + 0x1_0000 * i).filter fun p =>
    match refOf s fen p with | .ok 0 => true | _ => false).take n

/-- Lines that an allocation of `n` pages writes. -/
def newPageLines (s : State) (fen : Nat) (n : Nat := 1) : List Nat :=
  (freePages s fen n).flatMap fun p => areaLines s fen p 0x1_0000 ++ sidecarLines s fen p

/-- Lines that a load, or a store with its copies on write, of frame bytes moves (R209, R210). -/
def moveLines (s : State) (fen : Nat) (e : FEntry) (off n : Nat) (store : Bool) : List Nat :=
  match pageList s fen e with
  | .error _ => []
  | .ok ps =>
    let pages := ((blocksOf off n).map (·.1)).eraseDups
    let shared := fun (p : Nat) => store && (match refOf s fen (nth 0 ps p) with | .ok r => 1 < r | .error _ => false)
    listLines s fen e ++
    (blocksOf off n).flatMap (fun (p, b, _) => areaLines s fen (nth 0 ps p + 4096 * b) 4096) ++
    pages.flatMap fun p => sidecarLines s fen (nth 0 ps p) ++ (if shared p then areaLines s fen (nth 0 ps p) 0x1_0000 ++ newPageLines s fen else [])

/-- Lines whose reference counts change when a frame's pages are shared or dropped. -/
def refLines (s : State) (fen : Nat) (e : FEntry) : List Nat :=
  match pageList s fen e with
  | .ok ps => ps.flatMap fun p => areaLines s fen (sidecar s fen p + 128) 8
  | .error _ => []

/-- Lines of the entries that the search for a free one reads. -/
def scanLines (s : State) (fen : Nat) : List Nat :=
  match allocFEntry s fen with
  | .ok (i, _) => (List.range (i + 1)).flatMap (entryLines s fen)
  | .error _ => (List.range (ftCount s fen)).flatMap (entryLines s fen)

/-- The physical lines of the frame area that an FRM command is to move, in its order (R380; the list is the model's, log 56). -/
def frmLines (s : State) (fen fn : Nat) (a b : Word) : List Nat :=
  let one := fun (kinds : List Nat) (w : Word) (f : FEntry → List Nat) =>
    match frameCheck s fen w kinds with
    | .ok (i, e) => entryLines s fen i ++ f e
    | .error _ => []
  match fn with
  | 0 | 1 => one [1] a fun e => moveLines s fen e 0 (e.npages * 0x1_0000) (fn == 1)
  | 2 | 3 => one (if fn = 2 then [1] else [1, 2]) a fun e =>
      scanLines s fen ++ listLines s fen e ++ newPageLines s fen ++ refLines s fen e ++ (if fn = 2 && b ≠ 0#64 then newPageLines s fen else [])
  | 4 => one [1] a fun e => one [2] b fun f => listLines s fen e ++ listLines s fen f ++ refLines s fen e ++ refLines s fen f
  | 5 => (List.range (ftCount s fen)).flatMap (entryLines s fen)
  | _ => (List.range (ftCount s fen)).flatMap fun i => entryLines s fen i ++
      (match entryAt s fen i with | .ok e => if e.trec = 0 then [] else areaLines s fen e.trec 64 | .error _ => [])

/-- Issue an FRM word to the frame engine port (R208). -/
def frm (s : State) (fn : Nat) (d a : BitVec 6) (b : Option (BitVec 6)) : State :=
  let c := curCtx s
  let va := rdS c a.toNat
  let vb := match b with | some b => rdS c b.toNat | none => ⟨0#64, none⟩
  consume s [va, vb] fun s =>
    let (id, s) := freshId s
    let (n, s) := draw s
    let fen := curFen s
    let o : FrmOp := { id, g := s.cur.g, cid := c.cid, fen, fn, a := va.w, b := vb.w, dest := .s d.toNat,
                       token := s.cur.pfx.token, due := s.clock + n, lines := frmLines s fen fn va.w vb.w, grp := (curEng s).grp }
    setPending { s with frms := s.frms ++ [o] } (.s d.toNat) s.cur.pfx.token

/-- FRM_LD: loads a frame into the shadow half of a held region. (R209) -/
def execFrmLd (d a b : BitVec 6) (s : State) : Host.Outcome State Fault Refusal := .next (frm s 0 d a (some b))
/-- FRM_ST: writes a held region to a frame, with copy on write. (R210) -/
def execFrmSt (d a b : BitVec 6) (s : State) : Host.Outcome State Fault Refusal := .next (frm s 1 d a (some b))
/-- FRM_SNAP: a snapshot, with or without an entry in the prefix cache. (R211) -/
def execFrmSnap (d a b : BitVec 6) (s : State) : Host.Outcome State Fault Refusal := .next (frm s 2 d a (some b))
/-- FRM_FORK: a writable frame that shares every page. (R212) -/
def execFrmFork (d a : BitVec 6) (s : State) : Host.Outcome State Fault Refusal := .next (frm s 3 d a none)
/-- FRM_RBK: a frame takes a snapshot's contents. (R213) -/
def execFrmRbk (d a b : BitVec 6) (s : State) : Host.Outcome State Fault Refusal := .next (frm s 4 d a (some b))
/-- FRM_FIND: the newest snapshot under a key. (R214) -/
def execFrmFind (d a : BitVec 6) (s : State) : Host.Outcome State Fault Refusal := .next (frm s 5 d a none)
/-- FRM_FINDV: the newest snapshot under a key whose token record is equal. (R214) -/
def execFrmFindv (d a b : BitVec 6) (s : State) : Host.Outcome State Fault Refusal := .next (frm s 6 d a (some b))

end Sys2Proof.Machine
end

