-- ==== Sys2Proof/Machine/Matrix.lean ====
section
/-! DEFINITION. The matrix array and the scan engine: their commands (R178 to R193), and the beginning and completion of commands
(R170 to R177, R233). -/

namespace Sys2Proof.Machine
open Sys2Proof

/-! ### The array port's records -/

/-- MLDW: a weight tile into the shadow plane. (R169, R182) -/
def execMldw (r : Record) (s : State) : Host.Outcome State Fault Refusal := .next (forward s r 0x40 0 0)
/-- MSTRM: activation rows past the active plane into the accumulators. (R169, R184) -/
def execMstrm (r : Record) (s : State) : Host.Outcome State Fault Refusal := .next (forward s r 0x41 0 1)
/-- MSWAP: exchanges the planes. (R169, R183) -/
def execMswap (r : Record) (s : State) : Host.Outcome State Fault Refusal := .next (forward s r 0x42 0 2)
/-- MDRAIN: converts and delivers an accumulator tile. (R169, R185) -/
def execMdrain (r : Record) (s : State) : Host.Outcome State Fault Refusal := .next (forward s r 0x43 0 1)
/-- MZERO: zeroes an accumulator tile. (R169, R187) -/
def execMzero (r : Record) (s : State) : Host.Outcome State Fault Refusal := .next (forward s r 0x44 0 1)
/-- MCVT: converts an accumulator tile to memory. (R169, R186) -/
def execMcvt (r : Record) (s : State) : Host.Outcome State Fault Refusal := .next (forward s r 0x45 0 1)
/-- SCAND: the diagonal scan. (R169, R190) -/
def execScand (r : Record) (s : State) : Host.Outcome State Fault Refusal := .next (forward s r 0x48 1 3)
/-- SCANM: the matrix-state scan. (R169, R191) -/
def execScanm (r : Record) (s : State) : Host.Outcome State Fault Refusal := .next (forward s r 0x49 1 3)
/-- SEMIT: reads out a resident state. (R169, R192) -/
def execSemit (r : Record) (s : State) : Host.Outcome State Fault Refusal := .next (forward s r 0x4A 1 3)
/-- SCMPCT: normalises or compacts pairs. (R169, R193) -/
def execScmpct (r : Record) (s : State) : Host.Outcome State Fault Refusal := .next (forward s r 0x4B 1 3)

/-- The type pairs of Table 7.4. -/
def pairOk (a w : Nat) : Bool := ((a == 1 || a == 2) && (w == 1 || w == 2)) || ((a == 3 || a == 4) && (w == 3 || w == 4)) || (a == 7 && w == 7)

/-! ### Beginning (R175, R176) -/

/-- The causes that the checks of R175 find when a command begins. -/
def cmdFaults (s : State) (k : Nat) (c : Cmd) : List Cause × State :=
  let (a, b, _) := c.shape
  let one := fun (s : State) (u : Option (List Accept × Nat)) (w : BitVec 32) (kind : Nat) =>
    match u with
    | some (ok, n) => operandFaults s c.g w ok n 64 false kind 4
    | none => (([] : List Cause), s)
  let (fa, s) := one s a c.opA 0
  let (fb, s) := one s b c.opB 1
  (fa ++ fb ++ (if c.major = 0x41 && !pairOk c.r.typ.toNat (coreOf s k).actDesc.typ.toNat then [.cmdopnd] else []), s)

/-- COMMAND_BEGINS: the next command of a path resolves its operands and is checked; one that fails ends its launch. Of two operands
that do not resolve the cause of higher priority stands (log 105). A command of zero extent resolves its operands, and the other checks
of R175 are not made (DESIGN CHOICE, log 104). (R53, R170, R175, R176) -/
def execCommandBegins (core path : Nat) (s : State) : Host.Outcome State Fault Refusal :=
  if 96 ≤ core || 4 ≤ path then .fault .noSuchObject
  else
    match nextCmd (cmdsOf (coreOf s core) path) path with
    | none => .next s
    | some c =>
      let x := ctxOfCid s c.cid
      let gone := fun (s : State) (e : Cause) (v : Word) => faultStep (putCmd s core path c none) c.cid 4 e (recordTpc s c.cid) v
      let a := resolveOperand x 4 c.r.opA
      let b := resolveOperand x 4 c.r.opB
      let (_, _, dur) := c.shape
      let (d, s) := draw s
      .next (match worst [errVal a, errVal b] with
        | some (p, v) => gone s p v
        | none =>
          let c' := { c with begun := true, opA := a.toOption.getD 0#32, opB := b.toOption.getD 0#32, floor := x.fadefl,
                             due := s.clock + dur + d }
          if c.zero then putCmd s core path c (some c')
          else
            let (fs, s) := cmdFaults s core c'
            match worstCause fs with
            | some e => gone s e 0#64
            | none => putCmd s core path c (some c'))

/-! ### Sources -/

/-- The source comes from mf. -/
def Cmd.fromMf (c : Cmd) : Bool := c.major != 0x43 && c.major != 0x44 && c.major != 0x45 && c.major != 0x42 && acceptOf c.opA == some .mf

/-- Pop mf entries for a running command as they arrive (R179). A command of an ended step takes free entries for those that were
discarded with its mf, so it completes (R177, R344; DESIGN CHOICE, log 101). -/
def gather (s : State) (k path : Nat) (c : Cmd) : Cmd × State :=
  if !c.fromMf || c.zero || c.formed then (c, s)
  else
    let need := c.entries - c.got.length
    let x := ctxOfCid s c.cid
    let here := x.mf.take need
    let n := if stepGone s c.cid then need - here.length else 0
    let have_ := here ++ (List.range n).map fun i => { val := Config.freeVec (s.free + i), poison := none }
    let s := if n = 0 then s else { s with free := s.free + n }
    let c' := { c with got := c.got ++ have_, stuck := have_.length < need }
    if c' = c then (c, s)
    else (c', modCid (putCmd s k path c (some c')) c.cid fun x => { x with mf := x.mf.drop have_.length })

/-- A popped entry is poisoned: each of its bytes counts as bad (R174). -/
def Cmd.badEntry (c : Cmd) : Bool := c.got.any fun e => e.poison.isSome

/-- The source bytes of a command, and whether they are bad (R173, R174). -/
def cmdSource (s : State) (k : Nat) (c : Cmd) (n : Nat) : List Byte × Bool :=
  if c.fromMf then ((entryBytes c.got).take n, c.badEntry) else readOperand s k c.cid c.opA 0 n

/-- The first `n` bytes of each of `rows` rows, `stride` bytes apart, of a place, and whether one of them is bad. -/
def rowsOf (read : Nat → Nat → List Byte × Bool) (rows stride n : Nat) : List (List Byte) × Bool :=
  let rs := (List.range rows).map fun i => read (i * stride) n
  (rs.map (·.1), rs.any (·.2))

/-- The first `n` bytes of each of `rows` rows of a command's source tile, and whether they are bad (R179). -/
def cmdRows (s : State) (k : Nat) (c : Cmd) (rows stride n : Nat) : List (List Byte) × Bool :=
  if c.fromMf then ((chunk stride rows (entryBytes c.got)).map (·.take n), c.badEntry)
  else rowsOf (readOperand s k c.cid c.opA) rows stride n

/-- The first `n` bytes of each row of the scales that follow a source tile of `data` bytes: in memory at once, in mf in one more
entry (R179, log 47). -/
def cmdScales (s : State) (k : Nat) (c : Cmd) (data rows stride n : Nat) : List (List Byte) × Bool :=
  if c.fromMf then ((chunk stride rows ((entryBytes c.got).drop ((data + 2047) / 2048 * 2048))).map (·.take n), c.badEntry)
  else rowsOf (fun o m => readOperand s k c.cid c.opA (data + o) m) rows stride n

/-! ### Matrix commands -/

/-- Columns of a list of rows. -/
def transpose (n : Nat) (rows : List (List FV)) : List (List FV) := (List.range n).map fun j => rows.map fun r => nth .nan r j

/-- One accumulator update of a float dot product, group by group (R78, R79). `sc` gives each group's scale. -/
def dotFloat (acc : Nat) (a w : List FV) (sc : List FV) : Nat :=
  let n := (a.length + 31) / 32
  ((chunk 32 n a).zip ((chunk 32 n w).zip sc)).foldl (fun acc (x, y, f) =>
    f32Add acc (rne32 (sumExact 0 false ((x.zip y).map fun (p, q) => (p.mul q).mul f)))) acc

/-- One accumulator update of an integer dot product, modulo 2^32 (R80). -/
def dotInt (acc : Nat) (a w : List Int) : Nat := wrapInt 32 ((acc : Int) + ((a.zip w).map fun (p, q) => p * q).foldl (· + ·) 0)

/-- Bytes of the active plane, and whether a line holds a poison syndrome. -/
def activeBytes (s : State) (k off n : Nat) : List Byte × Bool :=
  let l := Loc.plane k (coreOf s k).planeSel off
  (readHome s l n, poisoned s l n)

/-- MLDW (R182): weights (k, n) with k < K and n < N, and with SC the scales of every group for n < N. -/
def computeMldw (s : State) (k : Nat) (c : Cmd) (fail : Bool) : List CmdWrite × Bool :=
  let w := c.w
  if c.v2 then ([], fail)
  else
    let data := c.hi * 128 * w
    let (rows, bad1) := cmdRows s k c c.hi (128 * w) (c.lo * w)
    let (scs, bad2) := cmdScales s k c data (if c.v3 then (c.hi + 31) / 32 else 0) 128 c.lo
    let bad := bad1 || bad2
    let badEntryAt := fun (i : Nat) => match (c.got.drop i).head? with | some e => e.poison.isSome | none => false
    let badRow := fun (i : Nat) => fail || (if c.fromMf then badEntryAt (i * w / 16) else bad)
    let ws := (rows.zipIdx).map fun (row, i) => ⟨c.opB, i * 128 * w, row, badRow i⟩
    let badTail := fail || (if c.fromMf then badEntryAt ((data + 2047) / 2048) else bad)
    (ws ++ (scs.zipIdx).map fun (row, g) => ⟨c.opB, 16384 * w + g * 128, row, badTail⟩, fail || bad)

/-- MSTRM (R184): elements of A and P with k < Kt, columns n < P.N. -/
def computeMstrm (s : State) (k : Nat) (c : Cmd) (fail : Bool) : List CmdWrite × Bool :=
  let p := (coreOf s k).actDesc
  let t := c.r.typ.toNat
  let wt := p.typ.toNat
  let w := c.w
  let ww := typeBytes wt
  let kt := min c.lo p.k
  let groups := (kt + 31) / 32
  let (rows, bad1) := cmdRows s k c c.hi (128 * w) (kt * w)
  let (ascs, bad2) := cmdScales s k c (c.hi * 128 * w) (if c.v3 then c.hi else 0) 4 groups
  let (prows, pbad) := rowsOf (activeBytes s k) kt (128 * ww) (p.n * ww)
  let (pscs, sbad) := rowsOf (fun o n => activeBytes s k (16384 * ww + o) n) (if p.sc then groups else 0) 128 p.n
  let accs := (List.range c.hi).map fun m => readOperand s k c.cid c.opB (m * 512) (4 * p.n)
  let abad := !c.v2 && accs.any (·.2)
  let wrows := prows.map fun r => elems ww p.n r
  let one : FV := .fin false 1 0
  let wsc := fun (n : Nat) => (List.range groups).map fun g => if p.sc then scaleVal (nth 0#8 (nth [] pscs g) n).toNat else one
  let asc := fun (m : Nat) => (List.range groups).map fun g => if c.v3 then scaleVal (nth 0#8 (nth [] ascs m) g).toNat else one
  let out := (rows.zip accs).zipIdx.map fun ((row, acc), m) =>
    let a := elems w kt row
    let old := if c.v2 then List.replicate p.n 0 else elems 4 p.n acc.1
    if t = 7 then
      let ai := a.map (intVal 7)
      (old.zip (List.range p.n)).map fun (o, n) => dotInt o ai (wrows.map fun r => intVal 7 (nth 0 r n))
    else
      let af := a.map (decodeF (fmtOf t))
      let cols := transpose p.n (wrows.map fun r => r.map (decodeF (fmtOf wt)))
      (old.zip (cols.zip (List.range p.n))).map fun (o, col, n) => dotFloat o af col ((asc m).zipWith FV.mul (wsc n))
  let bad := fail || bad1 || bad2 || pbad || sbad || abad
  if p.n = 0 then ([], false) else (rowWrites c.opB 512 (out.map (elemBytes 4)) bad, bad)

/-- The drained rows of an accumulator tile, M rows of N elements (R185, R186). -/
def drainRows (s : State) (k : Nat) (c : Cmd) : List (List Nat) × Bool :=
  let t := c.r.typ.toNat
  let src := if c.major = 0x45 && c.v2 then 9 else if isFloat t then 0 else 9
  let rs := (List.range c.hi).map fun m => readOperand s k c.cid c.opA (m * 512) (4 * c.lo)
  (rs.map fun (bs, _) => (elems 4 c.lo bs).map (convert src t 0 true), rs.any (·.2))

/-- MDRAIN: the memory part, and the entries to send (R185). -/
def computeMdrain (s : State) (k : Nat) (c : Cmd) (fail : Bool) : List CmdWrite × List BigEntry × Bool :=
  let (rows, bad) := drainRows s k c
  let bad := fail || bad
  let w := c.w
  let ws := if c.r.variant.getLsbD 0 then [] else rowWrites c.opB (128 * w) (rows.map (elemBytes w)) bad
  let full := rows.flatMap fun r => elemBytes w r ++ List.replicate ((128 - c.lo) * w) 0#8
  (ws, if c.r.variant.toNat / 2 = 0 then [] else toEntries full bad, bad)

/-- MCVT (R186). -/
def computeMcvt (s : State) (k : Nat) (c : Cmd) (fail : Bool) : List CmdWrite × Bool :=
  let w := c.w
  if c.v3 then
    let t := c.r.typ.toNat
    let rs := (List.range c.hi).map fun m => readOperand s k c.cid c.opA (m * 512) (4 * c.lo)
    let bad := fail || rs.any (·.2)
    let qs := rs.map fun (bs, _) => (chunk 32 4 (elems 4 c.lo bs ++ List.replicate (128 - c.lo) 0)).map (quantBlock t 0)
    (rowWrites c.opB 128 (qs.map fun q => elemBytes 1 ((q.flatMap (·.2)).take c.lo)) bad ++
      [⟨c.opB, c.hi * 128, elemBytes 1 (qs.flatMap fun q => q.map (·.1)), bad⟩], bad)
  else
    let (rows, bad) := drainRows s k c
    (rowWrites c.opB (128 * w) (rows.map (elemBytes w)) (fail || bad), fail || bad)

/-! ### Scan commands (R188 to R193) -/

/-- Factors and pair offsets of one token, by lane. -/
abbrev ScanOp := List Nat × List (Nat × Nat)

/-- Pairs of a list of f32 values. -/
def pairsOf : List Nat → List (Nat × Nat)
  | a :: b :: r => (a, b) :: pairsOf r
  | _ => []

/-- The f32 values of a list of pairs. -/
def unpair (ps : List (Nat × Nat)) : List Nat := ps.flatMap fun p => [p.1, p.2]

/-- a ⊙ x + y lane by lane, and the fades (R83, R84). -/
def lanesAxpy (floor : Nat) (a : List Nat) (x y : List (Nat × Nat)) : List (Nat × Nat) × Nat :=
  let r := (a.zip (x.zip y)).map fun (a, x, y) => pairAxpy floor a x y
  (r.map (·.1), (r.filter (·.2)).length)

/-- One round of the tree at distance d (R189). -/
def scanRound (floor d : Nat) (ops : List ScanOp) : List ScanOp × Nat :=
  let r := ((ops.drop d).zip ops).map fun (t, p) =>
    let (b, n) := lanesAxpy floor t.1 p.2 t.2
    (((t.1.zip p.1).map fun (x, y) => f32Mul x y, b), n)
  (ops.take d ++ r.map (·.1), r.foldl (fun a x => a + x.2) 0)

/-- The tree: rounds at 1, 2, 4, 8, 16 and 32 (R189). -/
def scanTree (floor : Nat) (ops : List ScanOp) : List ScanOp × Nat :=
  [1, 2, 4, 8, 16, 32].foldl (fun (o, n) d => if d < ops.length then let (o', m) := scanRound floor d o; (o', n + m) else (o, n)) (ops, 0)

/-- h_t for every token, and the fades (R189). -/
def scanStates (floor : Nat) (ops : List ScanOp) (hin : List (Nat × Nat)) : List (List (Nat × Nat)) × Nat :=
  let (o, n) := scanTree floor ops
  let r := o.map fun op => lanesAxpy floor op.1 hin op.2
  (r.map (·.1), r.foldl (fun a x => a + x.2) n)

/-- rne32(hi + lo). -/
def pairSum (p : Nat × Nat) : Nat := f32Add p.1 p.2

/-- The exact sum over i of q[i] × (S[i][j].hi + S[i][j].lo), rounded once, for each j < dv (R191). -/
def readout (dv : Nat) (q : List Nat) (h : List (Nat × Nat)) : List Nat :=
  let rows := chunk dv q.length (h.map fun p => FV.add 0 (decodeF f32 p.1) (decodeF f32 p.2))
  let qv := q.map (decodeF f32)
  (transpose dv rows).map fun col => rne32 (sumExact 0 false ((qv.zip col).map fun (x, y) => x.mul y))

/-- SCAND (R190): the writes, the fades, and whether a source was bad. -/
def computeScand (s : State) (k : Nat) (c : Cmd) (fail : Bool) : List CmdWrite × Nat × Bool :=
  let t := c.hi
  let g := c.lo
  let (bs, bad) := cmdSource s k c (t * g * 2048)
  let recs := chunk g t ((chunk 2048 (t * g) bs).map fun r => elems 4 512 r)
  let ops : List ScanOp := recs.map fun rs => (rs.flatMap fun r => r.take 256, (rs.flatMap fun r => r.drop 256).map fun b => (b, 0))
  let (hb, hbad) := readOperand s k c.cid c.opB 0 (g * 2048)
  let (hs, n) := scanStates c.floor.toNat ops (pairsOf (elems 4 (g * 512) hb))
  let bad := fail || bad || hbad
  let emit := if c.v3 then (hs.zipIdx).flatMap fun (h, i) => ((chunk 256 g h).zipIdx).map fun (p, j) =>
    ⟨c.opA, (i * g + j) * 2048 + 1024, elemBytes 4 (p.map pairSum), bad⟩ else []
  (⟨c.opB, 0, elemBytes 4 (unpair (hs.getLastD [])), bad⟩ :: emit, n, bad)

/-- SCANM (R191). -/
def computeScanm (s : State) (k : Nat) (c : Cmd) (fail : Bool) : List CmdWrite × Nat × Bool :=
  let t := c.hi
  let dv := c.dv
  let dk := c.dk
  let (bs, bad) := cmdSource s k c (t * 2048)
  let recs := (chunk 2048 t bs).map fun r =>
    (elems 4 dk r, elems 4 dv (r.drop 512), elems 4 dk (r.drop 1024), leNat ((r.drop 1536).take 4))
  let ops : List ScanOp := recs.map fun (kk, v, _, gm) =>
    (List.replicate (dk * dv) gm, kk.flatMap fun x => v.map fun y => twoprod x y)
  let (hb, hbad) := readOperand s k c.cid c.opB 0 (c.lo * 2048)
  let (hs, n) := scanStates c.floor.toNat ops (pairsOf (elems 4 (c.lo * 512) hb))
  let bad := fail || bad || hbad
  let emit := if c.v3 then ((hs.zip recs).zipIdx).map fun ((h, _, _, q, _), i) =>
    ⟨c.opA, i * 2048 + 512, elemBytes 4 (readout dv q h), bad⟩ else []
  (⟨c.opB, 0, elemBytes 4 (unpair (hs.getLastD [])), bad⟩ :: emit, n, bad)

/-- SEMIT (R192). -/
def computeSemit (s : State) (k : Nat) (c : Cmd) (fail : Bool) : List CmdWrite × Bool :=
  let (hb, hbad) := readOperand s k c.cid c.opA 0 (c.lo * 2048)
  let h := pairsOf (elems 4 (c.lo * 512) hb)
  let size := if c.v3 then 512 else c.lo * 1024
  let rs := (List.range c.hi).map fun i => readOperand s k c.cid c.opB (i * size) size
  let bad := fail || hbad || rs.any (·.2)
  let out := rs.map fun (r, _) =>
    if c.v3 then let ys := readout c.dv (elems 4 c.dk r) h; elemBytes 4 ys ++ List.replicate (512 - 4 * c.dv) 0#8
    else elemBytes 4 (((elems 4 (c.lo * 256) r).zip h).map fun (x, p) =>
      rne32 ((decodeF f32 x).mul (FV.add 0 (decodeF f32 p.1) (decodeF f32 p.2))))
  (rowWrites c.opB size out bad, bad)

/-- SCMPCT (R193). -/
def computeScmpct (s : State) (k : Nat) (c : Cmd) (fail : Bool) : List CmdWrite × Nat × Bool :=
  let n := c.hi * c.lo * 256
  let (bs, bad) := readOperand s k c.cid (if c.v3 then c.opA else c.opB) 0 (8 * n)
  let ps := pairsOf (elems 4 (2 * n) bs)
  let bad := fail || bad
  if c.v3 then ([⟨c.opB, 0, elemBytes 4 (ps.map pairSum), bad⟩], 0, bad)
  else
    let r := ps.map fun p =>
      let (hh, hl) := twosum p.1 p.2
      if f32IsNan hh then ((0x7FC00000, 0), false) else fade c.floor.toNat hh hl
    ([⟨c.opB, 0, elemBytes 4 (unpair (r.map (·.1))), bad⟩], (r.filter (·.2)).length, bad)

/-! ### Completion (R171) -/

/-- The results of a command that has its sources: the writes it is to make, the entries to send, the fades, and whether a source was
bad (R171). -/
def computeCmd (s : State) (k : Nat) (c : Cmd) (fail : Bool) : List CmdWrite × List BigEntry × Nat × Bool :=
  match c.major with
  | 0x40 => let (ws, b) := computeMldw s k c fail; (ws, [], 0, b)
  | 0x41 => let (ws, b) := computeMstrm s k c fail; (ws, [], 0, b)
  | 0x42 => ([], [], 0, fail)
  | 0x43 => let (ws, es, b) := computeMdrain s k c fail; (ws, es, 0, b)
  | 0x44 => ([⟨c.opB, 0, List.replicate 65536 0#8, fail⟩], [], 0, fail)
  | 0x45 => let (ws, b) := computeMcvt s k c fail; (ws, [], 0, b)
  | 0x48 => let (ws, n, b) := computeScand s k c fail; (ws, [], n, b)
  | 0x49 => let (ws, n, b) := computeScanm s k c fail; (ws, [], n, b)
  | 0x4A => let (ws, b) := computeSemit s k c fail; (ws, [], 0, b)
  | _ => let (ws, n, b) := computeScmpct s k c fail; (ws, [], n, b)

/-- What a command does to the planes' descriptors: MLDW sets the shadow descriptor, with a zero extent too (R176, R182), and MSWAP
exchanges the planes (R183). -/
def planeCmd (s : State) (k : Nat) (c : Cmd) : State :=
  if c.major = 0x40 then modCore s k fun x => { x with shdDesc := { typ := c.r.typ, k := c.hi, n := c.lo, sc := c.v3 } }
  else if c.major = 0x42 then modCore s k fun x => { x with planeSel := 1 - x.planeSel, actDesc := x.shdDesc, shdDesc := x.actDesc }
  else s

/-- A residue check of the command may fail, whatever the command is (R172, Table 7.1). An MSTRM past a plane of no columns computes
nothing, and its status is 0 (R184; DEDUCED, log 102). -/
def residueChecked (s : State) (k : Nat) (c : Cmd) : Bool := !(c.major == 0x41 && (coreOf s k).actDesc.n == 0)

/-- Form the results of a running command once its sources are there. A failed check keeps them back for as long as the recomputation
takes: an attempt takes the command's minimum duration (R173; DESIGN CHOICE, log 103). -/
def formResults (s : State) (k path : Nat) (c : Cmd) : Cmd × State :=
  let (n, s) := if residueChecked s k c then residueCheck s else (0, s)
  let (ws, es, faded, bad) := computeCmd s k c (3 ≤ n)
  let c' := { c with formed := true, writes := ws, faded, retrying := n ≠ 0, due := if n = 0 then c.due else s.clock + min n 2 * c.shape.2.2,
                     sends := es, toMf := c.major == 0x43 && c.r.variant.getLsbD 1, toSq := c.major == 0x43 && c.v2,
                     toRx := c.major == 0x43 && c.v3,
                     status := retryStatus n ||| (if bad then stDerr else 0#32) ||| (if faded = 0 then 0#32 else stFade) }
  (c', putCmd s k path c (some c'))

/-- Write the results of a command that has formed them. -/
def writeResults (s : State) (k path : Nat) (c : Cmd) : Cmd × State :=
  let fen := (coreOf s k).fen
  let s := planeCmd (performWrites s k c.cid c.writes) k c
  let s := if c.faded = 0 then s else count s fen cntFaded c.faded
  let s := if path = 3 then countEv s fen k 5 (c.lo * 256 * c.hi) else s
  let c' := { c with computed := true, writes := [], faded := 0, retrying := false }
  (c', putCmd s k path c (some c'))

/-- What a unit needs of its core's banks in a clock in which it reads or writes its operands (R238). -/
def cmdNeed (s : State) (k path : Nat) (c : Cmd) : Need :=
  let run := fun (w : BitVec 32) (u : Option (List Accept × Nat)) =>
    match u with
    | some (_, n) =>
      let l := operandLoc s k w 0
      if acceptOf w == some .mf || coreIn l ≠ k then [] else banksIn l n
    | none => []
  (k, 16 * path + (if path = 3 then 3 else 2), run c.opA c.shape.1 ++ run c.opB c.shape.2.1)

/-- A running command is to read its operands or write its results in this clock. -/
def cmdActs (s : State) (c : Cmd) : Bool :=
  c.begun && !c.zero && !c.computed && c.due ≤ s.clock &&
  (!c.fromMf || c.formed || c.entries ≤ c.got.length + (ctxOfCid s c.cid).mf.length || stepGone s c.cid)

/-- COMMAND_COMPLETES: the running command of a path takes the mf entries it needs, forms its results, writes them once its residue
check passes or has failed three times, sends its entries, and raises ptok when all that is done. (R171 to R173, R179) -/
def execCommandCompletes (core path : Nat) (s : State) : Host.Outcome State Fault Refusal :=
  if 96 ≤ core || 4 ≤ path then .fault .noSuchObject
  else
    match runningCmd (cmdsOf (coreOf s core) path) path with
    | none => .next s
    | some c =>
      if s.clock < c.due then .next (gather s core path c).2
      else if c.zero then .next (completeCmd (planeCmd s core c) core path c)
      else
        let (c, s) := gather s core path c
        let acts := cmdActs s c
        if c.stuck && !c.formed then .next s
        else if acts && bankLost s (cmdNeed s core path c) then .next s
        else
          let s := if acts then takeBanks s (cmdNeed s core path c) else s
          let (c, s) := if c.formed then (c, s) else formResults s core path c
          if s.clock < c.due then .next s
          else
            let (c, s) := if c.computed then (c, s) else writeResults s core path c
            let (rest, s) := sendAll s c.g c.cid c.toMf c.toSq c.toRx c.sends
            .next (if rest = [] then completeCmd s core path c
              else putCmd s core path c (some { c with sends := rest, stuck := true }))

end Sys2Proof.Machine
end

