-- ==== Sys2Proof/Machine/Vector.lean ====
section
/-! DEFINITION. The vector engine (R143 to R168): predicates, destinations and tags, and the meaning of every vector word. -/

namespace Sys2Proof.Machine
open Sys2Proof

/-! ### Elements of a register (R143) -/

/-- The elements of a register at `w` bytes. -/
def velems (w : Nat) (v : VWord) : List Nat := elems w (2048 / w) (vecBytes v)

/-- A register from its elements at `w` bytes; bytes past them are 0. -/
def vofElems (w : Nat) (xs : List Nat) : VWord := vecOfBytes (elemBytes w xs)

/-- The bits of the unclipped elements of a tile view of `w` bytes (R144). -/
def tileMask (w : Nat) (k : Option Word) : VWord :=
  match k with
  | none => fullMask
  | some _ =>
    let e := extent k (16 / w)
    vofElems w ((List.range (2048 / w)).map fun j => if clipped e j then 0 else 2 ^ (8 * w) - 1)

/-- The bits of the rows below the row count, in a tile view of `w` bytes. -/
def rowMask (w : Nat) (k : Option Word) : VWord :=
  match k with
  | none => fullMask
  | some _ =>
    let r := (extent k (16 / w)).1
    vofElems w ((List.range (2048 / w)).map fun j => if j / 128 < r then 2 ^ (8 * w) - 1 else 0)

/-- The bits of bytes `lo` to 2,047. -/
def tailMask (lo : Nat) : VWord := vecOfBytes (List.replicate lo 0#8 ++ List.replicate (2048 - lo) 0xFF#8)

/-- The rows of a tile of 128 columns. -/
def tileRows {α : Type} (n : Nat) (xs : List α) : List (List α) := chunk 128 n xs

/-! ### Operands and results (R144 to R147) -/

/-- The value of a vector register as an operand. -/
def VReg.val64 (r : VReg) : Val := ⟨r.val.setWidth 64, r.poison⟩

/-- The tag of a result over its sources (R20, R147). -/
def vtag (rs : List VReg) : Option Cause := rs.foldl (fun p r => meet p r.poison) none

/-- The prefix names mf, sq or rx. -/
def hasCopies (s : State) : Bool := s.cur.pfx.mf || s.cur.pfx.sq || s.cur.pfx.rx

/-- The k register of the prefix (R145). -/
def predicate (s : State) : Option Val := s.cur.pfx.kp.map (rdK (curCtx s))

/-- Read the sources of a vector word: the k register is consumed, and with a copy every source is (R145, R147). -/
def vsources (s : State) (src : List Nat) (extra : List Val) (k : State → List VReg → Option Word → State) : State :=
  let c := curCtx s
  let rs := src.map (vregOf c)
  let kv := predicate s
  consume s (kv.toList ++ (if hasCopies s then rs.map VReg.val64 ++ extra else [])) fun s => k s rs (kv.map (·.w))

/-- The result of a vector word for vd and the consumers that the prefix names (R146). -/
def vland (s : State) (lat : Nat) (d : BitVec 6) (v mask : VWord) (p : Option Cause) : State :=
  let x := s.cur.pfx
  landIn s { left := lat, dest := if x.nr then .none else .v d.toNat, val := .vec (v &&& mask), poison := p, mask,
             whole := mask == fullMask, mf := x.mf, sq := x.sq, rx := x.rx }

/-- A second destination: always the register file (R146). -/
def vland2 (s : State) (lat n : Nat) (v mask : VWord) (p : Option Cause) : State :=
  landIn s { left := lat, dest := .v n, val := .vec (v &&& mask), poison := p, mask, whole := mask == fullMask }

/-- An elementwise word of one width: sources by register number, elements by a function of the source elements. -/
def vmap (s : State) (lat : Nat) (d : BitVec 6) (w : Nat) (src : List (BitVec 6)) (f : List Nat → Nat) : State :=
  vsources s (src.map (·.toNat)) [] fun s rs k =>
    let cols := rs.map fun r => velems w r.val
    let out := (List.range (2048 / w)).map fun j => f (cols.map fun c => nth 0 c j)
    vland s lat d (vofElems w out) (tileMask w k) (vtag rs)

/-! ### Floating arithmetic (R149, R150) -/

/-- A floating word of two operands. -/
def vfloat2 (s : State) (d a b : BitVec 6) (t : BitVec 4) (f : FV → FV → FV) : State :=
  let fm := fmtOf t.toNat
  let mode := roundMode s
  vmap s 4 d (typeBytes t.toNat) [a, b] fun
    | [x, y] => roundF fm mode (f (decodeF fm x) (decodeF fm y))
    | _ => 0

/-- A fused word: va, vb and the addend vd. -/
def vfloat3 (s : State) (d a b : BitVec 6) (t : BitVec 4) (f : FV → FV → FV → FV) : State :=
  let fm := fmtOf t.toNat
  let mode := roundMode s
  vmap s 4 d (typeBytes t.toNat) [a, b, d] fun
    | [x, y, z] => roundF fm mode (f (decodeF fm x) (decodeF fm y) (decodeF fm z))
    | _ => 0

/-- VADD (R149) -/
def execVadd (d a b : BitVec 6) (t : BitVec 4) (s : State) : Host.Outcome State Fault Refusal :=
  .next (vfloat2 s d a b t (FV.add (roundMode s)))
/-- VSUB (R149) -/
def execVsub (d a b : BitVec 6) (t : BitVec 4) (s : State) : Host.Outcome State Fault Refusal :=
  .next (vfloat2 s d a b t fun x y => FV.add (roundMode s) x y.neg)
/-- VMUL (R149) -/
def execVmul (d a b : BitVec 6) (t : BitVec 4) (s : State) : Host.Outcome State Fault Refusal := .next (vfloat2 s d a b t FV.mul)
/-- VFMA: va × vb + vd. (R149) -/
def execVfma (d a b : BitVec 6) (t : BitVec 4) (s : State) : Host.Outcome State Fault Refusal :=
  .next (vfloat3 s d a b t fun x y z => FV.add (roundMode s) (x.mul y) z)
/-- VFMS: va × vb − vd. (R149) -/
def execVfms (d a b : BitVec 6) (t : BitVec 4) (s : State) : Host.Outcome State Fault Refusal :=
  .next (vfloat3 s d a b t fun x y z => FV.add (roundMode s) (x.mul y) z.neg)
/-- VFNMA: vd − va × vb. (R149) -/
def execVfnma (d a b : BitVec 6) (t : BitVec 4) (s : State) : Host.Outcome State Fault Refusal :=
  .next (vfloat3 s d a b t fun x y z => FV.add (roundMode s) z (x.mul y).neg)
/-- VMIN (R149) -/
def execVmin (d a b : BitVec 6) (t : BitVec 4) (s : State) : Host.Outcome State Fault Refusal :=
  .next (vmap s 2 d (typeBytes t.toNat) [a, b] fun | [x, y] => minPat (fmtOf t.toNat) x y | _ => 0)
/-- VMAX (R149) -/
def execVmax (d a b : BitVec 6) (t : BitVec 4) (s : State) : Host.Outcome State Fault Refusal :=
  .next (vmap s 2 d (typeBytes t.toNat) [a, b] fun | [x, y] => maxPat (fmtOf t.toNat) x y | _ => 0)

/-- A word of one operand. -/
def vunary (s : State) (lat : Nat) (d a : BitVec 6) (t : BitVec 4) (f : Nat → Nat) : State :=
  vmap s lat d (typeBytes t.toNat) [a] fun | [x] => f x | _ => 0

/-- VABS (R150) -/
def execVabs (d a : BitVec 6) (t : BitVec 4) (s : State) : Host.Outcome State Fault Refusal :=
  .next (vunary s 2 d a t fun x => x % 2 ^ (typeBits t.toNat - 1))
/-- VNEG (R150) -/
def execVneg (d a : BitVec 6) (t : BitVec 4) (s : State) : Host.Outcome State Fault Refusal :=
  .next (vunary s 2 d a t fun x => x ^^^ 2 ^ (typeBits t.toNat - 1))

/-- 2^x, log₂ x, 1/x, 1/√x and √x before rounding, with the special results of Table 3.4. -/
def vExp2 (v : FV) : Near := exp2Near v
def vLog2 : FV → Near
  | .nan => (.nan, false)
  | .inf neg => (if neg then .nan else .inf false, false)
  | .fin neg m e => if m = 0 then (.inf true, false) else if neg then (.nan, false) else log2Near 0 m e (.fin false 0 0)
def vRcp : FV → Near
  | .nan => (.nan, false)
  | .inf neg => (.fin neg 0 0, false)
  | .fin neg m e => if m = 0 then (.inf neg, false) else rcpNear neg m e
def vRsq : FV → Near
  | .nan => (.nan, false)
  | .inf neg => (if neg then .nan else .fin false 0 0, false)
  | .fin neg m e => if m = 0 then (.inf neg, false) else if neg then (.nan, false) else rsqrtNear m e
def vSqrt : FV → Near
  | .nan => (.nan, false)
  | .inf neg => (if neg then .nan else .inf false, false)
  | .fin neg m e => if m = 0 then (.fin neg 0 0, false) else if neg then (.nan, false) else sqrtNear m e

/-- A transcendental or root of each element, rounded once (R87). -/
def vroot (s : State) (d a : BitVec 6) (t : BitVec 4) (f : FV → Near) : State :=
  let fm := fmtOf t.toNat
  let mode := roundMode s
  vunary s 8 d a t fun x => let r := f (decodeF fm x); roundS fm mode false r.1 r.2

/-- VEXP2 (R87) -/
def execVexp2 (d a : BitVec 6) (t : BitVec 4) (s : State) : Host.Outcome State Fault Refusal := .next (vroot s d a t vExp2)
/-- VLOG2 (R87) -/
def execVlog2 (d a : BitVec 6) (t : BitVec 4) (s : State) : Host.Outcome State Fault Refusal := .next (vroot s d a t vLog2)
/-- VRCP (R87) -/
def execVrcp (d a : BitVec 6) (t : BitVec 4) (s : State) : Host.Outcome State Fault Refusal := .next (vroot s d a t vRcp)
/-- VRSQ (R87) -/
def execVrsq (d a : BitVec 6) (t : BitVec 4) (s : State) : Host.Outcome State Fault Refusal := .next (vroot s d a t vRsq)
/-- VSQRT (R87) -/
def execVsqrt (d a : BitVec 6) (t : BitVec 4) (s : State) : Host.Outcome State Fault Refusal := .next (vroot s d a t vSqrt)

/-- An element rounded to an integer of its own type; a zero keeps the sign (R150). -/
def integral (f : Fmt) (mode : Nat) (x : Nat) : Nat :=
  match decodeF f x with
  | .nan => f.nan
  | .inf _ => x
  | .fin neg m e =>
    let i := roundInt mode neg m e
    roundF f 0 (if i = 0 then .fin neg 0 0 else FV.ofInt i)

/-- VFLOOR (R150) -/
def execVfloor (d a : BitVec 6) (t : BitVec 4) (s : State) : Host.Outcome State Fault Refusal :=
  .next (vunary s 3 d a t (integral (fmtOf t.toNat) 3))
/-- VCEIL (R150) -/
def execVceil (d a : BitVec 6) (t : BitVec 4) (s : State) : Host.Outcome State Fault Refusal :=
  .next (vunary s 3 d a t (integral (fmtOf t.toNat) 2))
/-- VRINT (R150) -/
def execVrint (d a : BitVec 6) (t : BitVec 4) (s : State) : Host.Outcome State Fault Refusal :=
  .next (vunary s 3 d a t (integral (fmtOf t.toNat) (roundMode s)))

/-! ### Compares and selects (R151, R152) -/

/-- The condition of VCMP: 0 EQ, 1 LT, 2 LE, 3 UN. -/
def vcmpHolds (t c x y : Nat) : Bool :=
  if isFloat t then
    let a := decodeF (fmtOf t) x
    let b := decodeF (fmtOf t) y
    let un := a.isNan || b.isNan
    match c with
    | 0 => !un && a.cmp b == 0
    | 1 => !un && a.cmp b < 0
    | 2 => !un && a.cmp b ≤ 0
    | _ => un
  else
    let a := toSigned (typeBits t) x
    let b := toSigned (typeBits t) y
    match c with
    | 0 => a == b
    | 1 => a < b
    | 2 => a ≤ b
    | _ => false

/-- VCMP (R151) -/
def execVcmp (d a b : BitVec 6) (t : BitVec 4) (c : BitVec 2) (s : State) : Host.Outcome State Fault Refusal :=
  .next (vmap s 2 d (typeBytes t.toNat) [a, b] fun
    | [x, y] => if vcmpHolds t.toNat c.toNat x y then 2 ^ typeBits t.toNat - 1 else 0
    | _ => 0)

/-- Width in bytes of a type's tile view; x4 has a view of 32 rows (R143), which the byte view covers two elements at a time. -/
def viewMask (t : BitVec 4) (k : Option Word) : VWord :=
  if t = 6#4 then
    match k with
    | none => fullMask
    | some _ =>
      let e := extent k 32
      let nib := fun (j : Nat) => if clipped e j then 0 else 15
      vofElems 1 ((List.range 2048).map fun i => nib (2 * i) + 16 * nib (2 * i + 1))
  else tileMask (typeBytes t.toNat) k

/-- Choose each nibble of a byte: `x` where the nibble of `o` is not zero, else `y`. -/
def selNibbles (o x y : Nat) : Nat := (if o % 16 ≠ 0 then x % 16 else y % 16) + 16 * (if o / 16 ≠ 0 then x / 16 else y / 16)

/-- VSEL: elementwise on the width of the type; an element of x4 is a nibble (R19). (R152) -/
def execVsel (d a b : BitVec 6) (t : BitVec 4) (s : State) : Host.Outcome State Fault Refusal :=
  .next (vsources s [d.toNat, a.toNat, b.toNat] [] fun s rs k =>
    match rs with
    | [o, x, y] =>
      let w := typeBytes t.toNat
      let pick := fun (o : Nat) (p : Nat × Nat) => if t = 6#4 then selNibbles o p.1 p.2 else if o ≠ 0 then p.1 else p.2
      vland s 2 d (vofElems w (((velems w o.val).zip ((velems w x.val).zip (velems w y.val))).map fun (o, p) => pick o p)) (viewMask t k) (vtag rs)
    | _ => s)

/-- VSELC: pops bq, and commits one of two registers with its tag. A poisoned k traps at once, bq empty or not (DESIGN CHOICE, log 128).
(R145, R152) -/
def execVselc (d a b : BitVec 6) (t : BitVec 4) (s : State) : Host.Outcome State Fault Refusal :=
  .next (match headQ (curCtx s) 6 s.clock with
    | none => consume s (predicate s).toList freeze
    | some e =>
      let r := vregOf (curCtx s) (if e.val ≠ 0#64 then a else b).toNat
      let k := predicate s
      consume s (k.toList ++ [⟨e.val, e.poison⟩] ++ (if hasCopies s then [r.val64] else [])) fun s =>
        vland (modCur s fun c => popQ c 6) 2 d r.val (viewMask t (k.map (·.w))) r.poison)

/-! ### Integer and bit operations (R153) -/

/-- An integer word of two operands on elements of `8 × w` bits. -/
def vint2 (s : State) (lat : Nat) (d a b : BitVec 6) (t : BitVec 4) (f : Nat → Nat → Nat → Nat) : State :=
  vmap s lat d (typeBytes t.toNat) [a, b] fun | [x, y] => f (typeBits t.toNat) x y | _ => 0

/-- A signed result clamped to `n` bits (VIADD and VISUB with sat). -/
def clampTo (n : Nat) (i : Int) : Nat := wrapInt n (clampInt (-(2 ^ (n - 1)), 2 ^ (n - 1) - 1) i)

/-- VIADD (R153) -/
def execViadd (d a b : BitVec 6) (t : BitVec 4) (w : BitVec 2) (s : State) : Host.Outcome State Fault Refusal :=
  .next (vint2 s 2 d a b t fun n x y => if w = 1#2 then clampTo n (toSigned n x + toSigned n y) else (x + y) % 2 ^ n)
/-- VISUB (R153) -/
def execVisub (d a b : BitVec 6) (t : BitVec 4) (w : BitVec 2) (s : State) : Host.Outcome State Fault Refusal :=
  .next (vint2 s 2 d a b t fun n x y =>
    if w = 1#2 then clampTo n (toSigned n x - toSigned n y) else (x + (2 ^ n - y)) % 2 ^ n)
/-- VIMUL (R153) -/
def execVimul (d a b : BitVec 6) (t : BitVec 4) (s : State) : Host.Outcome State Fault Refusal :=
  .next (vint2 s 4 d a b t fun n x y => x * y % 2 ^ n)
/-- VIMULH: signed. (R153) -/
def execVimulh (d a b : BitVec 6) (t : BitVec 4) (s : State) : Host.Outcome State Fault Refusal :=
  .next (vint2 s 4 d a b t fun n x y => wrapInt n (toSigned n x * toSigned n y / 2 ^ n))
/-- VIMULHU: unsigned. (R153) -/
def execVimulhu (d a b : BitVec 6) (t : BitVec 4) (s : State) : Host.Outcome State Fault Refusal :=
  .next (vint2 s 4 d a b t fun n x y => x * y / 2 ^ n)
/-- VAND (R153) -/
def execVand (d a b : BitVec 6) (t : BitVec 4) (s : State) : Host.Outcome State Fault Refusal :=
  .next (vint2 s 2 d a b t fun _ x y => x &&& y)
/-- VOR (R153) -/
def execVor (d a b : BitVec 6) (t : BitVec 4) (s : State) : Host.Outcome State Fault Refusal :=
  .next (vint2 s 2 d a b t fun _ x y => x ||| y)
/-- VXOR (R153) -/
def execVxor (d a b : BitVec 6) (t : BitVec 4) (s : State) : Host.Outcome State Fault Refusal :=
  .next (vint2 s 2 d a b t fun _ x y => x ^^^ y)
/-- VANDN: a AND NOT b. (R153) -/
def execVandn (d a b : BitVec 6) (t : BitVec 4) (s : State) : Host.Outcome State Fault Refusal :=
  .next (vint2 s 2 d a b t fun n x y => x &&& (2 ^ n - 1 - y))
/-- VSHL (R153) -/
def execVshl (d a b : BitVec 6) (t : BitVec 4) (s : State) : Host.Outcome State Fault Refusal :=
  .next (vint2 s 2 d a b t fun n x y => if n ≤ y then 0 else x * 2 ^ y % 2 ^ n)
/-- VSHR (R153) -/
def execVshr (d a b : BitVec 6) (t : BitVec 4) (s : State) : Host.Outcome State Fault Refusal :=
  .next (vint2 s 2 d a b t fun n x y => if n ≤ y then 0 else x / 2 ^ y)
/-- VSRA (R153) -/
def execVsra (d a b : BitVec 6) (t : BitVec 4) (s : State) : Host.Outcome State Fault Refusal :=
  .next (vint2 s 2 d a b t fun n x y => wrapInt n (toSigned n x / 2 ^ (min y n)))
/-- VIMIN (R153) -/
def execVimin (d a b : BitVec 6) (t : BitVec 4) (s : State) : Host.Outcome State Fault Refusal :=
  .next (vint2 s 2 d a b t fun n x y => if toSigned n y < toSigned n x then y else x)
/-- VIMAX (R153) -/
def execVimax (d a b : BitVec 6) (t : BitVec 4) (s : State) : Host.Outcome State Fault Refusal :=
  .next (vint2 s 2 d a b t fun n x y => if toSigned n x < toSigned n y then y else x)
/-- VIMINU (R153) -/
def execViminu (d a b : BitVec 6) (t : BitVec 4) (s : State) : Host.Outcome State Fault Refusal :=
  .next (vint2 s 2 d a b t fun _ x y => min x y)
/-- VIMAXU (R153) -/
def execVimaxu (d a b : BitVec 6) (t : BitVec 4) (s : State) : Host.Outcome State Fault Refusal :=
  .next (vint2 s 2 d a b t fun _ x y => max x y)

/-! ### Conversions and block scales (R154 to R156) -/

/-- Convert an element of VCVT: e8m0 is a scale code (Table 6.6). -/
def vconvert (src dst mode : Nat) (sat : Bool) (x : Nat) : Nat :=
  if src = 5 then roundF (fmtOf dst) mode (scaleVal x) else convert src dst mode sat x

/-- VCVT: elements 0 to N − 1, then zero bytes. (R154) -/
def execVcvt (d a : BitVec 6) (o : BitVec 4) (x : BitVec 1) (i : BitVec 4) (s : State) : Host.Outcome State Fault Refusal :=
  let wi := typeBytes i.toNat
  let wo := typeBytes o.toNat
  let n := 2048 / max wi wo
  let mode := roundMode s
  .next (vsources s [a.toNat] [] fun s rs k =>
    match rs with
    | [r] =>
      let out := (elems wi n (vecBytes r.val)).map (vconvert i.toNat o.toNat mode (x == 1#1))
      vland s 3 d (vofElems wo out) (tileMask wo k ||| tailMask (n * wo)) r.poison
    | _ => s)

/-- VQBLK: 16 blocks of 32 elements, and their scales. (R155) -/
def execVqblk (d a v : BitVec 6) (t : BitVec 4) (s : State) : Host.Outcome State Fault Refusal :=
  let mode := roundMode s
  .next (vsources s [a.toNat] [] fun s rs k =>
    match rs with
    | [r] =>
      let e := extent k 4
      let xs := (velems 4 r.val).zipIdx.map fun (x, j) => if clipped e j then 0 else x
      let qs := (chunk 32 16 xs).map (quantBlock t.toNat mode)
      let keep := match k with
        | none => fullMask
        | some _ => vofElems 1 ((List.range 512).map fun j => if clipped e j then 0 else 0xFF) ||| tailMask 512
      let s := vland s 6 d (vofElems 1 (qs.flatMap (·.2))) keep r.poison
      vland2 s 6 v.toNat (vofElems 1 (qs.map (·.1))) fullMask r.poison
    | _ => s)

/-- VDQBLK: the inverse of VQBLK. (R156) -/
def execVdqblk (d a v : BitVec 6) (t : BitVec 4) (s : State) : Host.Outcome State Fault Refusal :=
  let mode := roundMode s
  .next (vsources s [a.toNat, v.toNat] [] fun s rs k =>
    match rs with
    | [r, z] =>
      let qs := elems 1 512 (vecBytes r.val)
      let sc := elems 1 16 (vecBytes z.val)
      vland s 6 d (vofElems 4 (qs.zipIdx.map fun (q, j) => dequant t.toNat 0 mode (nth 0 sc (j / 32)) q)) (tileMask 4 k) (vtag rs)
    | _ => s)

/-! ### Row operations (R157) -/

/-- A row operation on the f32 or i32 tile view: for each row, the result at column c of its terms, given as (column, value). -/
def vrows (s : State) (d a : BitVec 6) (f : List (Nat × Nat) → Nat → Nat) : State :=
  vsources s [a.toNat] [] fun s rs k =>
    match rs with
    | [r] =>
      let e := extent k 4
      let rows := (tileRows 4 (velems 4 r.val)).zipIdx
      let out := rows.flatMap fun (row, i) =>
        let ts := (row.zipIdx.filter fun (_, c) => i < e.1 && c < e.2).map fun (x, c) => (c, x)
        (List.range 128).map (f ts)
      vland s 6 d (vofElems 4 out) (tileMask 4 k) r.poison
    | _ => s

/-- The sum of terms, f32 or i32. -/
def sumTerms (t mode : Nat) (xs : List Nat) : Nat :=
  if t = 0 then roundF f32 mode (sumExact mode true (xs.map (decodeF f32))) else xs.foldl (fun a x => (a + x) % 2 ^ 32) 0

/-- The sum of squares of terms. -/
def sumSquares (t mode : Nat) (xs : List Nat) : Nat :=
  if t = 0 then roundF f32 mode (sumExact mode true (xs.map fun x => let v := decodeF f32 x; v.mul v))
  else xs.foldl (fun a x => (a + x * x) % 2 ^ 32) 0

/-- The maximum and minimum of terms. -/
def maxTerms (t : Nat) (xs : List Nat) : Nat :=
  if t = 0 then xs.foldl (maxPat f32) 0xFF800000
  else xs.foldl (fun a x => if toSigned 32 a < toSigned 32 x then x else a) 0x80000000
def minTerms (t : Nat) (xs : List Nat) : Nat :=
  if t = 0 then xs.foldl (minPat f32) 0x7F800000
  else xs.foldl (fun a x => if toSigned 32 x < toSigned 32 a then x else a) 0x7FFFFFFF

/-- Terms in columns up to c, or below it. -/
def upTo (ts : List (Nat × Nat)) (c : Nat) : List Nat := (ts.filter (·.1 ≤ c)).map (·.2)
def below (ts : List (Nat × Nat)) (c : Nat) : List Nat := (ts.filter (·.1 < c)).map (·.2)

/-- VPSUM (R157) -/
def execVpsum (d a : BitVec 6) (t : BitVec 4) (s : State) : Host.Outcome State Fault Refusal :=
  .next (vrows s d a fun ts c => sumTerms t.toNat (roundMode s) (upTo ts c))
/-- VPSUMX (R157) -/
def execVpsumx (d a : BitVec 6) (t : BitVec 4) (s : State) : Host.Outcome State Fault Refusal :=
  .next (vrows s d a fun ts c => sumTerms t.toNat (roundMode s) (below ts c))
/-- VPMAX (R157) -/
def execVpmax (d a : BitVec 6) (t : BitVec 4) (s : State) : Host.Outcome State Fault Refusal :=
  .next (vrows s d a fun ts c => maxTerms t.toNat (upTo ts c))
/-- VPXOR (R157) -/
def execVpxor (d a : BitVec 6) (_t : BitVec 4) (s : State) : Host.Outcome State Fault Refusal :=
  .next (vrows s d a fun ts c => (upTo ts c).foldl (· ^^^ ·) 0)
/-- VREDSUM (R157) -/
def execVredsum (d a : BitVec 6) (t : BitVec 4) (s : State) : Host.Outcome State Fault Refusal :=
  .next (vrows s d a fun ts _ => sumTerms t.toNat (roundMode s) (ts.map (·.2)))
/-- VREDMAX (R157) -/
def execVredmax (d a : BitVec 6) (t : BitVec 4) (s : State) : Host.Outcome State Fault Refusal :=
  .next (vrows s d a fun ts _ => maxTerms t.toNat (ts.map (·.2)))
/-- VREDMIN (R157) -/
def execVredmin (d a : BitVec 6) (t : BitVec 4) (s : State) : Host.Outcome State Fault Refusal :=
  .next (vrows s d a fun ts _ => minTerms t.toNat (ts.map (·.2)))
/-- VREDSQ (R157) -/
def execVredsq (d a : BitVec 6) (t : BitVec 4) (s : State) : Host.Outcome State Fault Refusal :=
  .next (vrows s d a fun ts _ => sumSquares t.toNat (roundMode s) (ts.map (·.2)))

/-! ### Ranking, permuting, rotating and windows (R158 to R161) -/

/-- The candidates of a row in rank order: value and column (R158). -/
def ranked (f : Fmt) (row : List Nat) (cols : Nat) : List (Nat × Nat) :=
  (sortBy (fun (a b : Nat × Nat × FV) => !(a.2.2.below b.2.2)) ((row.take cols).zipIdx.map fun (x, c) => (x, c, decodeF f x))).map
    fun (x, c, _) => (x, c)

/-- VTOPK (R158) -/
def execVtopk (d a v : BitVec 6) (t : BitVec 4) (k : BitVec 2) (s : State) : Host.Outcome State Fault Refusal :=
  let f := fmtOf t.toNat
  let w := typeBytes t.toNat
  let n := 8 * 2 ^ k.toNat
  let ninf := signBit f true + (f.inf.getD 0)
  .next (vsources s [a.toNat] [] fun s rs kp =>
    match rs with
    | [r] =>
      let e := extent kp (16 / w)
      let rows := (tileRows (16 / w) (velems w r.val)).map fun row => ranked f row e.2
      let vals := rows.flatMap fun q => (List.range 128).map fun i => if i < n then (nth (ninf, 0) q i).1 else 0
      let idxs := rows.zipIdx.flatMap fun (q, i) => (List.range 128).map fun j =>
        if j < n && i < e.1 then (nth (0, 0xFFFF) q j).2 else 0
      let s := vland s 12 d (vofElems w vals) (rowMask w kp) r.poison
      vland2 s 12 v.toNat (vofElems 2 idxs) fullMask r.poison
    | _ => s)

/-- VPERM (R159) -/
def execVperm (d a b : BitVec 6) (t : BitVec 4) (s : State) : Host.Outcome State Fault Refusal :=
  let w := typeBytes t.toNat
  .next (vsources s [a.toNat, b.toNat] [] fun s rs k =>
    match rs with
    | [x, y] =>
      let e := extent k (16 / w)
      let rows := (tileRows (16 / w) (velems w x.val)).zip (tileRows (16 / w) (velems w y.val))
      let out := rows.zipIdx.flatMap fun ((rx, ry), i) => ry.map fun q =>
        if bitAt q 7 then 0 else if clipped e (128 * i + q % 128) then 0 else nth 0 rx (q % 128)
      vland s 3 d (vofElems w out) (tileMask w k) (vtag rs)
    | _ => s)

/-- VROT: by bytes, in the 1-byte tile view. (R160) -/
def execVrot (d a : BitVec 6) (n : BitVec 12) (s : State) : Host.Outcome State Fault Refusal :=
  .next (vsources s [a.toNat] [] fun s rs k =>
    match rs with
    | [r] =>
      let bs := vecBytes (r.val &&& tileMask 1 k)
      vland s 3 d (vecOfBytes (bs.drop n.toNat ++ bs.take n.toNat)) (tileMask 1 k) r.poison
    | _ => s)

/-- VWIN: scores outside the window become −∞. (R161) -/
def execVwin (d : BitVec 6) (p l : BitVec 4) (s : State) : Host.Outcome State Fault Refusal :=
  let ap := rdA (curCtx s) 1 p.toNat
  let al := rdA (curCtx s) 1 l.toNat
  let q := bits ap.w.toNat 0 32
  let k0 := bits ap.w.toNat 32 32
  let len := bits al.w.toNat 0 32
  .next (vsources s [d.toNat] [ap, al] fun s rs k =>
    match rs with
    | [r] =>
      let out := (velems 4 r.val).zipIdx.map fun (x, j) =>
        let dist := toSigned 32 ((q + j / 128 + (2 ^ 33 - (k0 + j % 128))) % 2 ^ 32)
        if 0 ≤ dist && dist < (len : Int) then x else 0xFF800000
      vland s 3 d (vofElems 4 out) (tileMask 4 k) (meet (meet r.poison ap.p) al.p)
    | _ => s)

/-! ### The online soft-maximum (R162, R163) -/

/-- What a row of VSMAX gives: p by column, the state m, l, rl, lse and flags, and α. -/
structure SmaxRow where
  p : List Nat
  st : List Nat
  alpha : Nat
deriving DecidableEq, Repr

/-- Round a near result to f32. -/
def round32 (mode : Nat) (r : Near) : Nat := roundS f32 mode false r.1 r.2

/-- m + log₂ l in a mode (R163). -/
def lseNear (mode : Nat) (m : FV) : FV → Near
  | .nan => (.nan, false)
  | .inf neg => (if neg then .nan else .inf false, false)
  | .fin neg k e => if k = 0 then (.inf true, false) else if neg then (.nan, false) else log2Near mode k e m

/-- One row of the step: the unclipped scores and the old m, l and flags (R163). With no score, l is -0 where the product of the old l is -0
(DESIGN CHOICE, log 131). -/
def smaxRow (mode : Nat) (scores : List Nat) (m0 l0 flags : Nat) : SmaxRow :=
  let nan := f32.nan
  let ninf := 0xFF800000
  let (m0, l0) := if bitAt flags 0 then (m0, l0) else (ninf, 0)
  let bad := fun (x : Nat) => f32IsNan x || decodeF f32 x == .inf false
  if bad m0 || scores.any bad then ⟨scores.map fun _ => nan, [nan, nan, nan, nan, 1], nan⟩
  else
    let m1 := scores.foldl (maxPat f32) m0
    if m1 = ninf then ⟨scores.map fun _ => 0, [ninf, 0, 0, ninf, 3], 0⟩
    else
      let v1 := decodeF f32 m1
      let pow := fun (x : Nat) => round32 mode (exp2Near (FV.add 0 (decodeF f32 x) v1.neg))
      let ps := scores.map pow
      let al := pow m0
      let l := roundF f32 mode (sumExact mode true ((decodeF f32 al).mul (decodeF f32 l0) :: ps.map (decodeF f32)))
      let vl := decodeF f32 l
      ⟨ps, [m1, l, round32 mode (vRcp vl), round32 mode (lseNear mode v1 vl), 1], al⟩

/-- VSMAX (R162, R163) -/
def execVsmax (d a v : BitVec 6) (_t : BitVec 4) (s : State) : Host.Outcome State Fault Refusal :=
  let mode := roundMode s
  .next (vsources s [a.toNat, v.toNat] [] fun s rs k =>
    match rs with
    | [x, z] =>
      let e := extent k 4
      let rows := ((tileRows 4 (velems 4 x.val)).zip (tileRows 4 (velems 4 z.val))).map fun (row, st) =>
        smaxRow mode (row.take e.2) (nth 0 st 0) (nth 0 st 1) (nth 0 st 4)
      let p := vtag rs
      let s := vland s 10 d (vofElems 4 (rows.flatMap fun r => r.p ++ List.replicate (128 - r.p.length) 0)) (tileMask 4 k) p
      let s := vland2 s 10 v.toNat (vofElems 4 (rows.flatMap fun r => r.st ++ List.replicate 123 0)) (rowMask 4 k) p
      vland2 s 10 (v.toNat + 1) (vofElems 4 (rows.flatMap fun r => List.replicate 128 r.alpha)) (rowMask 4 k) p
    | _ => s)

/-! ### Loads and stores (R164, R165) -/

/-- The checks of VLD and VST on a scratch address: the REASON of an error response, 3 for another core's slice (DESIGN CHOICE, log
129). -/
def vscratchError (s : State) (a : Nat) : Option Nat :=
  match scratchError s s.cur.g a 2048 with
  | some r => some r
  | none => if a / 0x80_0000 ≠ curCore s then some 3 else none

/-- VLD and VST: consumed operands, checks, and an access in the fifth clock (R164, R231). -/
def vaccess (s : State) (store inState : Bool) (v : BitVec 6) (b : BitVec 4) (o : BitVec 10) (cls : BitVec 4) : State :=
  let c := curCtx s
  let base := rdA c 1 b.toNat
  let k := predicate s
  let r := vregOf c v.toNat
  let a := (base.w + o.setWidth 64 * 64#64).toNat
  let err := vscratchError s a
  let check := if inState then stateCheck s a 2048 64 else if err.isSome then some .memerr else alignCheck a 64
  let log := fun (s : State) => match err with | some e => if inState then s else errorResponse s 0 a e (bnat store) | none => s
  consumeWith s (k.toList ++ [base] ++ (if store then [r.val64] else [])) (checkOn [base] check) log fun s =>
    let mask := tileMask 4 (k.map (·.w))
    let go := fun (l : Loc) =>
      let x : Landing := { left := 6, dest := if store then .none else .v v.toNat, val := .vec (if store then r.val else 0#16384), mask,
                           whole := mask == fullMask, access := some { store, loc := l, cls := cls.toNat } }
      if shadowOver s c.cid x.storeRuns then trapWith s .shadowfull else landIn s x
    go (if inState then .state (curCore s) a else .scratch a)

/-- VLD (R164) -/
def execVld (v : BitVec 6) (b : BitVec 4) (o : BitVec 10) (c : BitVec 4) (s : State) : Host.Outcome State Fault Refusal :=
  .next (vaccess s false false v b o c)
/-- VST (R164) -/
def execVst (v : BitVec 6) (b : BitVec 4) (o : BitVec 10) (c : BitVec 4) (s : State) : Host.Outcome State Fault Refusal :=
  .next (vaccess s true false v b o c)
/-- VLD_STATE (R164) -/
def execVldState (v : BitVec 6) (b : BitVec 4) (o : BitVec 10) (c : BitVec 4) (s : State) : Host.Outcome State Fault Refusal :=
  .next (vaccess s false true v b o c)
/-- VST_STATE (R164) -/
def execVstState (v : BitVec 6) (b : BitVec 4) (o : BitVec 10) (c : BitVec 4) (s : State) : Host.Outcome State Fault Refusal :=
  .next (vaccess s true true v b o c)

/-- A reduction that rests on, or is in flight to, the bytes of a VLD or VST must perform first: any of its 2,048 bytes, whatever the predicate
clips (R165; DESIGN CHOICE, log 130). -/
def vaccessHeld (s : State) (g : Nat) (v : VAccess) : Bool :=
  (coreOf s (coreNo g)).comb.any (fun e => overlaps e.loc e.size v.loc 2048) ||
  s.accs.any fun a => a.isRed && coreNo a.g == coreNo g && overlaps a.loc a.size v.loc 2048

/-- The place `d` bytes on. -/
def locAdd (l : Loc) (d : Nat) : Loc :=
  match l with
  | .scratch a => .scratch (a + d)
  | .state k o => .state k (o + d)
  | .plane k p o => .plane k p (o + d)
  | .phys a => .phys (a + d)

/-- The access of a VLD or VST performs (R165, R231): the landing with its value, and the state. A poisoned line poisons a load whatever the
predicate clips (DESIGN CHOICE, log 130). -/
def performVAccess (s : State) (cid : Nat) (l : Landing) : Landing × State :=
  match l.access, l.val with
  | some v, .vec w =>
    if v.store then
      let bs := vecBytes w
      let runs := if l.whole then [(0, 2048)] else maskRuns 0 (vecBytes l.mask)
      ({ l with access := none },
       runs.foldl (fun s (o, n) => writeView s cid (locAdd v.loc o) ((bs.drop o).take n) 1) s)
    else
      let bad := badView s cid v.loc 2048
      if bad then ({ l with access := none, val := .vec (Config.freeVec s.free), poison := some .memerr }, { s with free := s.free + 1 })
      else ({ l with access := none, val := .vec (vecOfBytes (readView s cid v.loc 2048)) }, s)
  | _, _ => (l, s)

/-! ### Queues, splats, moves and the ring ingress (R166 to R168) -/

/-- VPOPQ: an empty queue freezes. (R166) -/
def execVpopq (d : BitVec 6) (q : BitVec 3) (t : BitVec 4) (s : State) : Host.Outcome State Fault Refusal :=
  let w := typeBytes t.toNat
  .next (match headQ (curCtx s) q.toNat s.clock with
    | none => freeze s
    | some e => vland (modCur s fun c => popQ c q.toNat) 2 d
        (vofElems w (List.replicate (2048 / w) (e.val.toNat % 2 ^ (8 * w)))) fullMask e.poison)

/-- VPUSHQ: element 0, with its register's tag. (R166) -/
def execVpushq (a : BitVec 6) (q : BitVec 3) (t : BitVec 4) (s : State) : Host.Outcome State Fault Refusal :=
  let r := vregOf (curCtx s) a.toNat
  let x := r.val.setWidth 64
  let v : Word := if typeBytes t.toNat = 8 then x else if isSigned t.toNat then sext64 32 x.toNat else (x.setWidth 32).setWidth 64
  .next (pushTo s q.toNat ⟨v, r.poison⟩)

/-- VSPLAT: kind 0 b16, 1 f32 from bf16, 2 i32 sign-extended. (R167) -/
def execVsplat (d : BitVec 6) (k : BitVec 2) (i : BitVec 16) (s : State) : Host.Outcome State Fault Refusal :=
  let w := if k = 0#2 then 2 else 4
  let x := if k = 0#2 then i.toNat else if k = 1#2 then i.toNat * 2 ^ 16 else (i.signExtend 32).toNat
  .next (vsources s [] [] fun s _ kp =>
    vland s 2 d (vofElems w (List.replicate (2048 / w) x)) (tileMask w kp) none)

/-- VMOV (R167) -/
def execVmov (d a : BitVec 6) (t : BitVec 4) (s : State) : Host.Outcome State Fault Refusal :=
  .next (vsources s [a.toNat] [] fun s rs k =>
    match rs with
    | [r] => vland s 2 d r.val (viewMask t k) r.poison
    | _ => s)

/-- VRXPOP: an empty ring ingress queue freezes. (R168) -/
def execVrxpop (d : BitVec 6) (s : State) : Host.Outcome State Fault Refusal :=
  .next (match (curCtx s).ingress with
    | [] => freeze s
    | e :: r => vland (modCur s fun c => { c with ingress := r }) 2 d e.val fullMask e.poison)

end Sys2Proof.Machine
end

