-- ==== Sys2Proof/Machine/Traps.lean ====
section
/-! DEFINITION. Landing (R227, R228, R231), traps and returns (R221, R222, R328 to R337), and the shadow swap with its spill and
fill (R223, R338 to R343). Taking a trap itself is `takeTrap` of Ops. -/

namespace Sys2Proof.Machine
open Sys2Proof

/-! ### Landing -/

/-- Results of a list in issue order (R228). -/
def issueOrder (ls : List Landing) : List Landing := sortBy (fun a b => a.grp ≤ b.grp) ls

/-- The result has copies that are still to be accepted (R146). -/
def Landing.copies (l : Landing) : Bool := l.mf || l.sq || l.rx

/-- The copies of a result that no result of an earlier group holds back: copies to one consumer arrive in issue order (R146). -/
def copyTurn (pipe : List Landing) (l : Landing) : Bool × Bool × Bool :=
  let first := fun (f : Landing → Bool) => f l && !pipe.any fun y => y.grp < l.grp && f y
  (first (·.mf), first (·.sq), first (·.rx))

/-- A landed result offers the copies whose turn it is: the result with what is still to be accepted, and the state (R146). -/
def offerCopies (s : State) (g : Nat) (l : Landing) : Landing × State :=
  match l.val with
  | .word _ => ({ l with mf := false, sq := false, rx := false }, s)
  | .vec w =>
    let cid := (ctxOf s g).cid
    let e : BigEntry := { val := w, poison := l.poison }
    let (tm, tq, tr) := copyTurn (engOf (ctxOf s g) 1).pipe l
    let offer := fun (s : State) (mf sq rx : Bool) =>
      if mf || sq || rx then (match sendEntry s g cid e mf sq rx with | some s' => (true, s') | none => (false, s)) else (false, s)
    let (m, s) := offer s tm false false
    let (q, s) := offer s false tq false
    let (r, s) := offer s false false tr
    ({ l with mf := l.mf && !m, sq := l.sq && !q, rx := l.rx && !r }, s)

/-- The landed results whose copies are still to be accepted offer them, in issue order (R146). -/
def retryCopies (s : State) (g : Nat) : State :=
  (issueOrder ((engOf (ctxOf s g) 1).pipe.filter fun l => l.left = 0)).foldl (fun s l =>
    let (l', s) := offerCopies s g l
    let new := if l'.copies then some l' else none
    modCtx s g fun c => modEng c 1 fun x => { x with pipe := replaceFirst l new x.pipe }) s

/-- One unfrozen clock of an engine's exposed pipelines (R227, R235): every result advances; those at their last clock, and the results by
token of this clock, land in issue order (R228); copies are offered, and a VLD or VST in its fifth clock performs (R146, R231). -/
def landResults (s : State) (g e : Nat) : State :=
  let c := ctxOf s g
  let x := engOf c e
  let adv := x.pipe.map fun l => { l with left := l.left - 1 }
  let (out, stay) := adv.partition fun l => l.left = 0
  let late := if e = 0 then c.arrive else []
  let wait := if e = 1 then (out.filter (·.copies)).map fun l => { l with dest := .none } else []
  let s := modCtx s g fun c => modEng { c with arrive := if e = 0 then [] else c.arrive } e fun x => { x with pipe := stay ++ wait }
  let s := modCtx s g fun c => (issueOrder (out ++ late)).foldl writeDest c
  if e ≠ 1 then s
  else
    let s := retryCopies s g
    let cid := (ctxOf s g).cid
    (stay.filter fun l => l.left = 1 && l.access.isSome).foldl (fun s l =>
      let (l', s) := performVAccess s cid l
      modCtx s g fun c => modEng c 1 fun x => { x with pipe := replaceFirst l (some l') x.pipe }) s

/-- Results by token of this clock land in a context whose pipelines stand still (R228, R245). -/
def landArrivals (s : State) (g bank : Nat) : State :=
  let c := ctxAt s g bank
  if c.arrive = [] then s else setCtxAt s g bank ((issueOrder c.arrive).foldl writeDest { c with arrive := [] })

/-- A copy whose turn it was has been refused, which freezes the vector engine (R146, R236). -/
def copyRefused (x : EngCtx) : Bool :=
  x.pipe.any fun l => l.left = 0 && (let (m, q, r) := copyTurn x.pipe l; m || q || r)

/-- A VLD or VST whose next clock is its fifth waits for reductions of its core (R165). -/
def vectorHeld (s : State) (g : Nat) : Bool :=
  (engOf (ctxOf s g) 1).pipe.any fun l => l.left = 2 && (match l.access with | some v => vaccessHeld s g v | none => false)

/-- What a vector engine needs of its core's banks in this clock: the tiles of a VLD or VST whose access is due (R165, R238). -/
def vectorNeed (s : State) (g : Nat) : Need :=
  (coreNo g, 16 * g + 7, (engOf (ctxOf s g) 1).pipe.flatMap fun l =>
    match l.access with
    | some v => if l.left = 2 && coreIn v.loc = coreNo g then banksIn v.loc 2048 else []
    | none => [])

/-- Freezes of an engine that keep an issued operation on its timing (R332): a load's data, a refused copy, an unperformed
reduction, a group fetched from another core's slice, a bank conflict. -/
def timedFreeze (s : State) (g e : Nat) : Bool :=
  let x := engOf (ctxOf s g) e
  (x.pipe.any fun l => l.awaits.isSome) || (e == 1 && copyRefused x) || (e == 1 && vectorHeld s g) ||
  (e == 1 && bankLost s (vectorNeed s g)) || ((e == 2 || e == 3) && recordLoses s g e) || (e == 0 && fetching s (ctxOf s g).cid 0 x.pc) || x.bankAt.any (s.clock < ·)

/-- RESULT_LANDS: the exposed pipelines of an engine of an active context advance by one clock, unless it is frozen or its
sub-core is being swapped. (R227, R228, R235) -/
def execResultLands (g e : Nat) (s : State) : Host.Outcome State Fault Refusal :=
  if 384 ≤ g || 5 ≤ e then .fault .noSuchObject
  else if (engOf (ctxOf s g) e).frozen || (subOf s g).swapLeft ≠ 0 then .next s
  else .next (landResults s g e)

/-! ### Traps -/

/-- Results of earlier groups are still in the exposed pipelines of the executing engine. -/
def undrained (s : State) : Bool := (curEng s).pipe.any fun l => l.grp != (curEng s).grp

/-- TRAP: SWTRAP with code n; from S or M it first waits for the sequencer's results. (R221, R346) -/
def execTrap (n : BitVec 16) (s : State) : Host.Outcome State Fault Refusal :=
  .next (if (curCtx s).pl ≠ 0#2 && undrained s then waitOn s .drain else trapWith s .swtrap 0#64 n)

/-- TRAP_TAKEN: a trap stops the engine between two groups, with its next group's address in the frame. (R331, R333, R334) -/
def execTrapTaken (g e : Nat) (c : Cause) (tval : BitVec 64) (sw : BitVec 16) (s : State) : Host.Outcome State Fault Refusal :=
  if 384 ≤ g || 5 ≤ e then .fault .noSuchObject
  else .next (takeTrap s g e c (engOf (ctxOf s g) e).pc tval sw)

/-! ### Return (R328, R334, R336) -/

/-- A held access whose re-check fails gets an error response (R328, R323). -/
def failHeld (s : State) (a : Access) (hv : Word) (reason : Nat) : State :=
  refuse s a 3 (handleBits hv) reason

/-- A held access repeats its check (R328). One that passes performs after the resting reductions whose bytes it touches, which it flushes
(R129); a reduction rests. -/
def recheck (s : State) (a : Access) : State :=
  match a.held with
  | none => s
  | some (_, hv, off) =>
    match checkHandle s (a.fen s) hv off.toNat a.size a.logKind (a.level == 3) with
    | .absent => s
    | .fail r => failHeld s a hv r
    | .pass pa =>
      let a := { a with loc := .phys pa, held := none, agent := agentOf (.phys pa), pages := handlePage s (a.fen s) a.hidx }
      if a.isRed then restHeld s a
      else
        let (fl, s) := flushTouched s (coreNo a.g) a.loc a.size
        injectWaiting { s with accs := s.accs.map fun x => if x.id = a.id then { a with after := a.after ++ fl } else x }

/-- ERET restarts what a resumable fault halted (R328). -/
def restart (s : State) (cid : Nat) : State :=
  restartXfers ((s.accs.filter fun a => a.cid == cid && a.held.isSome).foldl recheck s) cid

/-- The executing engine goes on at the pc that a return or a swap has set. -/
def goOn (s : State) : State := { s with cur := { s.cur with next := (curEng s).pc, taken := true } }

/-- ERET: returns through the frame of the level that executes it. (R222, R334, R336) -/
def execEret (s : State) : Host.Outcome State Fault Refusal :=
  let c := curCtx s
  .next (if c.pl = 0#2 then trapWith s .priv
    else
      let ppl := bits (if c.pl = 3#2 then c.tr.mtcause else c.tr.tcause).toNat 9 2
      if ppl = 2 then trapWith s .priv
      else if undrained s then waitOn s .drain
      else if c.pl = 3#2 then goOn (eretFromM s s.cur.g)
      else goOn (restart (eretFromS s s.cur.g) c.cid))

/-! ### Contexts at their start (R255, Table 1.5) -/

/-- Private window of a sub-core (R27). -/
def windowOf (g : Nat) : Nat := coreNo g * 0x80_0000 + 0x59_0000 + g % 4 * 0x1_0000

/-- A context at its start: sp, the fen's fade floor and the given s registers; everything else as at reset (Table 1.5). -/
def startCtx (s : State) (g cid : Nat) (vals : List (Nat × Word)) : Ctx :=
  let f := fenOf s (coreOf s (coreNo g)).fen
  { cid, fadefl := f.fadedef,
    s := ((vals.filter fun (_, w) => w ≠ 0#64).map fun (n, w) => (n, { val := w })) ++
         [(63, { val := BitVec.ofNat 64 (windowOf g + 0x1_0000) })] }

/-- A service context (R342). -/
def serviceCtx (s : State) (g cid : Nat) (tscr : Word) : Ctx :=
  let f := fenOf s (coreOf s (coreNo g)).fen
  let c := startCtx s g cid [(8, tscr)]
  setEng { c with pl := 1#2, svc := true } 0 { stopped := false, pc := f.svec.toNat % 2 ^ 32 / 4 * 4 }

/-! ### The shadow swap (R339, R340, R342) -/

/-- A context as it leaves its bank's active place: captured pipelines go into the in-flight queues, waits other than a parking
are re-executed on return, and the engine ring descriptors are kept with it (R331, R339, R340). A trapped context's in-flight
queue already holds the results of its trap, so its handler's own results stay with their remaining delays (log 29). -/
def leaving (s : State) (g : Nat) : Ctx :=
  let c := ctxOf s g
  let rings := [1, 2, 3, 4].map fun e => ringOf s (coreNo g) (engRing g e)
  let still := fun (x : EngCtx) => { x with
    wait := if x.wait = some .parked then x.wait else none, held := if x.wait = some .parked then x.held else [],
    fetchAt := none, bankAt := none, frozen := false, idle := 0 }
  let c := { c with eng := c.eng.map (fun (e, x) => (e, still x)), erings := rings, ifqV := c.ifqV ++ (engOf c 1).pipe }
  let c := modEng c 1 fun x => { x with pipe := [] }
  if c.trapped then c else modEng { c with ifqS := c.ifqS ++ (engOf c 0).pipe } 0 fun x => { x with pipe := [] }

/-- A context as it becomes active: its in-flight results are re-injected with their remaining delays (R336, R339). -/
def entering (c : Ctx) : Ctx :=
  let c1 := modEng { c with ifqV := [], erings := [] } 1 fun x => { x with pipe := x.pipe ++ c.ifqV }
  if c.trapped then c1 else modEng { c1 with ifqS := [] } 0 fun x => { x with pipe := x.pipe ++ c.ifqS }

/-- Bring a context into the active place of a sub-core, for 24 clocks in which no engine of it issues (R339). -/
def bringIn (s : State) (g : Nat) (c : Ctx) : State :=
  let s := modSub s g fun b => { b with act := entering c, swapLeft := 24, swapAsk := false }
  (c.erings.zipIdx 1).foldl (fun s (r, e) => setRing s (coreNo g) (engRing g e) r) s

/-- Lines of a context image (Table 19.9). -/
def imageLines : Nat := 4096

/-- The active context of a sub-core gives up its grants (R340). -/
def dropGrants (s : State) (g : Nat) : State := endGrant (endGrant s g 0) g 1

/-- A boundary at which a swap may begin: no engine is held by a freeze that keeps issued work on its timing (R332). -/
def swapBoundary (s : State) (g : Nat) : Bool :=
  (subOf s g).swapLeft = 0 && !limiterOn s && !([0, 1, 2, 3, 4].any fun e => timedFreeze s g e) && !portRetries s g

/-- The walker begins no swap at S or M or while a trap frame is live (R339). -/
def swapAllowed (s : State) (g : Nat) : Bool :=
  (ctxOf s g).pl == 0#2 && !(ctxOf s g).trapped && !(subOf s g).swapAsk && swapBoundary s g

/-- The swap that a SWAPX asked for (R342). A context that stands in the bank, a displaced one or one that pre-emption is still to bring in,
comes back after the service context; the bank then holds the caller (R338; DESIGN CHOICE, log 121). -/
def swapxNow (s : State) (g : Nat) : State :=
  let b := subOf s g
  if b.act.svc then
    let shb := if b.spilled.isSome then 3#2 else 0#2
    bringIn (modSub (dropGrants s g) g fun b => { b with shd := {}, shb, spillLeft := if shb = 3#2 then imageLines else 0 }) g b.shd
  else
    let (cid, s) := freshId s
    let out := leaving s g
    let s := modSub (dropGrants s g) g fun b =>
      if b.shb = 0#2 && b.shd.step.isNone then { b with shd := out, shb := 2#2, image := some out, spillLeft := imageLines }
      else { b with shd := out, shb := 1#2, spilled := some b.shd }
    bringIn s g (serviceCtx s g cid b.act.tr.tscr)

/-- The step in the shadow bank was placed there by pre-emption and has not been brought in. -/
def preemptReady (b : Sub) : Bool :=
  b.act.step.isSome && (b.shb == 0#2 || b.shb == 1#2) && (match b.shd.step with | some st => st.preempting && !st.ended | none => false)

/-- The turn of the context in the shadow bank: the step that displaced it, or that it was to displace, has gone, and no fill is in
progress; a spill that still runs is given up (R343). -/
def returnReady (b : Sub) : Bool := b.shb != 3#2 && b.act.step.isNone && !b.act.svc && b.shd.cid ≠ 0

/-- SHADOW_SWAP: the banks of a sub-core exchange, for a SWAPX, for a step placed by pre-emption, or for a displaced context
that returns. (R223, R339 to R343) -/
def execShadowSwap (g : Nat) (s : State) : Host.Outcome State Fault Refusal :=
  if 384 ≤ g then .fault .noSuchObject
  else
    let b := subOf s g
    .next (if b.swapAsk then (if swapBoundary s g then swapxNow s g else s)
      else if preemptReady b then
        (if swapAllowed s g then
          let out := leaving s g
          let out := { out with step := out.step.map fun st => { st with displaced := true } }
          bringIn (modSub (dropGrants s g) g fun b => { b with shd := out, shb := 2#2, image := some out, spillLeft := imageLines }) g b.shd
         else s)
      else if returnReady b && b.swapLeft = 0 then bringIn (modSub s g fun b => { b with shd := {}, shb := 0#2, image := none, spillLeft := 0 }) g b.shd
      else s)

/-- SWAPX: exchanges the banks; PRIV at U. (R223, R342) -/
def execSwapx (s : State) : Host.Outcome State Fault Refusal :=
  .next (if (curCtx s).pl = 0#2 then trapWith s .priv
    else if swapxMet s s.cur.g then modSub s s.cur.g fun b => { b with swapAsk := true, askAt := s.clock }
    else waitOn s .swapx)

/-- SPILL_DONE: the displaced context's image is written; the bank is LIVE. (R339, R341) -/
def execSpillDone (g : Nat) (s : State) : Host.Outcome State Fault Refusal :=
  if 384 ≤ g then .fault .noSuchObject
  else .next (if (subOf s g).shb = 2#2 then modSub s g fun b => { b with shb := 1#2, spillLeft := 0 } else s)

end Sys2Proof.Machine
end

