-- ==== Sys2Proof/Machine/Launch.lean ====
section
/-! DEFINITION. Launches: the checks of a record (R252 to R254, R403), step contexts (R255), dependences and starting (R259),
WGET, WSTEAL, WBAR, WDONE and LNCH (R216 to R220), withdrawal (R261), the end of a launch, its completion record and digest
(R266, R267, R367, R389), budgets (R379), copy records and the Mere (R298, R299). -/

namespace Sys2Proof.Machine
open Sys2Proof

/-! ### Fields of a record (Table 12.1) -/

def Launch.format (l : Launch) : Nat := fieldLE l.lnr 0x00 2
def Launch.isCopy (l : Launch) : Bool := l.format == 2
def Launch.flag (l : Launch) (i : Nat) : Bool := bitAt (fieldLE l.lnr 0x03 1) i
def Launch.overlap (l : Launch) : Bool := !l.isCopy && l.flag 3
def Launch.local (l : Launch) : Bool := l.flag 2
def Launch.res (l : Launch) : Bool := l.flag 1
def Launch.det (l : Launch) : Bool := l.flag 0
def Launch.gang (l : Launch) : Nat := fieldLE l.lnr 0x04 1
def Launch.fixed (l : Launch) : Bool := fieldLE l.lnr 0x05 1 == 1
def Launch.pstride (l : Launch) : Nat := fieldLE l.lnr 0x06 2
def Launch.pbase (l : Launch) : Nat := fieldLE l.lnr 0x08 2
def Launch.resn (l : Launch) : Nat := fieldLE l.lnr 0x0A 2
def Launch.nout (l : Launch) : Nat := fieldLE l.lnr 0x0C 1
def Launch.nreg (l : Launch) : Nat := fieldLE l.lnr 0x0D 1
def Launch.seed (l : Launch) : Nat := fieldLE l.lnr 0x18 8
def Launch.rcbase (l : Launch) : Nat := fieldLE l.lnr 0x20 8
def Launch.rcspan (l : Launch) : Nat := fieldLE l.lnr 0x28 4
def Launch.entry (l : Launch) : Nat := fieldLE l.lnr 0x30 4
def Launch.args (l : Launch) : Nat := fieldLE l.lnr 0x34 4
def Launch.fieldWord (l : Launch) (j : Nat) : Nat := fieldLE l.lnr (0x40 + 8 * j) 8
def Launch.dep (l : Launch) (i : Nat) : Nat := fieldLE l.lnr (0x70 + 8 * i) 8
def Launch.ringWord (l : Launch) (e : Nat) : Nat := fieldLE l.lnr (0x80 + 8 * e) 8
def Launch.regWord (l : Launch) (j : Nat) : Nat := fieldLE l.lnr (0xC0 + 16 * j) 16

/-- A frame region of a record: state offset, lines of a half, core, holder's item index. -/
structure RegSpec where
  off : Nat
  lines : Nat
  core : Nat
  holder : Nat
deriving DecidableEq, Repr

def Launch.reg (l : Launch) (j : Nat) : RegSpec :=
  let w := l.regWord j
  { off := bits w 0 22, lines := bits w 32 16, core := bits w 48 8, holder := bits w 64 32 }
def Launch.regs (l : Launch) : List RegSpec := (List.range l.nreg).map l.reg

/-! ### Sub-cores of a launch (R263, R402) -/

/-- The sub-cores of a fen, in ascending global id. -/
def fenSubs (s : State) (fen : Nat) : List Nat := (fenCores s fen).flatMap fun c => (List.range 4).map (4 * c + ·)

/-- The cores whose regions an item holds; steps of a resident launch count by their step number. -/
def holderCores (l : Launch) (n : Nat) : List Nat := ((l.regs.filter (·.holder == n)).map (·.core)).eraseDups

/-- Where item n of a launch may go (R260, R263, R402). -/
def subsFor (s : State) (l : Launch) (n : Nat) : List Nat :=
  if l.fixed then [(l.pbase + n * l.pstride) % 384]
  else
    let all := fenSubs s l.fen
    let set := match holderCores l n with
      | c :: _ => all.filter fun g => coreNo g == c
      | [] => all
    if l.det then
      let x := randWord (BitVec.ofNat 64 l.seed) (BitVec.ofNat 64 n) (BitVec.allOnes 64)
      if set = [] then [] else [nth 0 set (x.toNat % set.length)]
    else set

/-- The placement set of a launch (R402). -/
def placementSet (s : State) (l : Launch) : List Nat :=
  if l.fixed then ((List.range (min 384 (itemCount l))).map fun n => (l.pbase + n * l.pstride) % 384).eraseDups else fenSubs s l.fen

/-- The smallest gang level of a launch (R257). -/
def gangLevel (l : Launch) : Option Nat := if l.res then none else [1, 2, 3, 4, 5, 6].find? fun v => isGangLevel l v

/-- Items of a gang that is placed in one act, or 1 for a launch without gangs (R257). -/
def gangSize (l : Launch) : Nat := match gangLevel l with | some v => blockOf l v | none => 1

/-! ### Checks of a record (R253, R254, R403) -/

/-- A field descriptor is well formed. -/
def fieldOk (w : Nat) : Bool :=
  let width := bits w 40 5 + 1
  bits w 38 2 == 0 && bits w 45 3 == 0 && bits w 49 15 == 0 && bits w 32 6 + width ≤ 64 && bits w 0 32 ≤ 2 ^ width

/-- The identifier bits of a field. -/
def fieldMask (w : Nat) : Nat := (2 ^ (bits w 40 5 + 1) - 1) * 2 ^ bits w 32 6

/-- Fields and IDBASE have no bit in common. -/
def disjointBits : List Nat → Bool
  | [] => true
  | m :: r => r.all (fun x => m &&& x == 0) && disjointBits r

/-- A dependence has no res0 bit set and names a queue of the fen (R259). -/
def depOk (s : State) (fen w : Nat) : Bool :=
  bits w 40 23 == 0 && (!bitAt w 63 || (queueOf s (bits w 32 8)).owner == some fen)

/-- A run of `n` program-area bytes from `a` in one slice of the fen; with LOCAL `a` is an offset (Table 15.1). -/
def programRun (s : State) (fen : Nat) (loc : Bool) (a n : Nat) : Bool :=
  if loc then a + n ≤ 0x59_0000
  else (fenCores s fen).contains (a / 0x80_0000) && a % 0x80_0000 + n ≤ 0x59_0000

/-- An engine ring of a record is well formed. -/
def engineRingOk (s : State) (l : Launch) (w : Nat) : Bool :=
  let count := bits w 32 16
  bits w 49 15 == 0 && 1 ≤ count && count ≤ 4096 && bits w 0 32 % 16 == 0 && programRun s l.fen l.local (bits w 0 32) (16 * count)

/-- Every byte of a part of a record is zero. -/
def zeroBytes (l : Launch) (off n : Nat) : Bool := fieldLE l.lnr off n == 0

/-- A frame region of a record could be made, and its holder's item can stand on its core. -/
def regOk (s : State) (l : Launch) (j : Nat) : Bool :=
  let w := l.regWord j
  let r := l.reg j
  bits w 22 10 == 0 && bits w 56 8 == 0 && bits w 96 32 == 0 && 1 ≤ r.lines && r.lines ≤ 49152 && r.off % 64 == 0 &&
  r.off + 128 * r.lines ≤ 0x30_0000 && r.holder < itemCount l && (fenCores s l.fen).contains r.core &&
  (holderCores l r.holder).length ≤ 1 && (!l.fixed || coreNo ((l.pbase + r.holder * l.pstride) % 384) == r.core) &&
  !((List.range j).any fun i => let q := l.reg i; q.core == r.core && r.off < q.off + 128 * q.lines && q.off < r.off + 128 * r.lines)

/-- No two items of a gang go to one sub-core (R254). -/
def gangOk (s : State) (l : Launch) : Bool :=
  match gangLevel l with
  | none => true
  | some v =>
    let b := blockOf l v
    itemCount l == 0 ||
    (b ≤ (placementSet s l).length &&
     (!l.fixed || (((List.range b).map fun n => n * l.pstride % 384).eraseDups).length == b) &&
     (!l.det || l.fixed || (List.range (itemCount l / b)).all fun q =>
        (((List.range b).flatMap fun i => subsFor s l (q * b + i)).eraseDups).length == b))

/-- A loop-nest record passes the checks of R254. -/
def lnrOk (s : State) (l : Launch) : Bool :=
  let nf := fieldCount l
  let fs := (List.range nf).map l.fieldWord
  l.format == 1 && l.res0 && bits (fieldLE l.lnr 0x03 1) 4 4 == 0 && bits l.gang 6 2 == 0 && zeroBytes l 0x0E 2 && zeroBytes l 0x2C 4 &&
  zeroBytes l 0x38 8 && 1 ≤ nf && nf ≤ 6 && fieldLE l.lnr 0x05 1 ≤ 1 && l.pstride ≤ 383 && l.pbase ≤ 383 &&
  (if l.res then 1 ≤ l.resn && l.resn ≤ 384 else l.resn == 0) && l.nout ≤ 4 && l.nreg ≤ 4 &&
  zeroBytes l (0x40 + 8 * nf) (8 * (6 - nf)) && zeroBytes l (0xA0 + 8 * l.nout) (8 * (4 - l.nout)) &&
  zeroBytes l (0xC0 + 16 * l.nreg) (16 * (4 - l.nreg)) &&
  fs.all fieldOk && disjointBits (fieldLE l.lnr 0x10 8 :: fs.map fieldMask) &&
  !(l.res && l.gang != 0) && l.gang < 2 ^ nf && !(l.res && l.fixed) &&
  (!l.fixed || (placementSet s l).all fun g => (fenCores s l.fen).contains (coreNo g)) &&
  gangOk s l && depOk s l.fen (l.dep 0) && depOk s l.fen (l.dep 1) && (List.range l.nreg).all (regOk s l) &&
  l.entry % 4 == 0 && (List.range 4).all fun e => engineRingOk s l (l.ringWord e)

/-- A copy of a copy record: source, destination, length, flag word (Table 24.13). -/
def Launch.copyOf (l : Launch) (i : Nat) : Nat × Nat × Nat × Nat :=
  (fieldLE l.lnr (0x80 + 32 * i) 8, fieldLE l.lnr (0x88 + 32 * i) 8, fieldLE l.lnr (0x90 + 32 * i) 4, fieldLE l.lnr (0x94 + 32 * i) 4)
def Launch.ncopy (l : Launch) : Nat := fieldLE l.lnr 0x02 1

/-- One end of a copy is well formed. -/
def copyEndOk (s : State) (fen : Nat) (scr : Bool) (a n : Nat) : Bool :=
  a % 64 == 0 && (if scr then a / 0x80_0000 < 96 && programRun s fen false a n else a < 2 ^ 56)

/-- A copy record passes the checks of R403. -/
def copyOk (s : State) (l : Launch) : Bool :=
  l.res0 && 1 ≤ l.ncopy && l.ncopy ≤ 4 && zeroBytes l 0x03 (0x70 - 0x03) && depOk s l.fen (l.dep 0) && depOk s l.fen (l.dep 1) &&
  zeroBytes l (0x80 + 32 * l.ncopy) (32 * (4 - l.ncopy)) &&
  (List.range l.ncopy).all fun i =>
    let (src, dst, n, w) := l.copyOf i
    w < 4 && zeroBytes l (0x98 + 32 * i) 8 && n % 64 == 0 && 64 ≤ n && copyEndOk s l.fen (bitAt w 0) src n && copyEndOk s l.fen (bitAt w 1) dst n

/-- The record of a launch passes its checks. -/
def recordOk (s : State) (l : Launch) : Bool := if l.isCopy then copyOk s l else lnrOk s l

/-- The launch that a queue has next to start: the first that has not started. -/
def headLaunch (s : State) (q : Nat) : Option Launch := (queueOf s q).launches.find? fun l => l.st == .queued || l.st == .refused

/-- The walker checks the record of a queue's head launch once (R254). -/
def checkHead (s : State) (q : Nat) : State :=
  match headLaunch s q with
  | some l => if l.checked then s else modLaunch s l.lid fun x => { x with checked := true, st := if recordOk s l then .queued else .refused }
  | none => s

/-! ### Dependences and starting (R259) -/

/-- Steps or items of a launch; none where an EXTENT is 0 (R258). -/
def Launch.total (l : Launch) : Nat := if l.isCopy then 0 else if l.res then min l.resn (l.resn * itemCount l) else itemCount l

/-- A launch has finished enumerating (R256, R265). -/
def finishedEnum (l : Launch) : Bool := (l.st == .started) && l.redo == [] && l.total ≤ l.next

/-- A dependence is met (R259). -/
def depMet (s : State) (w : Nat) : Bool :=
  !bitAt w 63 || (((queueOf s (bits w 32 8)).qdone.toNat + 2 ^ 32 - bits w 0 32) % 2 ^ 32 < 2 ^ 31)

/-- The previous launch of a launch's queue has completed. -/
def prevCompleted (s : State) (l : Launch) : Bool := (findLaunch s l.prev).isNone

/-- The previous launch lets this one start: with OVERLAP when it has finished enumerating, and a copy record when it has completed,
so that every later launch of the queue sees the copied bytes (R403). -/
def prevPassed (s : State) (l : Launch) : Bool :=
  match findLaunch s l.prev with
  | none => true
  | some (_, p) => l.overlap && !p.isCopy && (finishedEnum p || (match p.st with
    | .ending _ c _ => c != causeCode .badlnr && p.redo == [] && p.total ≤ p.next
    | _ => false))

/-- The regions that a launch makes when it starts: the session sequencer has made those of its plans (R282). -/
def Launch.startRegs (l : Launch) : List (RegSpec × Nat) := if l.isCopy then [] else l.regs.zipIdx.drop l.nplan

/-- The regions of a launch can be made now (R272). -/
def regionsFit (s : State) (l : Launch) : Bool :=
  l.startRegs.all fun (r, _) => regionFits (coreOf s r.core) r.off r.lines (l.startRegs.filter (·.1.core == r.core)).length

/-- A walker has capacity: one of the two may place in this clock, one act every 2 clocks (R259, R262; DEDUCED, log 97). -/
def mayPlace (s : State) (die : Nat) : Bool :=
  match (dieOf s die).placedAt with
  | some t => t + 2 ≤ s.clock
  | none => true

/-- A queue holds a launch that has ended and whose record the completion ring has no room for (R389). -/
def ringFull (q : LQueue) : Bool := q.csize ≠ 0#13 && q.csize.toNat ≤ (q.ctail - q.chead).toNat
def blocked (q : LQueue) : Bool := ringFull q && q.launches.any fun l => match l.st with | .ending .. => true | _ => false

/-- The launch that a queue can start now. -/
def startable (s : State) (q : Nat) : Option Launch :=
  match headLaunch s q with
  | some l =>
    if l.checked && l.st == .queued && depMet s (l.dep 0) && depMet s (l.dep 1) && prevPassed s l && regionsFit s l &&
       (mayPlace s 0 || mayPlace s 1) && !blocked (queueOf s q) then some l else none
  | none => none

/-- A launch's budget starts, if it has not (R379). -/
def startBudget (s : State) (l : Launch) : State :=
  modLaunch s l.lid fun x => if x.budget.isSome then x else { x with budget := some (s.clock, (queueOf s l.queue).budget) }

/-- Intervals [a, a + m) and [b, b + n) of counters modulo 2^64 meet (R383). -/
def circleMeets (a m b n : Nat) : Bool :=
  0 < m && 0 < n && (m ≥ 2 ^ 64 || n ≥ 2 ^ 64 || (b + 2 ^ 64 - a) % 2 ^ 64 < m || (a + 2 ^ 64 - b) % 2 ^ 64 < n)

/-- Every launch of the package with its queue number. -/
def allLaunches (s : State) : List Launch := s.queues.flatMap fun (q, _) => (queueOf s q).launches

/-- Launches of the fen, started and uncompleted, whose declared range meets this one's (R383). -/
def overlapping (s : State) (l : Launch) : List Launch :=
  if l.isCopy || l.rcspan = 0 then []
  else (allLaunches s).filter fun x =>
    x.lid ≠ l.lid && x.fen = l.fen && !x.isCopy && x.rcspan ≠ 0 && x.seed = l.seed && x.begun &&
    circleMeets l.rcbase (itemCount l * l.rcspan) x.rcbase (itemCount x * x.rcspan)

/-- A launch starts. -/
def startLaunch (s : State) (l : Launch) : State :=
  let o := (fenOf s l.fen).ol
  let s := modOl s l.fen fun o => { o with tags := o.tags + 1 }
  let hits := overlapping s l
  let s := modLaunch s l.lid fun x => { x with st := .started, begun := true, tag := o.tags % 65536, olmode := o.mode, randovl := x.randovl || hits ≠ [] }
  let s := hits.foldl (fun s h => modLaunch s h.lid fun x => { x with randovl := true }) s
  let s := countEv s l.fen 0xFF 16 hits.length
  let s := startBudget s l
  let s := if o.mode = 2#2 then olLoad s (launchOf s l.lid) else s
  l.startRegs.foldl (fun s (r, j) =>
    makeRegion s r.core { off := r.off, lines := r.lines, act := [], dirty := [], lid := l.lid, holder := r.holder, j,
                          batch := l.batch.map fun (m, z) => (l.fen, m, z) }) s

/-- LAUNCH_START: a queue starts its head launch when its record has passed, its dependences are met, the launch before it lets
it, and its regions fit. (R259, R272, R363, R379, R383) -/
def execLaunchStart (q : Nat) (s : State) : Host.Outcome State Fault Refusal :=
  if 256 ≤ q then .fault .noSuchObject
  else
    let s := checkHead s q
    .next (match startable s q with
      | some l => startLaunch s l
      | none => s)

/-- REFUSED_LAUNCH: a refused record ends with BADLNR once the launch before it has completed. (R254) -/
def execRefusedLaunch (q : Nat) (s : State) : Host.Outcome State Fault Refusal :=
  if 256 ≤ q then .fault .noSuchObject
  else
    let s := checkHead s q
    .next (match headLaunch s q with
      | some l =>
        if l.st == .refused && prevCompleted s l then
          modLaunch s l.lid fun x => { x with st := .ending 1 (causeCode .badlnr) 0#64 }
        else s
      | none => s)

/-! ### Step contexts (R255, R265) -/

/-- The engine ring descriptor of RING e on a core (R255). -/
def engineRing (l : Launch) (core e : Nat) : Ring :=
  let w := l.ringWord e
  let base := bits w 0 32 + if l.local then core * 0x80_0000 else 0
  { kind := if bitAt w 48 then 3#2 else 2#2, ssz := 4#4, count := BitVec.ofNat 16 (bits w 32 16), base := BitVec.ofNat 32 base }

/-- The values of the fields of item n, field 1 first (R256). -/
def fieldValues (l : Launch) (n : Nat) : List Nat :=
  (List.range (fieldCount l)).map fun j =>
    let p := if fieldExtent l j = 0 then 0 else n / blockOf l (j + 1) % fieldExtent l j
    if bitAt (l.fieldWord j) 48 then fieldExtent l j - 1 - p else p

/-- The work identifier of item n: IDBASE and every field's value at its place (R255). -/
def workId (l : Launch) (n : Nat) : Word :=
  BitVec.ofNat 64 ((fieldValues l n).zipIdx.foldl (fun a (v, j) => a ||| (v <<< bits (l.fieldWord j) 32 6)) (fieldLE l.lnr 0x10 8))

/-- The context of a step at its first instruction (R255, R265). -/
def stepCtx (s : State) (l : Launch) (g cid n lo hi : Nat) (pre : Bool) (thresh : Nat) : Ctx :=
  let k := coreNo g
  let off := if l.local then k * 0x80_0000 else 0
  let st : StepCtx := { lid := l.lid, item := n, resident := l.res, lo, hi, base := lo, preempting := pre, thresh }
  let ids := if l.res then [] else ((fieldValues l n).zipIdx 1).map (fun (v, j) => (j, BitVec.ofNat 64 v)) ++ [(7, workId l n)]
  let c := startCtx s g cid (ids ++ [(8, BitVec.ofNat 64 (l.args + off))])
  let rings := [0, 1, 2, 3].map fun e => engineRing l k e
  let engs := (0, { stopped := false, pc := l.entry + off }) ::
    (rings.zipIdx 1).map fun (r, e) => (e, { stopped := false, pc := r.base.toNat })
  { c with eng := engs, rndseed := BitVec.ofNat 64 l.seed,
           rndctr := BitVec.ofNat 64 (l.rcbase + (if l.res then lo else n) * l.rcspan), erings := rings, step := some st }

/-- The range of resident step k (R265). -/
def residentRange (l : Launch) (k : Nat) : Nat × Nat :=
  (k * itemCount l / max 1 l.resn, (k + 1) * itemCount l / max 1 l.resn)

/-! ### Ending steps (R23, R219, R261, R344) -/

/-- Entries left in the queues of a context. -/
def entriesLeft (c : Ctx) : Nat :=
  ((List.range 7).map fun q => (queueOfCtx c q).length).foldl (· + ·) 0 + c.mf.length + c.sq.length + c.ingress.length

/-- Bytes of one extension of a queue: q0–q5, bq (6), mf, sq and the ring ingress queue (Table 15.7). -/
def extBytes (q : Nat) : Nat := if q < 6 then 128 else if q = 6 then 8 else if q < 10 then 2048 else 256

/-- Bytes that the Mere has lent to the queues of a context. -/
def lentTo (c : Ctx) : Nat := c.qext.foldl (fun a (q, n) => a + n * extBytes q) 0 + c.erings.foldl (fun a r => a + r.ext * 256) 0

/-- Bytes return to the Mere of a die (R298). -/
def mereBack (s : State) (die fen n : Nat) : State := if n = 0 then s else modDie s die fun d => { d with mere := tmod 0 d.mere fen (· - n) }

/-- A context's queues are discarded: their entries count in QLEFT and their extensions return (R23, R298). -/
def dropQueues (s : State) (g : Nat) (c : Ctx) (active : Bool) : State :=
  let k := coreNo g
  let fen := (coreOf s k).fen
  let rings := if active then [1, 2, 3, 4].map fun e => engRing g e else []
  let ext := rings.foldl (fun a b => a + (ringOf s k b).ext * 256) 0
  let s := mereBack (count s fen cntQleft (entriesLeft c)) (dieNo k) fen (lentTo c + ext)
  rings.foldl (fun s b => setRing s k b { ringOf s k b with ext := 0, extSlots := [] }) s

/-- What the end of a step leaves of its context while its operations run on (R344): the queues, the captured results and the
unpublished shadow lines are discarded. -/
def endedCtx (c : Ctx) : Ctx :=
  { endCtx c with q := [], qext := [], mf := [], sq := [], ingress := [], ifqS := [], ifqV := [], mreq := none, sreq := none,
                  eng := c.eng.map (fun (e, x) => (e, { x with pipe := [], wait := none, held := [], dly := 0 })),
                  erings := c.erings.map fun r => { r with ext := 0, extSlots := [] },
                  step := (endCtx c).step.map fun st => { st with shadow := [] } }

/-- Bytes of begun records and accepted commands of a context that read its unpublished shadow lines read them as they stood
when they began (R344): those records keep the lines. -/
def keepsShadow (s : State) (g cid : Nat) : Bool :=
  s.xfers.any (fun x => x.cid == cid && x.begun) || (coreOf s (coreNo g)).mcmds.any (·.cid == cid) ||
  (coreOf s (coreNo g)).scmds.any (·.cid == cid)

/-- End the step of one context at once: no engine issues again (R344). -/
def endStepAt (s : State) (g bank : Nat) : State :=
  let c := ctxAt s g bank
  let s := flushMine s g c.cid (BitVec.allOnes 16)
  let s := dropQueues s g c (bank == 0)
  let s := if bank = 0 then dropGrants s g else s
  let s := modCore s (coreNo g) fun k => { k with waits := k.waits.filter (·.cid != c.cid) }
  let e := endedCtx c
  let e := if keepsShadow s g c.cid then { e with step := e.step.map fun st => { st with shadow := (c.step.map (·.shadow)).getD [] } } else e
  let s := { s with xfers := (s.xfers.filter (fun x => x.cid != c.cid || x.begun)).map (fun x =>
                      if x.cid == c.cid then { x with fault := none, pended := false } else x),
                    accs := s.accs.filter fun a => !(a.cid == c.cid && a.held.isSome) }
  setCtxAt s g bank e

/-- An ended context whose operations have all gone (R266). -/
def gone (s : State) (g : Nat) (c : Ctx) : Bool :=
  (match c.step with | some st => st.ended | none => false) && workDone s g c.cid

/-- A context whose step has ended: no step runs in it and its queues are empty; its registers, tokens and loop counters stay
as the step left them, and results still in its pipelines land (R219, R227). -/
def doneCtx (c : Ctx) : Ctx :=
  { c with q := [], qext := [], mf := [], sq := [], ingress := [], ifqS := [], ifqV := [], mreq := none, sreq := none,
           erings := [], step := none }

/-- Free the banks of a sub-core whose steps have ended and whose work has gone (R266, R343). A service context goes with the
step that it serves (R342). -/
def reap (s : State) (g : Nat) : State :=
  let b := subOf s g
  let spilledGone := match b.spilled with | some c => gone s g c | none => false
  let s := if spilledGone then modSub s g fun b => { b with spilled := none, shb := if b.shb = 3#2 then 0#2 else b.shb } else s
  let b := subOf s g
  if b.act.svc && (match victimStep b with | some st => st.ended | none => true) then
    if workDone s g b.act.cid && (b.shd.step.isNone || gone s g b.shd) then
      let s := modCore s (coreNo g) fun k => { k with waits := k.waits.filter (·.cid != b.act.cid) }
      setSub s g { b with act := {}, shd := {}, shb := if b.spilled.isSome then 3#2 else 0#2,
                          spillLeft := if b.spilled.isSome then imageLines else 0, swapAsk := false }
    else s
  else
    let s := if gone s g b.act then modSub s g fun b => { b with act := doneCtx b.act, swapAsk := false } else s
    if gone s g (subOf s g).shd && (subOf s g).shb ≠ 3#2 then modSub s g fun b => { b with shd := {}, shb := 0#2, spillLeft := 0 } else s

/-- End every step of a launch (R266, R344). The unpublished lines of its regions go when it completes: its begun records and accepted
commands still read them. -/
def endSteps (s : State) (lid : Nat) : State :=
  (contextsOf s lid).foldl (fun s (g, bank, _) => endStepAt s g bank) s

/-! ### Step instructions -/

/-- In replay, a steal from a resident step is listed at the index where its range stands now: the WGET that would pass it waits for the
steal (R365). -/
def stealListed (s : State) (l : Launch) (st : StepCtx) : Bool :=
  l.olmode = 2#2 &&
  (match (fenOf s l.fen).ol.places.find? (·.same { olPlace 4 0 0 with tag := l.tag }) with
   | some p => (stealPairs p.decs).any fun (a, lo) => bits a.toNat 32 32 == st.item && lo.toNat == st.lo
   | none => false)

/-- WGET: the next index of a resident step's range, or all ones. In replay it waits, as a lost bank does, where its range is to
be split at that index. (R216, R365) -/
def execWget (d : BitVec 6) (s : State) : Host.Outcome State Fault Refusal :=
  .next (match (curCtx s).step with
    | some st =>
      if st.resident && st.lo < st.hi then
        let l := launchOf s st.lid
        if stealListed s l st then freeze (olHold s l.fen (2 * (5 * s.cur.g) + 1))
        else
          let s := modCur s fun c => { c with step := c.step.map fun x => { x with lo := x.lo + 1 } }
          land s 2 (.s d.toNat) ⟨BitVec.ofNat 64 st.lo, none⟩
      else land s 2 (.s d.toNat) ⟨BitVec.allOnes 64, none⟩
    | none => land s 2 (.s d.toNat) ⟨BitVec.allOnes 64, none⟩)

/-- WSTEAL: half of a victim's range; the wait for the reply is not a freeze. (R217) -/
def execWsteal (d a : BitVec 6) (s : State) : Host.Outcome State Fault Refusal :=
  let v := rdS (curCtx s) a.toNat
  .next (consume s [v] fun s =>
    if 383 < v.w.toNat then land s 1 (.s d.toNat) ⟨0#64, none⟩
    else match heldWord s with
      | some r => land s 1 (.s d.toNat) ⟨r, none⟩
      | none => waitOn s (.steal v.w s.clock))

/-- WBAR: waits for every member of the gang at a gang level; any other level traps. (R218) -/
def execWbar (n : BitVec 6) (s : State) : Host.Outcome State Fault Refusal :=
  let c := curCtx s
  let l := launchOf s (lidOf c)
  .next (if c.step.isNone || !isGangLevel l n.toNat then trapWith s .badwbar
    else if wbarMet (beforeGroup s) s.cur.g n.toNat then
      modCur s fun c => { c with step := c.step.map fun st =>
        { st with arrived := none, episodes := tmod 0 st.episodes n.toNat (· + 1) } }
    else waitOn s (.wbar n.toNat))

/-- The step of the executing context ends normally (R219). -/
def finishStep (s : State) (st : StepCtx) : State :=
  let g := s.cur.g
  let s := publish s g (curCtx s).cid publishAll
  let s := dropQueues (dropGrants s g) g (curCtx s) true
  let s := count s (curFen s) cntSteps 1
  let s := modLaunch s st.lid fun l => { l with steps := l.steps + 1, live := l.live - 1, doneItems := l.doneItems ++ [st.item] }
  modCtx s g doneCtx

/-- WDONE: ends the step once its engines, accesses, records, commands and reductions are done; a pending store error traps. In a
service context, which runs no step, it holds issue for the same and then has no further effect (log 31). (R123, R219) -/
def execWdone (s : State) : Host.Outcome State Fault Refusal :=
  .next (if (curCtx s).step.isNone && !(curCtx s).svc || (curCtx s).step.any (·.ended) then s
    else if pendingErrors (curCtx s) ≠ 0#16 then trapWith s .memerr
    else if !waitMet (beforeGroup s) s.cur.g s.cur.e .wdone then waitOn s .wdone
    else if !workDone s s.cur.g (curCtx s).cid then { s with cur := { s.cur with next := s.cur.addr, again := true } }
    else match (curCtx s).step with
      | none => s
      | some st => finishStep s st)

/-- Append a record to a launch queue (R220, R388): the launch's number and the state. -/
def appendLaunch (s : State) (fen q : Nat) (lnr : List Byte) (stamp : BitVec 16) (res0 : Bool) (waiter : Option (Nat × Nat))
    (batch : Option (Nat × Nat)) (lid : Nat) : State :=
  modQueue s q fun x =>
    let prev := match x.launches.getLast? with | some p => p.lid | none => 0
    { x with launches := x.launches ++ [{ lid, fen, queue := q, lnr, stamp, res0, waiter, batch, prev }] }

/-- LNCH: appends the record at a scratch address to a launch queue, after every earlier access of the sub-core. (R220) -/
def execLnch (a b : BitVec 6) (s : State) : Host.Outcome State Fault Refusal :=
  let c := curCtx s
  let x := rdS c a.toNat
  let y := rdS c b.toNat
  let a := x.w.toNat
  let err := scratchError s s.cur.g a 256
  let check := if err.isSome || badView s c.cid (.scratch a) 256 then some Cause.memerr else alignCheck a 64
  let log := fun (s : State) => match err with | some r => errorResponse s 0 a r 0 | none => s
  .next (consumeWith s [x, y] (checkOn [x] check) log fun s =>
      if 255 < y.w.toNat || (queueOf s y.w.toNat).owner ≠ some (curFen s) then trapWith s .badq
      else if waitMet (beforeGroup s) s.cur.g s.cur.e (.lnch y.w.toNat) then
        let (lid, s) := freshId s
        appendLaunch s (curFen s) y.w.toNat (readView s c.cid (.scratch a) 256) 0#16 true
          (if s.cur.pfx.t then some (c.cid, s.cur.pfx.token) else none) none lid
      else waitOn s (.lnch y.w.toNat))

/-! ### Withdrawal (R261, R373) -/

/-- The step in the active bank of a sub-core may be withdrawn: unpublished, no region held, neither placed by pre-emption nor
displaced by one (R373). -/
def withdrawable (s : State) (g bank : Nat) : Bool :=
  bank == 0 && (subOf s g).swapLeft == 0 && (coreOf s (coreNo g)).st == .leaving &&
  (match (ctxOf s g).step with
   | some st => !st.ended && !st.published && !st.preempting && !st.displaced && !(ctxOf s g).svc && (holderCores (launchOf s st.lid) st.item) == [] &&
       (match (launchOf s st.lid).st with | .started => true | _ => false)
   | none => false)

/-- WITHDRAWAL: the walker takes an unpublished step off a leaving core; its shadows are discarded and its item is placed again
later, a resident step with its range from where it stood when placed or last given one. (R261, R373) -/
def execWithdrawal (g bank : Nat) (s : State) : Host.Outcome State Fault Refusal :=
  if 384 ≤ g then .fault .noSuchObject
  else .next (if withdrawable s g bank then
      match (ctxOf s g).step with
      | some st =>
        let s := modLaunch s st.lid fun l => { l with live := l.live - 1, redo := l.redo ++ [(st.item, st.base, st.hi)] }
        endStepAt s g 0
      | none => s
    else s)

/-! ### The end of a launch (R266, R267, R389) -/

/-- A started launch has nothing left to do. -/
def finished (l : Launch) : Bool := finishedEnum l && l.live == 0 && (!l.isCopy || l.copied)

/-- LAUNCH_END: a launch whose steps have all reported ends normally; one ended by a fault or by its watchdog has its running
steps ended, which discards what they have not published. (R266, R344) -/
def execLaunchEnd (lid : Nat) (s : State) : Host.Outcome State Fault Refusal :=
  .next (match findLaunch s lid with
    | none => s
    | some (_, l) =>
      match l.st with
      | .started => if finished l then modLaunch s lid fun l => { l with st := .ending 0 0 0#64 } else s
      | .ending .. => endSteps s lid
      | _ => s)

/-- WATCHDOG_EXPIRY: a launch whose budget has expired ends with STATUS 2, and its running steps end with it. (R266, R379) -/
def execWatchdogExpiry (lid : Nat) (s : State) : Host.Outcome State Fault Refusal :=
  .next (match findLaunch s lid with
    | none => s
    | some (_, l) =>
      match l.budget, l.st with
      | some _, .ending .. => s
      | some (t, b), _ =>
        if t + 1000 * b < s.clock && !finished l then
          endSteps (countEv (modLaunch s lid fun l => { l with st := .ending 2 (causeCode .watchdog) 0#64 }) l.fen 0xFF 15 1) lid
        else s
      | none, _ => s)

/-- Bytes of the digest's ranges: scratch address or virtual address and length (R367, R403). -/
def digestRanges (l : Launch) : List (Bool × Nat × Nat) :=
  if l.isCopy then (List.range l.ncopy).map fun i => let (_, dst, n, w) := l.copyOf i; (bitAt w 1, dst, n)
  else (outRanges l).map fun (a, n) => (true, a, n)

/-- A scratch line is reached by a walker of the fen (R26, R27): the reason of the error response, if not (Table 18.5). -/
def walkerReach (s : State) (fen a n : Nat) : Option Nat :=
  if !inFen s fen (a / 0x80_0000) then some 3
  else if a % 0x80_0000 + n ≤ 0x59_0000 then none
  else if a % 0x80_0000 < 0x5D_0000 then some 2 else some 1

/-- One piece of a digest range, as it stands at its home: its bytes, or where the error response came from. A virtual range is the
destination of a copy, whose pages have been checked for write (R403). -/
def digestPiece (s : State) (fen : Nat) (scr : Bool) (a n : Nat) : Except (Nat × Nat) (List Byte) :=
  if scr then
    match walkerReach s fen a n with
    | some r => .error (a, r)
    | none => if poisoned s (.scratch a) n then .error (a, 8) else .ok (readHome s (.scratch a) n)
  else match translateVa s fen a true false with
    | some pa => if poisoned s (.phys pa) n then .error (a, 8) else .ok (readHome s (.phys pa) n)
    | none => .error (a, 3)

/-- Banks that the walker's digest reads take, as mesh arrivals: one line of each bank of a range, in the clock of the completion (R238, R367;
log 11). -/
def digestNeeds (l : Launch) : List Need :=
  (digestRanges l).filterMap fun (scr, a, n) => if scr && n ≠ 0 then some (a / 0x80_0000, 16 * l.lid + 4, banksIn (.scratch a) n) else none

/-- The result digest: the value, its validity, and the state with the violation record of an error response (R367). -/
def digest (s : State) (l : Launch) : Word × Bool × State :=
  let run := (digestRanges l).foldl (fun o (scr, a, n) => (pieces 64 a n).foldl (fun o (a, n) => do
    let c ← o
    let bs ← (match digestPiece s l.fen scr a n with | .ok b => Except.ok b | .error e => Except.error (scr, e))
    Except.ok (crcRun c bs)) o) (Except.ok (BitVec.allOnes 64) : Except (Bool × Nat × Nat) Word)
  match run with
  | .ok c => (c ^^^ BitVec.allOnes 64, true, s)
  | .error (scr, a, r) => (0#64, false, logViolation s l.fen (if scr then 0 else 2) a r 6 0 0)

/-- The 32 bytes of a completion record (Table 12.2). -/
def completionBytes (l : Launch) (status cause : Nat) (item qdone dig : Word) (digv : Bool) : List Byte :=
  leBytes 2 l.stamp.toNat ++ leBytes 1 status ++ leBytes 1 cause ++ leBytes 4 qdone.toNat ++ leBytes 8 item.toNat ++
  leBytes 8 dig.toNat ++ leBytes 4 l.steps ++ leBytes 4 (bnat l.randovl * 2 + bnat digv)

/-- Host memory at a host address (R315). -/
def hostLoc (a : Nat) : Loc := .phys (2 ^ 51 + a % 2 ^ 51)

/-- Send an MSI-X message of a fen: to each of its VFs (R389, R390). -/
def sendMsix (s : State) (fen : Nat) (v : BitVec 11) : State :=
  if v = 0x7FF#11 then s
  else
    let vfs := (List.range 64).filter fun i => (fenOf s fen).vfs.getLsbD i
    { s with svc := { s.svc with msix := s.svc.msix ++ vfs.map fun i => (i + 1, v.toNat) } }

/-- Every step of a launch has gone, and so has its work. -/
def settled (s : State) (l : Launch) : Bool := contextsOf s l.lid == []

/-- The first launch of a queue that has ended, with nothing of it left. -/
def completable (s : State) (q : Nat) : Option Launch :=
  if ringFull (queueOf s q) then none
  else (queueOf s q).launches.find? fun l => (match l.st with | .ending .. => true | _ => false) && settled s l

/-- Entries that still wait in a link for a bank of an ended launch are discarded, and count in QLEFT (R344). -/
def dropLinks (s : State) (lid : Nat) : State :=
  let mine := fun (m : RingMsg) => m.lid == lid && !m.peer
  (s.ring.filter mine).foldl (fun s m => count s m.fen cntQleft 1) { s with ring := s.ring.filter fun m => !mine m }

/-- Complete a launch: digest, order log, regions, record, QDONE, token (R267, R364, R367, R389). -/
def completeLaunch (s : State) (q : Nat) (l : Launch) (status cause : Nat) (item : Word) : State :=
  let s := discardDirty (dropLinks (olFlush s l) l.lid) l.lid none
  let (dig, digv, s) := if status = 0 then digest s l else (0#64, false, s)
  let mine := s.cores.flatMap fun (k, c) => (c.regions.filter fun r => r.lid == l.lid && r.batch.isNone).map fun r => (k, r)
  let s := mine.foldl (fun s (k, r) => releaseRegion s k r) s
  let x := queueOf s q
  let qdone := x.qdone + 1#32
  let s := if x.csize = 0#13 then s
    else
      let s := writeHome s (hostLoc (x.cbase.toNat + 32 * (x.ctail.toNat % x.csize.toNat)))
        (completionBytes l status cause item (qdone.setWidth 64) dig digv)
      sendMsix (modQueue s q fun x => { x with ctail := x.ctail + 1#32 }) l.fen x.msiv
  let s := modQueue s q fun x => { x with qdone, launches := x.launches.filter (·.lid != l.lid) }
  let s := match l.waiter with
    | some (cid, t) => raiseTok s cid t 1 (if status = 0 then 0#32 else stFaulted)
    | none => s
  let s := { s with batches := s.batches.map fun b => if b.lid = l.lid then { b with status := some status } else b }
  countEv s l.fen 0xFF 17 1

/-- COMPLETION_RECORD: the walker writes the record of an ended launch when the completion ring has room, then QDONE rises and
the token of its LNCH. (R267, R389) -/
def execCompletionRecord (q : Nat) (s : State) : Host.Outcome State Fault Refusal :=
  if 256 ≤ q then .fault .noSuchObject
  else .next (match completable s q with
    | some l =>
      (match l.st with
       | .ending status cause item =>
         let s := olFlush s l
         if (fenOf s l.fen).ol.out.any (·.1.tag == l.tag) then s
         else
           let (won, s) := if status = 0 then askBanks s (digestNeeds l) else (true, s)
           if won then completeLaunch s q l status cause item else s
       | _ => s)
    | none => s)

/-! ### Copy records (R403) -/

/-- The end of a copy that cannot go on: cause of the terminal fault, and the violation record of an error response. -/
def copyFault (s : State) (l : Launch) (c : Cause) (log : Option (Bool × Nat × Nat × Nat)) : State :=
  let s := match log with
    | some (scr, a, r, kind) => logViolation s l.fen (if scr then 0 else 2) a r 6 kind 0
    | none => s
  modLaunch s l.lid fun x => { x with st := .ending 1 (causeCode c) 0#64 }

/-- Place of one line of a copy, or why it has none (R403). -/
def copyPlace (s : State) (l : Launch) (scr : Bool) (a : Nat) (write : Bool) : Except (Cause × Option (Bool × Nat × Nat × Nat)) Loc :=
  if scr then
    match walkerReach s l.fen a 64 with
    | some r => .error (.memerr, some (true, a, r, bnat write))
    | none => .ok (.scratch a)
  else if a ≥ 2 ^ 56 || pageAbsent (fenOf s l.fen) a then .error (.notpresent, none)
  else match walkVa s l.fen a with
    | .none _ => .error (.notpresent, none)
    | .page base _ pa r w fo => if (if write then w && !fo else r) then .ok (.phys (pa + (a - base))) else .error (.perm, none)

/-- The copy and the line in it that a copy record does next: lines done so far count over all copies. -/
def copyCursor (l : Launch) : Nat → Nat → Option (Nat × Nat)
  | 0, _ => none
  | k + 1, done =>
    let i := l.ncopy - (k + 1)
    let n := (l.copyOf i).2.2.1 / 64
    if done < n then some (i, done) else copyCursor l k (done - n)

/-- Reads of the page tables for line `j` of a copy's end at `a`: the walkers keep the translation of the 4 KiB that they copy (R380; log
56). -/
def copyWalk (s : State) (l : Launch) (scr : Bool) (a j : Nat) : List (Nat × Nat) :=
  let va := a + 64 * j
  if scr || (j ≠ 0 && va % 4096 ≠ 0) then []
  else (walkAddrs s (fenOf s l.fen) va walkPlan (rootOf (fenOf s l.fen))).map fun p => (p, 8)

/-- The next line of a copy record: its source and its destination, each a scratch flag and an address, the reads of the page tables that it
takes, and where the line goes from and to, or why it cannot (R403). -/
structure CopyLine where
  src : Bool × Nat
  dst : Bool × Nat
  walks : List (Nat × Nat)
  ends : Except (Cause × Option (Bool × Nat × Nat × Nat)) (Loc × Loc)

/-- A copy's next line stands at its homes: an end that cannot be reached, an error response of the host's completer, or an uncorrectable
error of the source ends the copy (R401, R403). -/
def copyEnds (s : State) (l : Launch) (src dst : Bool × Nat) : Except (Cause × Option (Bool × Nat × Nat × Nat)) (Loc × Loc) := do
  let a ← copyPlace s l src.1 src.2 false
  let b ← copyPlace s l dst.1 dst.2 true
  if poisoned s a 64 || hostRefuses s a 64 then .error (.memerr, some (src.1, src.2, 8, 0))
  else if hostRefuses s b 64 then .error (.memerr, some (dst.1, dst.2, 8, 1))
  else .ok (a, b)

/-- The next line of a started copy record; none when every copy is done (R403). -/
def copyLineOf (s : State) (l : Launch) : Option CopyLine :=
  (copyCursor l l.ncopy l.copyAt).map fun (i, j) =>
    let (src, dst, _, w) := l.copyOf i
    let from_ := (bitAt w 0, src + 64 * j)
    let to_ := (bitAt w 1, dst + 64 * j)
    { src := from_, dst := to_, walks := copyWalk s l from_.1 src j ++ copyWalk s l to_.1 dst j, ends := copyEnds s l from_ to_ }

/-- Physical lines of a copy's end. -/
def physRun (l : Loc) : List (Nat × Nat) := match l with | .phys pa => [(pa, 64)] | _ => []

/-- What a copy's next line is to pass of the regulators: reads, with those of the page tables, and writes (R380). -/
def CopyLine.runs (c : CopyLine) : List (Nat × Nat) × List (Nat × Nat) :=
  match c.ends with
  | .ok (a, b) => (c.walks ++ physRun a, physRun b)
  | .error _ => (c.walks, [])

/-- Banks that a copy's next line takes at the homes of its scratch ends, as mesh arrivals (R238). -/
def CopyLine.needs (l : Launch) (c : CopyLine) : List Need :=
  match c.ends with
  | .ok (a, b) => [a, b].filterMap fun e => match e with | .scratch x => some (x / 0x80_0000, 16 * l.lid + 4, linesIn e 64) | _ => none
  | .error _ => []

/-- A copy's next line passes the regulators, or is held by one of them (R380). -/
def copyPays (s : State) (l : Launch) (c : CopyLine) : Option State :=
  (regulAll s l.fen 0 0xFF (8 * l.lid + 7) c.runs.1).bind fun s => regulAll s l.fen 1 0xFF (8 * l.lid + 7) c.runs.2

/-- COPY_RECORD: the next line of a started copy record, in order of the copies; when none is left the copies are done. (R380, R403) -/
def execCopyRecord (lid : Nat) (s : State) : Host.Outcome State Fault Refusal :=
  .next (match findLaunch s lid with
    | none => s
    | some (_, l) =>
      if !l.isCopy || l.st != .started || l.copied then s
      else match copyLineOf s l with
        | none => modLaunch s lid fun x => { x with copied := true }
        | some c =>
          let (won, s) := askBanks s (c.needs l)
          match if won then copyPays s l c else none with
          | none => s
          | some s =>
            match c.ends with
            | .error (e, log) => copyFault s l e log
            | .ok (a, b) =>
              let bs := readHome s a 64
              let s := match b with | .scratch d => writeScratchHome s d bs | b => writeHome s b bs
              modLaunch s lid fun x => { x with copyAt := x.copyAt + 1 })

/-! ### The Mere (R298, R299) -/

/-- A full queue or fed ring that holds an engine back: base capacity in bytes, sub-core that owns it, kind in the order of
Table 15.7, number, the engine's sub-core and engine, and where its extension goes (sub-core and bank, or core and descriptor). -/
structure Stuck where
  cap : Nat
  g : Nat
  row : Nat
  num : Nat
  e : Nat
  /-- sub-core, bank and queue of the queue that is full; queue 10 + b for a fed ring -/
  dest : Nat × Nat × Nat
deriving DecidableEq, Repr

/-- The full queues among those that a copy or a send waits for. -/
def stuckSends (s : State) (g : Nat) (c : Ctx) (e : Nat) (mf sq rx : Bool) : List Stuck :=
  let bank := match findCtx s c.cid with | some (_, b) => b | none => 0
  (if mf && bigCap c 7 ≤ c.mf.length then [{ cap := 16384, g, row := 3, num := 0, e, dest := (g, bank, 7) }] else []) ++
  (if sq && bigCap c 8 ≤ c.sq.length then [{ cap := 16384, g, row := 3, num := 1, e, dest := (g, bank, 8) }] else []) ++
  (if rx && !ringCredit s g c && !onPeerLink s (coreNo g) (coreOf s (coreNo g)).fen then
    let t := 4 * successor (coreNo g) + g % 4
    (match bankOfLaunch s t (lidOf c) with
     | some b => [{ cap := 4 * 2048, g, row := 4, num := 0, e, dest := (t, b, 9) }]
     | none => [])
   else [])

/-- The pushes of engine `e` of sub-core `g` that freeze it in this clock. -/
def stuckOf (s : State) (g e : Nat) : List Stuck :=
  let c := ctxOf s g
  let x := engOf c e
  let own := match x.pushTo with
    | some q =>
      if q < 10 then [{ cap := if q = 6 then 8 else 128, g, row := if q = 6 then 0 else 1, num := q, e, dest := (g, 0, q) }]
      else [{ cap := 16 * (ringOf s (coreNo g) (q - 10)).count.toNat, g, row := 2, num := q - 10, e, dest := (g, 0, q) }]
    | none => []
  let copies := if e = 1 then (x.pipe.filter (·.left = 0)).flatMap fun l => stuckSends s g c e l.mf l.sq l.rx else []
  let k := coreOf s (coreNo g)
  let sends := if e = 4 then ((k.mcmds ++ k.scmds).filter fun m => m.cid == c.cid && m.stuck && m.sends ≠ []).flatMap fun m =>
    stuckSends s g c e m.toMf m.toSq m.toRx else []
  own ++ copies ++ sends

/-- An engine neither runs nor could: frozen, in a wait, stopped, or without a step (R298). -/
def engineStalled (s : State) (g e : Nat) : Bool :=
  let c := ctxOf s g
  let x := engOf c e
  (c.step.isNone && !c.svc) || x.stopped || x.frozen || x.wait.isSome

/-- A core is stalled in this clock (R298). -/
def coreStalled (s : State) (k : Nat) : Bool :=
  let gs := (List.range 4).map (4 * k + ·)
  gs.all (fun g => [0, 1, 2, 3, 4].all (engineStalled s g)) && gs.any fun g => [0, 1, 2, 3, 4].any fun e => stuckOf s g e ≠ []

/-- The smaller of two full queues in the order of R298. -/
def stuckLe (a b : Stuck) : Bool :=
  a.cap < b.cap || (a.cap == b.cap && (a.g < b.g || (a.g == b.g && (a.row < b.row || (a.row == b.row && a.num ≤ b.num)))))

/-- MERE_EXTENSION: after 256 stalled clocks of a core the Mere lends one extension to the smallest full queue or fed ring that
a push waits for; past a limit the step's launch ends with MEREOUT. (R298, R299) -/
def execMereExtension (core : Nat) (s : State) : Host.Outcome State Fault Refusal :=
  if 96 ≤ core then .fault .noSuchObject
  else
    let all := ((List.range 4).map (4 * core + ·)).flatMap fun g => [0, 1, 2, 3, 4].flatMap fun e => stuckOf s g e
    .next (match sortBy stuckLe all with
      | [] => s
      | x :: _ =>
        if (coreOf s core).stall < 256 then s
        else
          let s := modCore s core fun c => { c with stall := 0 }
          let (g, bank, q) := x.dest
          let fen := (coreOf s core).fen
          let die := dieNo (coreNo g)
          let n := extBytes q
          let lent := (dieOf s die).mere
          if lent.foldl (fun a (_, b) => a + b) 0 + n > 65536 || tget 0 lent fen + n > 16384 then
            faultStep s (ctxOf s x.g).cid x.e .mereout
          else
            let s := modDie s die fun d => { d with mere := tmod 0 d.mere fen (· + n) }
            if q < 10 then setCtxAt s g bank (let c := ctxAt s g bank; { c with qext := tmod 0 c.qext q (· + 1) })
            else
              let r := ringOf s (coreNo g) (q - 10)
              setRing s (coreNo g) (q - 10) { r with ext := r.ext + 1 })

/-- Extensions of a queue of a context that hold no entry return to the Mere (R298). -/
def returnExts (s : State) (g bank : Nat) : State :=
  let c := ctxAt s g bank
  let k := coreNo g
  let len := fun (q : Nat) => if q < 7 then (queueOfCtx c q).length else if q = 7 then c.mf.length else if q = 8 then c.sq.length else c.ingress.length
  let base := fun (q : Nat) => if q < 6 then 16 else if q = 6 then 64 else if q = 9 then 4 else 8
  let unit := fun (q : Nat) => if q < 6 then 16 else if q = 6 then 64 else 1
  let need := fun (q n : Nat) => min n ((len q - base q + unit q - 1) / unit q)
  let back := c.qext.foldl (fun a (q, n) => a + (n - need q n) * extBytes q) 0
  if back = 0 then s
  else mereBack (setCtxAt s g bank { c with qext := c.qext.map fun (q, n) => (q, need q n) }) (dieNo k) (coreOf s k).fen back

end Sys2Proof.Machine
end

