-- ==== Sys2Proof/Machine/Sessions.lean ====
section
/-! DEFINITION. The session sequencer: session entries and their states (R277, R280), commands and events (R284, R285, R390), model
descriptors (R279), batches (R281, R282) and their failures (R283). -/

namespace Sys2Proof.Machine
open Sys2Proof

/-! ### Time, entries and events -/

/-- Time in µs (R280). -/
def nowUs (s : State) : Nat := s.clock / 1000

/-- Global number of a fen's session (R277). -/
def globalSess (s : State) (fen i : Nat) : Nat := (sessOf s fen).sessbase + i
def sessionOf (s : State) (fen i : Nat) : Session := tget {} s.sessions (globalSess s fen i)
def modSession (s : State) (fen i : Nat) (f : Session → Session) : State :=
  { s with sessions := tmod {} s.sessions (globalSess s fen i) f }
def modSess (s : State) (fen : Nat) (f : SessRegs → SessRegs) : State := modFen s fen fun x => { x with sess := f x.sess }

/-- The local numbers of a fen's sessions. -/
def fenSessions (s : State) (fen : Nat) : List Nat := List.range (sessOf s fen).sesscnt

/-- The buffered count (R277). -/
def Session.buffered (x : Session) : Nat := x.a - x.c

/-- Event codes (R284). -/
def evDone : Nat := 0
def evCrcerr : Nat := 1
def evLaunch : Nat := 2
def evNospace : Nat := 3
def evBadframe : Nat := 4
def evOverrun : Nat := 5
def evBadcmd : Nat := 6
def evBadmodel : Nat := 7
def evFrmerr : Nat := 8

/-- The 16 bytes of an event (R284). -/
def eventBytes (stamp : BitVec 16) (code sess : Nat) (value : Word) : List Byte :=
  leBytes 2 stamp.toNat ++ leBytes 1 code ++ leBytes 1 0 ++ leBytes 4 sess ++ leBytes 8 value.toNat

/-- The event ring has room (R390). -/
def eventRoom (r : SessRegs) : Bool := (r.sevtail - r.sevhead).toNat < r.sevsize.toNat

/-- Write an event to the ring (R390). -/
def writeEvent (s : State) (fen : Nat) (bs : List Byte) : State :=
  let r := sessOf s fen
  let s := writeHome s (hostLoc (r.sevbase.toNat + 16 * (r.sevtail.toNat % max 1 r.sevsize.toNat))) bs
  sendMsix (modSess s fen fun r => { r with sevtail := r.sevtail + 1#32 }) fen r.sevmsiv

/-- Post an event, or hold it while the ring is full (R390). -/
def postSess (s : State) (fen : Nat) (stamp : BitVec 16) (code sess : Nat) (value : Word) : State :=
  let bs := eventBytes stamp code sess value
  if eventRoom (sessOf s fen) && (sessOf s fen).heldEvents == [] then writeEvent s fen bs
  else modSess s fen fun r => { r with heldEvents := r.heldEvents ++ [bs] }

/-- Held events are posted as room appears (R390). -/
def postHeld (s : State) (fen : Nat) : State :=
  (sessOf s fen).heldEvents.foldl (fun s bs =>
    if eventRoom (sessOf s fen) then modSess (writeEvent s fen bs) fen fun r => { r with heldEvents := r.heldEvents.tail } else s) s

/-! ### Model descriptors (R279) -/

/-- A plan entry of a descriptor (Table 13.6). -/
structure Plan where
  foff : Nat
  len : Nat
  core : Nat
  offX : Nat
  offY : Nat
  res0 : Bool
deriving DecidableEq, Repr

/-- A model descriptor (Table 13.6). -/
structure Model where
  queue : Nat
  chunk : Nat
  bmax : Nat
  maxwait : Nat
  batchwait : Nat
  toksz : Nat
  lnrt : Nat
  sfield : Nat
  nplan : Nat
  argsx : Nat
  argsy : Nat
  plans : List Plan
  res0 : Bool
deriving DecidableEq, Repr

/-- The bytes of descriptor m of a fen; what cannot be read reads as zero, which no limit allows. -/
def modelBytes (s : State) (fen m : Nat) : List Byte :=
  (readVa s fen ((sessOf s fen).modelbase.toNat + 128 * m) 128).getD (List.replicate 128 0#8)

/-- A descriptor in its fields (Table 13.6). -/
def Model.ofBytes (bs : List Byte) : Model :=
  let n := fieldLE bs 0x15 1
  { queue := fieldLE bs 0x00 1, chunk := fieldLE bs 0x01 1, bmax := fieldLE bs 0x02 2, maxwait := fieldLE bs 0x04 4,
    batchwait := fieldLE bs 0x08 4, toksz := fieldLE bs 0x0C 4, lnrt := fieldLE bs 0x10 4, sfield := fieldLE bs 0x14 1, nplan := n,
    argsx := fieldLE bs 0x18 4, argsy := fieldLE bs 0x1C 4,
    plans := (List.range (min 4 n)).map fun j =>
      let x := fieldLE bs (0x28 + 16 * j) 4
      let y := fieldLE bs (0x2C + 16 * j) 4
      { foff := fieldLE bs (0x20 + 16 * j) 4, len := fieldLE bs (0x24 + 16 * j) 4, core := bits x 24 8, offX := bits x 0 22,
        offY := bits y 0 22, res0 := bits x 22 2 == 0 && bits y 22 10 == 0 },
    res0 := fieldLE bs 0x16 2 == 0 && fieldLE bs 0x60 0x20 == 0 }

/-- Descriptor m of a fen. -/
def modelOf (s : State) (fen m : Nat) : Model := .ofBytes (modelBytes s fen m)

/-- Region offset of a plan in a set: 0 X, 1 Y. -/
def Plan.off (p : Plan) (set : Nat) : Nat := if set = 0 then p.offX else p.offY
def Model.args (d : Model) (set : Nat) : Nat := if set = 0 then d.argsx else d.argsy

/-- Two regions of a set that stand on one core do not meet. -/
def planApart (set bmax : Nat) : List Plan → Bool
  | [] => true
  | p :: r => r.all (fun q => q.core != p.core || p.off set + 2 * bmax * p.len ≤ q.off set || q.off set + 2 * bmax * q.len ≤ p.off set) &&
      planApart set bmax r

/-- A descriptor within its limits, with a queue of the fen and regions that fit (R272, R279). -/
def modelOk (s : State) (fen : Nat) (d : Model) : Bool :=
  (queueOf s d.queue).owner == some fen && 1 ≤ d.chunk && d.chunk ≤ 64 && 1 ≤ d.bmax && d.bmax ≤ 256 && d.toksz % 64 == 0 &&
  64 ≤ d.toksz && d.toksz ≤ 65536 && d.lnrt % 64 == 0 && (walkerReach s fen d.lnrt 256).isNone && d.sfield ≤ 6 && d.nplan ≤ 4 && d.res0 &&
  [0, 1].all (fun z => d.args z % 64 == 0 && (walkerReach s fen (d.args z) (0x40 + 32 * d.bmax)).isNone && planApart z d.bmax d.plans) &&
  d.plans.all fun p => p.foff % 4096 == 0 && p.len % 4096 == 0 && p.core < 96 && (coreOf s p.core).fen == fen &&
    ((coreOf s p.core).st == .member || (coreOf s p.core).st == .joining || (coreOf s p.core).st == .leaving) && p.res0 &&
    [0, 1].all fun z => p.off z % 64 == 0 && p.off z + 2 * d.bmax * p.len ≤ 0x30_0000

/-! ### Session states (R280) -/

/-- A session becomes READY; under a bad descriptor it posts BADMODEL once (R279, R281). -/
def becomeReady (s : State) (fen i : Nat) : State :=
  let (seq, s) := freshId s
  let s := modSession s fen i fun x => { x with st := .ready, readyAt := nowUs s, readySeq := seq }
  if modelOk s fen (modelOf s fen (sessionOf s fen i).model) then s else postSess s fen 0#16 evBadmodel i 0#64

/-- A session in IDLE whose buffered count reaches CHUNK becomes READY. -/
def settleIdle (s : State) (fen i : Nat) : State :=
  let x := sessionOf s fen i
  if x.st == .idle && (modelOf s fen x.model).chunk ≤ x.buffered then becomeReady s fen i else s

/-- A session leaves BATCHED for the state that `f` gives it, or for FREE when it is CLOSING. -/
def leaveBatch (s : State) (fen i : Nat) (f : Session → Session) : State :=
  modSession s fen i fun x => if x.closing then {} else f x

/-- A session of a batch fails (Table 13.9). -/
def failSession (s : State) (fen i code : Nat) (value : Word) : State :=
  postSess (leaveBatch s fen i fun x => { x with st := .held, cause := code }) fen 0#16 code i value

/-! ### Bytes that pass the regulators first (R380) -/

def carryOf (s : State) (fen : Nat) (w : CarryFor) : Option Carry := (sessOf s fen).carry.find? (·.what == w)
def endCarry (s : State) (fen : Nat) (w : CarryFor) : State := modSess s fen fun r => { r with carry := r.carry.filter (·.what != w) }

/-- The lines of a load, a store-back or a command are past the regulators; the first call lists them (R380; which lines: log 56). -/
def carried (s : State) (fen : Nat) (w : CarryFor) (lines : List Nat) : Bool × State :=
  match carryOf s fen w with
  | some c => (c.lines == [], s)
  | none => (lines == [], if lines = [] then s else modSess s fen fun r => { r with carry := r.carry ++ [{ what := w, lines }] })

/-- The lines that the session sequencer moves next, in the order in which they came. -/
def carryHead (s : State) (fen : Nat) : Option Carry := (sessOf s fen).carry.find? (·.lines ≠ [])

/-- A clock of the session sequencer's traffic (R380). -/
def carryTick (s : State) (fen : Nat) : State :=
  match carryHead s fen with
  | none => s
  | some c =>
    let (ls, s) := payLines fen 2 0xFF 6 4 c.lines s
    modSess s fen fun r => { r with carry := r.carry.map fun x => if x.what = c.what then { x with lines := ls } else x }

/-- Commands whose bytes are passing the regulators. -/
def waitingCommands (s : State) (fen : Nat) : List SessCmd :=
  (sessOf s fen).carry.filterMap fun c => match c.what with | .command x => some x | _ => none

/-! ### Commands (R284, R285) -/

/-- A command names one of the fen's sessions. -/
def named (s : State) (fen : Nat) (c : SessCmd) : Bool := c.session.toNat < (sessOf s fen).sesscnt

/-- Post a command's event. -/
def answer (s : State) (fen : Nat) (c : SessCmd) (code : Nat) (value : Word) : State := postSess s fen c.stamp code c.session.toNat value

/-- The failure code of a frame operation of a command, and the violation record of an unreachable page (R268, R284). -/
def frameFailure (s : State) (fen : Nat) : FErr → Nat × State
  | .frm => (evBadframe, s)
  | .noSpace => (evNospace, s)
  | .page va w => (evBadframe, frameViolation s fen 0 va w true)
  | .scratch _ _ => (evBadframe, s)

/-- A frame command of the session sequencer: its event, and the state it leaves. -/
def frameCommand (s : State) (fen : Nat) (c : SessCmd) (r : Except FErr (Word × State)) : State :=
  match r with
  | .ok (w, s') => answer s' fen c evDone w
  | .error e => let (code, s') := frameFailure s fen e; answer s' fen c code 0#64

/-- A frame command takes effect once the lines that it moves are past the regulators (R284, R380). -/
def carryCommand (s : State) (fen : Nat) (c : SessCmd) (lines : List Nat) (act : State → Except FErr (Word × State)) : State :=
  let (ready, s) := carried s fen (.command c) lines
  if ready then let s := endCarry s fen (.command c); frameCommand s fen c (act s) else s

/-- Lines of the entry that a handle names, and of what `f` gives for it. -/
def handleLines (s : State) (fen : Nat) (w : Word) (kinds : List Nat) (f : FEntry → List Nat) : List Nat :=
  match frameCheck s fen w kinds with
  | .ok (i, e) => entryLines s fen i ++ f e
  | .error _ => []

/-- TCAP is a power of two from 1 to 65,536. -/
def tcapOk (n : Nat) : Bool := (List.range 17).any fun i => n == 2 ^ i

/-- CREATE: a FREE session becomes IDLE with the fields of the command. (R280) -/
def execCreate (fen : Nat) (c : SessCmd) (s : State) : Host.Outcome State Fault Refusal :=
  if 16 ≤ fen then .fault .noSuchObject
  else
    let i := c.session.toNat
    let tcap := bits c.arg2.toNat 0 32
    .next (if !named s fen c || (sessionOf s fen i).st != .free || !tcapOk tcap || c.arg1.toNat % 64 ≠ 0 || bits c.arg2.toNat 38 26 ≠ 0 then
        answer s fen c evBadcmd 0#64
      else match frameCheck s fen c.arg0 [1] with
        | .error e => let (code, s) := frameFailure s fen e; answer s fen c code 0#64
        | .ok _ =>
          let s := modSession s fen i fun _ =>
            { st := .idle, model := bits c.arg2.toNat 32 6, frame := c.arg0, tbuf := c.arg1, tcap }
          settleIdle (answer s fen c evDone 0#64) fen i)

/-- APPEND: counts appended records; OVERRUN past the buffer's capacity. In HELD the count goes on and the event is BADCMD (log
33). (R280) -/
def execAppend (fen : Nat) (c : SessCmd) (s : State) : Host.Outcome State Fault Refusal :=
  if 16 ≤ fen then .fault .noSuchObject
  else
    let i := c.session.toNat
    let n := c.arg0.toNat
    let x := sessionOf s fen i
    .next (if !named s fen c || x.st == .free || n = 0 || 65536 < n then answer s fen c evBadcmd 0#64
      else if x.tcap < x.buffered + n then answer s fen c evOverrun 0#64
      else
        let s := modSession s fen i fun x => { x with a := x.a + n, t0 := if x.buffered = 0 then nowUs s else x.t0 }
        if x.st == .held then answer s fen c evBadcmd 0#64
        else settleIdle (answer s fen c evDone (BitVec.ofNat 64 (x.a + n))) fen i)

/-- CLOSE: frees a session; in BATCHED it is freed when it leaves BATCHED. (R280) -/
def execClose (fen : Nat) (c : SessCmd) (s : State) : Host.Outcome State Fault Refusal :=
  if 16 ≤ fen then .fault .noSuchObject
  else .next (if !named s fen c then answer s fen c evBadcmd 0#64
    else answer (modSession s fen c.session.toNat fun x => if x.st == .batched then { x with closing := true } else {}) fen c evDone 0#64)

/-- ENABLE: a HELD session goes back to IDLE, and to READY when its chunk is there. (R280) -/
def execEnable (fen : Nat) (c : SessCmd) (s : State) : Host.Outcome State Fault Refusal :=
  if 16 ≤ fen then .fault .noSuchObject
  else
    let i := c.session.toNat
    .next (if !named s fen c || (sessionOf s fen i).st != .held then answer s fen c evBadcmd 0#64
      else settleIdle (answer (modSession s fen i fun x => { x with st := .idle, cause := 0 }) fen c evDone 0#64) fen i)

/-- `n` pool pages, zeroed, with the CRCs of their blocks (R206, R270, R271). -/
def newPages (s : State) (fen : Nat) : Nat → Except FErr (List Nat × State)
  | 0 => .ok ([], s)
  | n + 1 => do
    let (p, s) ← allocPage s fen
    let (ps, s) ← newPages s fen n
    .ok (p :: ps, s)

/-- Allocate a frame of `n` zeroed pages: its handle. -/
def newFrame (s : State) (fen n : Nat) : Except FErr (Word × State) := do
  let (i, old) ← allocFEntry s fen
  let (ps, s) ← newPages s fen n
  let (list, s) ← allocPage s fen
  let e : FEntry := { st := 1, hold := 0, gen := old.gen, npages := n, plist := list, trec := 0, key := 0, iseq := 0 }
  let s ← putPages s fen e ps
  let s ← putEntry s fen i e
  .ok (frameHandle fen 1 e.gen i, s)

/-- FCREATE: allocates a zeroed frame. (R270, R271, R284) -/
def execFcreate (fen : Nat) (c : SessCmd) (s : State) : Host.Outcome State Fault Refusal :=
  if 16 ≤ fen then .fault .noSuchObject
  else .next (if c.arg0 = 0#64 || 4096 < c.arg0.toNat || c.session ≠ 0#32 then answer s fen c evBadcmd 0#64
    else carryCommand s fen c (scanLines s fen ++ newPageLines s fen (c.arg0.toNat + 1)) fun s => newFrame s fen c.arg0.toNat)

/-- FFREE: each page of a frame loses one reference and its entry is freed. (R269, R271, R284, R285) -/
def execFfree (fen : Nat) (c : SessCmd) (s : State) : Host.Outcome State Fault Refusal :=
  if 16 ≤ fen then .fault .noSuchObject
  else .next (carryCommand s fen c (handleLines s fen c.arg0 [1] fun e => listLines s fen e ++ refLines s fen e) fun s => do
    let (i, e) ← frameCheck s fen c.arg0 [1]
    let ps ← pageList s fen e
    let s ← downRefs s fen ps
    let s ← freeFEntry s fen i e
    .ok (0#64, s))

/-- SDROP: clears a snapshot's software hold. (R271, R275, R284) -/
def execSdrop (fen : Nat) (c : SessCmd) (s : State) : Host.Outcome State Fault Refusal :=
  if 16 ≤ fen then .fault .noSuchObject
  else .next (carryCommand s fen c (handleLines s fen c.arg0 [2] fun e => listLines s fen e ++ refLines s fen e) fun s => do
    let (i, e) ← frameCheck s fen c.arg0 [2]
    let s ← dropHold s fen i 0 e
    .ok (0#64, s))

/-- RESERVED_SESSION_COMMAND: changes nothing and posts BADCMD. (R284) -/
def execReservedSessionCommand (fen : Nat) (c : SessCmd) (s : State) : Host.Outcome State Fault Refusal :=
  if 16 ≤ fen then .fault .noSuchObject else .next (answer s fen c evBadcmd 0#64)

/-! ### Age (R280) -/

/-- The age condition of a session with something buffered. -/
def aged (s : State) (fen i : Nat) : Bool :=
  let x := sessionOf s fen i
  let d := modelOf s fen x.model
  x.st == .idle && 1 ≤ x.buffered && d.maxwait != 0 && d.maxwait ≤ nowUs s - x.t0

/-- SESSION_AGE: a partial chunk has waited MAXWAIT; the session becomes READY. (R280) -/
def execSessionAge (fen sess : Nat) (s : State) : Host.Outcome State Fault Refusal :=
  if 16 ≤ fen || 65536 ≤ sess then .fault .noSuchObject
  else .next (if sess < (sessOf s fen).sesscnt && aged s fen sess then becomeReady s fen sess else s)

/-! ### Batches (R281, R282) -/

/-- READY sessions of a model, in the order in which they became READY. -/
def readySessions (s : State) (fen m : Nat) : List Nat :=
  sortBy (fun a b => (sessionOf s fen a).readySeq ≤ (sessionOf s fen b).readySeq)
    ((fenSessions s fen).filter fun i => let x := sessionOf s fen i; x.st == .ready && x.model == m)

/-- The region set that the next batch of a model takes. -/
def freeSet (s : State) (fen m : Nat) : Option Nat :=
  [0, 1].find? fun z => !(s.batches.any fun b => b.fen == fen && b.model == m && b.set == z)

/-- No core that a batch's plan names is leaving (R373). -/
def planStays (s : State) (d : Model) : Bool := d.plans.all fun p => (coreOf s p.core).st == .member

/-- The batch that can form now: set, descriptor, sessions (R281). -/
def batchNow (s : State) (fen m : Nat) : Option (Nat × Model × List Nat) := do
  let z ← freeSet s fen m
  let rs := readySessions s fen m
  let d := modelOf s fen m
  let first ← rs.head?
  if modelOk s fen d && (d.bmax ≤ rs.length || d.batchwait ≤ nowUs s - (sessionOf s fen first).readyAt) && planStays s d then
    some (z, d, rs.take (min rs.length d.bmax))
  else none

/-- Load a session's extents into the regions of its batch (R282 step 2): the number of failed blocks. -/
def loadSession (s : State) (fen lid set k : Nat) (d : Model) (holders : List Nat) (w : Word) : Except FErr (Nat × State) := do
  let (_, e) ← frameCheck s fen w [1]
  if d.plans.any fun p => e.npages * 0x1_0000 < p.foff + p.len then .error .frm
  else (d.plans.zip holders).foldl (fun o (p, h) => do
    let (bad, s) ← o
    let st : StepCtx := { lid, item := h }
    let (n, s) ← loadFrame s fen p.core (some st) e p.foff p.len (p.off set + k * p.len)
    .ok (bad + n, s)) (.ok (0, s))

/-- Store a session's extents back to its frame (R282 step 6). -/
def storeSession (s : State) (fen : Nat) (plan : List (Nat × Nat × Nat × Nat)) (k : Nat) (w : Word) : Except FErr State := do
  let (_, e) ← frameCheck s fen w [1]
  plan.foldl (fun o (foff, len, off, core) => do
    let s ← o
    let (_, s) ← storeFrame s fen e foff (stateBytes s core none (off + k * len) len) (stateBad s core none (off + k * len) len)
    .ok { s with free := s.free + len / 64 }) (.ok s)

/-- The argument block of a batch (Table 13.8). -/
def batchArgs (s : State) (fen m set no : Nat) (d : Model) (items : List BatchItem) : List Byte :=
  leBytes 2 items.length ++ leBytes 1 m ++ leBytes 1 set ++ leBytes 4 no ++ leBytes 4 d.toksz ++ leBytes 0x34 0 ++
  items.flatMap fun b =>
    let x := sessionOf s fen b.sess
    leBytes 4 b.sess ++ leBytes 1 b.t ++ leBytes 1 (bnat b.skip) ++ leBytes 2 0 ++
    leBytes 8 (x.tbuf.toNat + x.c % max 1 x.tcap * d.toksz) ++ leBytes 8 x.tbuf.toNat ++ leBytes 4 x.tcap ++ leBytes 4 0

/-- Replace bytes of a record. -/
def patch (bs : List Byte) (off : Nat) (new : List Byte) : List Byte := bs.take off ++ new ++ bs.drop (off + new.length)

/-- The record of a batch's launch from its template (R282 step 5). -/
def batchRecord (d : Model) (set n : Nat) (template : List Byte) : List Byte :=
  let withArgs := patch template 0x34 (leBytes 4 (d.args set))
  let regs := (d.plans.zipIdx).foldl (fun bs (p, j) =>
    patch bs (0xC0 + 16 * j) (leBytes 8 (p.off set + n * p.len / 64 * 2 ^ 32 + p.core * 2 ^ 48) ++ leBytes 4 (fieldLE template (0xC8 + 16 * j) 4) ++
      leBytes 4 (fieldLE template (0xCC + 16 * j) 4))) withArgs
  if d.sfield = 0 then regs else patch regs (0x40 + 8 * (d.sfield - 1)) (leBytes 4 n)

/-- A batch as the session sequencer forms it: its sessions become BATCHED, each with its count of tokens (R281). -/
def formBatch (s : State) (fen m z : Nat) (d : Model) (rs : List Nat) : State :=
  let (lid, s) := freshId s
  let items := rs.map fun i => ({ sess := i, t := min (sessionOf s fen i).buffered d.chunk, skip := false } : BatchItem)
  let s := rs.foldl (fun s i => modSession s fen i fun x => { x with st := .batched }) s
  let no := (tget 0 s.batchNo (fen * 64 + m) + 1) % 2 ^ 32
  { s with batchNo := tset s.batchNo (fen * 64 + m) no,
           batches := s.batches ++ [{ fen, model := m, set := z, items, lid, plan := d.plans.map fun p => (p.foff, p.len, p.off z, p.core),
                                      stage := .formed, no, desc := modelBytes s fen m }] }

/-- Replace a batch. -/
def setBatch (s : State) (old new : Batch) : State := { s with batches := s.batches.map fun x => if x = old then new else x }

/-- The holder's item index of each plan entry, as the template has it (R282). -/
def holdersOf (s : State) (d : Model) : List Nat :=
  (List.range d.plans.length).map fun j => fieldLE (readHome s (.scratch d.lnrt) 256) (0xC8 + 16 * j) 4

/-- The regions of a batch can be made on their cores beside the live ones (R272); the batch waits until they can (DEDUCED, log 132). -/
def batchFits (s : State) (b : Batch) : Bool :=
  b.plan.all fun (_, len, off, core) =>
    regionFits (coreOf s core) off (b.items.length * len / 64) (b.plan.filter (·.2.2.2 == core)).length

/-- Frame lines that a session's extents take (R282). -/
def extentLines (s : State) (fen sess : Nat) (runs : List (Nat × Nat)) (store : Bool) : List Nat :=
  match frameCheck s fen (sessionOf s fen sess).frame [1] with
  | .ok (i, e) => entryLines s fen i ++ runs.flatMap fun (off, n) => if off + n ≤ e.npages * 0x1_0000 then moveLines s fen e off n store else []
  | .error _ => []

/-- Step 1 of a batch: its regions are made, and its loads begin (R282). -/
def batchRegions (s : State) (b : Batch) : State :=
  let s := ((b.plan.zip (holdersOf s (.ofBytes b.desc))).zipIdx).foldl (fun s (((_, len, off, core), h), j) =>
    makeRegion s core { off, lines := b.items.length * len / 64, act := [], dirty := [], lid := b.lid, holder := h, j,
                        batch := some (b.fen, b.model, b.set) }) s
  let s := setBatch s b { b with stage := .loading }
  (carried s b.fen (.load b.model b.set)
    (b.items.flatMap fun x => extentLines s b.fen x.sess (b.plan.map fun p => (p.1, p.2.1)) false)).2

/-- Steps 2 to 5 of a batch: the sessions' extents are loaded, each as one FRM.LD, and published; the argument block is written; the
template goes into the queue (R282, R283). -/
def batchLoads (s : State) (b : Batch) : State :=
  let d := Model.ofBytes b.desc
  let holders := holdersOf s d
  let s := (b.plan.zip holders).foldl (fun s ((_, _, off, core), h) => modRegion s core off fun r => { r with holder := h }) s
  let (items, s) := (b.items.zipIdx).foldl (fun (items, s) (x, k) =>
    let fail := fun (s : State) (code : Nat) (v : Word) => (items ++ [{ x with skip := true }], failSession s b.fen x.sess code v)
    match loadSession s b.fen b.lid b.set k d holders (sessionOf s b.fen x.sess).frame with
    | .ok (0, s') => (items ++ [x], s')
    | .ok (bad, s') => fail s' evCrcerr (BitVec.ofNat 64 bad)
    | .error e => let (code, s') := frameFailure s b.fen e; fail s' code 0#64) (([] : List BatchItem), s)
  let s := b.plan.foldl (fun s (_, _, off, core) =>
    modRegion s core off fun r => { r with act := r.dirty.foldl flip r.act, dirty := [] }) s
  let s := writeScratchHome s (d.args b.set) (batchArgs s b.fen b.model b.set b.no d items)
  let s := setBatch (endCarry s b.fen (.load b.model b.set)) b { b with items, stage := .queued }
  let record := batchRecord d b.set items.length (readHome s (.scratch d.lnrt) 256)
  modLaunch (appendLaunch s b.fen d.queue record 0#16 true none (some (b.model, b.set)) b.lid) b.lid fun l =>
    { l with nplan := d.plans.length }

/-- What the frame engine port needs of the cores of a batch's plan for a load or a store-back: every bank of their state stores (R238). -/
def Batch.need (b : Batch) : List Need :=
  (b.plan.map (·.2.2.2)).eraseDups.map fun k => (k, 16 * b.lid + 1, (List.range 16).map fun i => (100 + i, 0))

/-- The bytes of a batch's loads or store-backs are past the regulators: the frame engine ports of its cores are to move them. -/
def batchMoves (s : State) (b : Batch) : Bool :=
  match b.stage, b.status with
  | .loading, _ => (carried s b.fen (.load b.model b.set) []).1
  | .queued, some 0 => b.items.any (!·.skip) && (carryOf s b.fen (.store b.model b.set)).any (·.lines == [])
  | _, _ => false

/-- A batch that is not queued goes on: its regions are made when they fit, and its loads take effect once their bytes are past the
regulators and the banks are won (R238, R272, R282). -/
def batchGoes (s : State) (b : Batch) : State :=
  match b.stage with
  | .formed => if batchFits s b then batchRegions s b else s
  | .loading =>
    if batchMoves s b then
      let (won, s) := askBanks s b.need
      if won then batchLoads s b else s
    else s
  | .queued => s

/-- BATCH_FORM: the batches of a model that are not queued go on, and its oldest READY sessions become a batch in a free region set.
(R281 to R283, R380) -/
def execBatchForm (fen model : Nat) (s : State) : Host.Outcome State Fault Refusal :=
  if 16 ≤ fen || 64 ≤ model then .fault .noSuchObject
  else
    let s := (s.batches.filter fun b => b.fen == fen && b.model == model).foldl batchGoes s
    .next (match batchNow s fen model with
      | some (z, d, rs) => formBatch s fen model z d rs
      | none => s)

/-- A session's chunk is stored back, or fails (R280, R283). -/
def storeOne (s : State) (fen m status : Nat) (plan : List (Nat × Nat × Nat × Nat)) (k : Nat) (b : BatchItem) : State :=
  if b.skip then s
  else if status ≠ 0 then failSession s fen b.sess evLaunch (BitVec.ofNat 64 status)
  else match storeSession s fen plan k (sessionOf s fen b.sess).frame with
    | .error e => let (code, s) := frameFailure s fen e; failSession s fen b.sess code 0#64
    | .ok s =>
      let now := nowUs s
      let s := countEv s fen 0xFF 18 1
      let s := leaveBatch s fen b.sess fun x => { x with st := .idle, c := x.c + b.t, t0 := if x.c + b.t < x.a then now else x.t0 }
      let x := sessionOf s fen b.sess
      if x.st == .idle && (modelOf s fen m).chunk ≤ x.buffered then becomeReady s fen b.sess else s

/-- STORE_BACK: after a batch's launch has completed, each session's state is stored to its frame and the set is freed. (R282,
R283, R272) -/
def execStoreBack (fen model set : Nat) (s : State) : Host.Outcome State Fault Refusal :=
  if 16 ≤ fen || 64 ≤ model || 2 ≤ set then .fault .noSuchObject
  else .next (match s.batches.find? fun b => b.fen == fen && b.model == model && b.set == set && b.status.isSome with
    | none => s
    | some b =>
      let mine := if b.status = some 0 then (b.items.filter (!·.skip)).map (·.sess) else []
      let (ready, s) := carried s fen (.store model set) (mine.flatMap fun i => extentLines s fen i (b.plan.map fun p => (p.1, p.2.1)) true)
      let (won, s) := if ready && mine ≠ [] then askBanks s b.need else (ready, s)
      if !won then s
      else
      let s := endCarry s fen (.store model set)
      let s := (b.items.zipIdx).foldl (fun s (x, k) => storeOne s fen model (b.status.getD 0) b.plan k x) s
      let regs := s.cores.flatMap fun (k, c) => (c.regions.filter fun r => r.batch == some (fen, model, set)).map fun r => (k, r)
      let s := regs.foldl (fun s (k, r) => releaseRegion s k r) s
      { s with batches := s.batches.filter fun x => x != b })

end Sys2Proof.Machine
end

