-- ==== Sys2Proof/Machine/HostPort.lean ====
section
/-! DEFINITION. What the host reaches: the BARs of the functions (R385), queue blocks and kicks (R386 to R389), and the session ring
block (R390). -/

namespace Sys2Proof.Machine
open Sys2Proof

/-! ### Functions and their registers (R385) -/

/-- The fen that VF v (1–64) is bound to. -/
def vfFen (s : State) (vf : Nat) : Option Nat :=
  if vf = 0 || 64 < vf then none else (List.range 16).find? fun f => (fenOf s f).formed && (fenOf s f).vfs.getLsbD (vf - 1)

/-- A queue block is assigned to a VF: the queue belongs to the VF's fen (Table 24.8). -/
def vfQueue (s : State) (vf q : Nat) : Bool :=
  match vfFen s vf with | some f => (queueOf s q).owner == some f | none => false

/-- A number less its low `n` bits. -/
def aligned (n : Nat) (v : Word) : Word := BitVec.ofNat 64 (v.toNat / 2 ^ n * 2 ^ n)

/-- The 64-bit register at an offset of a queue block (Table 24.1). -/
def queueBlock (q : LQueue) (off : Nat) : Nat :=
  match off with
  | 0x00 => q.qbase.toNat
  | 0x08 => q.qpoll.toNat * 2 ^ 32 + q.qsize.toNat
  | 0x10 => q.qhead.toNat * 2 ^ 32
  | 0x18 => q.cbase.toNat
  | 0x20 => q.chead.toNat * 2 ^ 32 + q.csize.toNat
  | 0x28 => q.ctail.toNat
  | 0x30 => bnat q.kerr * 2 ^ 15 + q.msiv.toNat
  | _ => 0

/-- The 64-bit register at an offset of a VF's session registers and session ring block (Tables 13.5, 24.2). -/
def sessBlock (s : State) (fen off : Nat) : Nat :=
  let r := sessOf s fen
  match off with
  | 0x00 => r.sesscnt * 2 ^ 32 + r.sessbase
  | 0x08 => r.ftbase.toNat
  | 0x10 => r.ftcount.toNat
  | 0x18 => r.poolbase.toNat
  | 0x20 => poolFree s fen * 2 ^ 32 + r.poolpages.toNat
  | 0x28 => r.modelbase.toNat
  | 0x100 => r.scrbase.toNat
  | 0x108 => r.scrsize.toNat
  | 0x110 => r.scrhead.toNat * 2 ^ 32
  | 0x118 => r.sevbase.toNat
  | 0x120 => r.sevhead.toNat * 2 ^ 32 + r.sevsize.toNat
  | 0x128 => r.sevtail.toNat
  | 0x130 => r.sevmsiv.toNat
  | _ => 0

/-- The 16 bytes of a device event (Table 24.11). -/
def DevEvent.bytes (e : DevEvent) : List Byte :=
  leBytes 1 e.code ++ leBytes 1 e.core ++ leBytes 1 e.fen ++ leBytes 1 e.arg ++ leBytes 4 e.time.toNat ++ leBytes 8 e.value.toNat

/-- The response that stands at the PF0 mailbox (R391). -/
def mailbox (s : State) : Option (BitVec 16 × BitVec 8 × List Byte) := (s.svc.responses.find? (·.1 == 1)).map (·.2)

/-- The header of a response (R391). -/
def responseHeader (tag : BitVec 16) (st : BitVec 8) (n : Nat) : Nat := tag.toNat + st.toNat * 2 ^ 16 + n * 2 ^ 32

/-- The event that serves a request of Table 24.3. -/
def requestEvent (r : MgmtReq) : Event :=
  match r.code.toNat with
  | 1 => .fenform r
  | 2 => .fenend r
  | 3 => .coremove r
  | 4 => .peerlink r
  | 5 => .regset r
  | 6 => .attest r
  | 7 => .health r
  | 8 => .svnraise r
  | _ => .reservedManagementRequest r

/-- The request that stands at the mailbox: TAG, CODE and LEN of its header, and the payload (R391). A LEN above 252 is no length: its
request is answered as one of the reserved CODE 0 (R392; DESIGN CHOICE, log 111). -/
def mailRequest (s : State) : MgmtReq :=
  let b := fun (i : Nat) => tget 0#8 s.svc.mbox i
  let n := (b 3).toNat
  { port := 1, tag := BitVec.ofNat 16 (leNat [b 0, b 1]), code := if 252 < n then 0#8 else b 2,
    payload := (List.range (min n 252)).map fun i => b (4 + i) }

/-- A host write of eight bytes to the mailbox: request bytes, or a 1 to the doorbell, which hands the request to firmware (R391). -/
def mailWrite (s : State) (off : Nat) (v : Word) : State :=
  if 0x1000 ≤ off && off < 0x1100 then
    let bs := ((leBytes 8 v.toNat).zipIdx (off - 0x1000)).filter fun (_, i) => i < 256
    { s with svc := { s.svc with mbox := bs.foldl (fun t (b, i) => tset t i b) s.svc.mbox } }
  else if (off = 0x11FC && v.setWidth 32 = 1#32) || (off = 0x11F8 && (v >>> 32).setWidth 32 = 1#32) then
    if s.svc.doorbell || s.svc.bootst ≠ 4#8 then s else now { s with svc := { s.svc with doorbell := true } } (requestEvent (mailRequest s))
  else s

/-- The 64-bit word at an aligned offset of PF0's BAR0. -/
def pf0Word (s : State) (off : Nat) : Nat :=
  if off = 0 then s.svc.bootst.toNat
  else if 0x1000 ≤ off && off < 0x1100 then leNat ((List.range 8).map fun i => tget 0#8 s.svc.mbox (off - 0x1000 + i))
  else if off = 0x11F8 then bnat s.svc.doorbell * 2 ^ 32
  else if off = 0x1100 then (match mailbox s with | some (t, st, bs) => responseHeader t st bs.length | none => 0)
  else if 0x3000 ≤ off && off < 0x4000 then (match mailbox s with | some (_, _, bs) => fieldLE bs (off - 0x3000) 8 | none => 0)
  else if off = 0x2000 then s.svc.evhead.toNat * 2 ^ 32 + s.svc.evtail.toNat
  else if off = 0x2008 then bnat s.svc.evlost
  else if 0x2100 ≤ off && off < 0x3000 then
    match (s.svc.evlog.find? fun (k, _) => k == (off - 0x2100) / 16) with
    | some (_, e) => fieldLE e.bytes ((off - 0x2100) % 16) 8
    | none => 0
  else 0

/-- What the host reads at an 8-byte-aligned offset of a function's BAR0: 0 is PF0. Until boot step 6 every VF reads 0 (R394);
an offset without a register, and the block of a queue not assigned to the VF, read 0 (R385). -/
def barRead (s : State) (vf off : Nat) : Word :=
  BitVec.ofNat 64 (if vf = 0 then pf0Word s off
    else match vfFen s vf with
      | none => 0
      | some f =>
        if off < 0x4000 then sessBlock s f off
        else if off < 0x8000 && vfQueue s vf ((off - 0x4000) / 64) then queueBlock (queueOf s ((off - 0x4000) / 64)) (off % 64)
        else 0)

/-- REGISTER_WRITE: a host write to a register without an event of its own: ring bases and sizes of the session block, MSI-X
vectors, the bits that a 1 clears, and PF0's mailbox. Anything else is ignored. (R385, Tables 24.1, 24.2, R391, R393) -/
def execRegisterWrite (vf off : Nat) (v : BitVec 64) (s : State) : Host.Outcome State Fault Refusal :=
  if 65 ≤ vf then .fault .noSuchObject
  else .next (if vf = 0 then
      (if off = 0x2008 && bitAt v.toNat 0 then { s with svc := { s.svc with evlost := false } } else mailWrite s off v)
    else match vfFen s vf with
      | none => s
      | some f =>
        if off = 0x100 then modSess s f fun r => { r with scrbase := aligned 5 v }
        else if off = 0x108 then modSess s f fun r => { r with scrsize := v.setWidth 13 }
        else if off = 0x118 then modSess s f fun r => { r with sevbase := aligned 4 v }
        else if off = 0x120 then
          postHeld (modSess s f fun r => { r with sevhead := BitVec.ofNat 32 (v.toNat / 2 ^ 32), sevsize := v.setWidth 13 }) f
        else if off = 0x130 then modSess s f fun r => { r with sevmsiv := v.setWidth 11 }
        else if 0x4000 ≤ off && off < 0x8000 && off % 64 = 0x30 && vfQueue s vf ((off - 0x4000) / 64) then
          modQueue s ((off - 0x4000) / 64) fun q => { q with msiv := v.setWidth 11, kerr := q.kerr && !bitAt v.toNat 15 }
        else s)

/-- A frame table entry of a fen is in use, in a suspended page too; an entry that is mapped nowhere is not (R278). -/
def tableInUse (s : State) (fen : Nat) : Bool :=
  (List.range (ftCount s fen)).any fun i =>
    match translateVa s fen ((sessOf s fen).ftbase.toNat + 64 * i) false true with
    | some pa => (readHome s (.phys pa) 1).any (· ≠ 0#8)
    | none => false

/-- The frame area of a fen may not be changed now (R278). -/
def areaInUse (s : State) (fen : Nat) : Bool :=
  ((fenSessions s fen).any fun i => (sessionOf s fen i).st != .free) || tableInUse s fen

/-- SESSION_REGISTER_WRITE: FTBASE, FTCOUNT, POOLBASE, POOLPAGES or MODELBASE; while the area is in use the write is ignored and
posts BADCMD. (R278) -/
def execSessionRegisterWrite (vf off : Nat) (v : BitVec 64) (s : State) : Host.Outcome State Fault Refusal :=
  if 65 ≤ vf then .fault .noSuchObject
  else .next (match vfFen s vf with
    | none => s
    | some f =>
      if off = 0x08 || off = 0x10 || off = 0x18 || off = 0x20 || off = 0x28 then
        if areaInUse s f then postSess s f 0#16 evBadcmd 0 0#64
        else modSess s f fun r =>
          if off = 0x08 then { r with ftbase := aligned 6 v }
          else if off = 0x10 then { r with ftcount := v.setWidth 20 }
          else if off = 0x18 then { r with poolbase := aligned 16 v }
          else if off = 0x20 then { r with poolpages := v.setWidth 32 }
          else { r with modelbase := aligned 7 v }
      else s)

/-! ### Queue blocks (R386 to R389) -/

/-- A queue holds no unconsumed kicked entry and no uncompleted launch (R386). -/
def queueIdle (q : LQueue) : Bool := q.qhead == q.kicked && q.launches == []

/-- A write of a ring register of a queue: stored while the queue is idle, else KERR (R386). -/
def whenIdle (q : LQueue) (f : LQueue → LQueue) : LQueue := if queueIdle q then f q else { q with kerr := true }

/-- QUEUE_CONFIG_WRITE: QBASE, QPOLL and QSIZE, CBASE, or CHEAD and CSIZE. (R386) -/
def execQueueConfigWrite (vf q off : Nat) (v : BitVec 64) (s : State) : Host.Outcome State Fault Refusal :=
  if 65 ≤ vf || 256 ≤ q then .fault .noSuchObject
  else .next (if !vfQueue s vf q then s
    else modQueue s q fun x =>
      if off = 0x00 then whenIdle x fun x => { x with qbase := aligned 6 v }
      else if off = 0x08 then
        let poll := BitVec.ofNat 16 (bits v.toNat 32 16)
        whenIdle { x with qpoll := poll, pollAt := s.clock + 1000 * poll.toNat } fun x => { x with qsize := v.setWidth 13 }
      else if off = 0x18 then whenIdle x fun x => { x with cbase := aligned 5 v }
      else if off = 0x20 then
        whenIdle { x with chead := BitVec.ofNat 32 (v.toNat / 2 ^ 32) } fun x => { x with csize := v.setWidth 13 }
      else x)

/-- The expected stamp of a position (R387). -/
def expectedStamp (p : Nat) : Nat := p % 65535 + 1

/-- The host address of the entry at QHEAD. -/
def entryAddr (q : LQueue) : Nat := q.qbase.toNat + 320 * (q.qhead.toNat % max 1 q.qsize.toNat)

/-- Bytes of host memory at a host address. -/
def hostRead (s : State) (a n : Nat) : List Byte := readHome s (hostLoc a) n

/-- The entry at QHEAD carries the expected stamp. -/
def stampMatches (s : State) (q : Nat) : Bool :=
  let x := queueOf s q
  fieldLE (hostRead s (entryAddr x + 0x100) 2) 0 2 == expectedStamp x.qhead.toNat

/-- Take the entry at QHEAD: its record joins the launch queue and QHEAD advances (R388). -/
def takeEntry (s : State) (q fen : Nat) : State :=
  let x := queueOf s q
  let a := entryAddr x
  let (lid, s) := freshId s
  let res0 := fieldLE (hostRead s (a + 0x102) 0x3E) 0 0x3E == 0
  let stamp := BitVec.ofNat 16 (fieldLE (hostRead s (a + 0x100) 2) 0 2)
  modQueue (appendLaunch s fen q (hostRead s a 256) stamp res0 none none lid) q fun x => { x with qhead := x.qhead + 1#32 }

/-- Take entries while QHEAD differs from the last accepted kick and stamps match; at a mismatch the re-reads begin (R388). -/
def takeEntries : Nat → State → Nat → Nat → State
  | 0, s, _, _ => s
  | n + 1, s, q, fen =>
    let x := queueOf s q
    if x.qhead = x.kicked || x.qsize = 0#13 then modQueue s q fun x => { x with taking := false, retries := 0 }
    else if stampMatches s q then takeEntries n (takeEntry s q fen) q fen
    else modQueue s q fun x => { x with taking := true, retries := 8, retryAt := s.clock + 250 }

/-- Begin or resume taking entries of a queue; a run of re-reads under way goes on. -/
def startTaking (s : State) (q : Nat) : State :=
  match (queueOf s q).owner with
  | some f => if (queueOf s q).retries = 0 then takeEntries ((queueOf s q).qsize.toNat + 1) s q f else s
  | none => s

/-- QKICK: a kick within QSIZE of QHEAD is accepted and starts the taking of entries, any other sets KERR. (R388) -/
def execQkick (vf q : Nat) (v : BitVec 32) (s : State) : Host.Outcome State Fault Refusal :=
  if 65 ≤ vf || 256 ≤ q then .fault .noSuchObject
  else .next (if !vfQueue s vf q then s
    else
      let x := queueOf s q
      if (v - x.qhead).toNat ≤ x.qsize.toNat then startTaking (modQueue s q fun x => { x with kicked := v }) q
      else modQueue s q fun x => { x with kerr := true })

/-- STAMP_RETRY: the next re-read of a stamp is due; after the eighth without a match the device stops. (R388) -/
def execStampRetry (q : Nat) (s : State) : Host.Outcome State Fault Refusal :=
  if 256 ≤ q then .fault .noSuchObject
  else
    let x := queueOf s q
    .next (match x.owner with
      | none => s
      | some f =>
        if x.retries = 0 || s.clock < x.retryAt then s
        else if stampMatches s q then takeEntries (x.qsize.toNat + 1) s q f
        else modQueue s q fun x => { x with retries := x.retries - 1, retryAt := s.clock + 250, taking := x.retries ≠ 1 })

/-- QPOLL: a poll tick resumes the taking of entries at QHEAD. (R388) -/
def execQpoll (q : Nat) (s : State) : Host.Outcome State Fault Refusal :=
  if 256 ≤ q then .fault .noSuchObject
  else
    let x := queueOf s q
    .next (if x.qpoll = 0#16 || s.clock < x.pollAt then s
      else startTaking (modQueue s q fun x => { x with pollAt := x.pollAt + 1000 * x.qpoll.toNat }) q)

/-- CHEAD: the host has consumed completion records. (R386, R389) -/
def execChead (vf q : Nat) (v : BitVec 32) (s : State) : Host.Outcome State Fault Refusal :=
  if 65 ≤ vf || 256 ≤ q then .fault .noSuchObject
  else .next (if vfQueue s vf q then modQueue s q fun x => { x with chead := v } else s)

/-! ### The session ring block (R390) -/

/-- The host address of the command at SCRHEAD. -/
def commandAddr (r : SessRegs) : Nat := r.scrbase.toNat + 32 * (r.scrhead.toNat % max 1 r.scrsize.toNat)

/-- The command at SCRHEAD and whether its res0 byte is zero. -/
def commandAt (s : State) (fen : Nat) : SessCmd × Bool :=
  let bs := hostRead s (commandAddr (sessOf s fen)) 32
  ({ stamp := BitVec.ofNat 16 (fieldLE bs 0 2), op := BitVec.ofNat 8 (fieldLE bs 2 1), session := BitVec.ofNat 32 (fieldLE bs 4 4),
     arg0 := BitVec.ofNat 64 (fieldLE bs 8 8), arg1 := BitVec.ofNat 64 (fieldLE bs 16 8), arg2 := BitVec.ofNat 64 (fieldLE bs 24 8) },
   fieldLE bs 3 1 == 0)

/-- The event of a session command; a reserved OP or a non-zero res0 byte is a reserved command (Table 13.10). -/
def commandEvent (fen : Nat) (c : SessCmd) (res0 : Bool) : Event :=
  if !res0 then .reservedSessionCommand fen c
  else match c.op.toNat with
    | 1 => .create fen c
    | 2 => .append fen c
    | 3 => .close fen c
    | 4 => .enable fen c
    | 5 => .fcreate fen c
    | 6 => .ffree fen c
    | 7 => .sdrop fen c
    | _ => .reservedSessionCommand fen c

/-- The session sequencer looks at its command ring: it takes the command at SCRHEAD when its stamp matches, and re-reads a stamp
that does not, as the launch queues do. It takes none while the event ring is full, nor while the bytes of the command before are passing
the regulators (R284, R380, R388, R390). -/
def sessionTake (s : State) (fen : Nat) : State :=
  let r := sessOf s fen
  if r.scrhead = r.scrkick || r.scrsize = 0#13 then modSess s fen fun r => { r with scrTaking := false, scrRetries := 0 }
  else if !eventRoom r || r.heldEvents ≠ [] || waitingCommands s fen ≠ [] then s
  else if 0 < r.scrRetries && s.clock < r.scrRetryAt then s
  else
    let (c, res0) := commandAt s fen
    if c.stamp.toNat = expectedStamp r.scrhead.toNat then
      now (modSess s fen fun r => { r with scrhead := r.scrhead + 1#32, scrRetries := 0 }) (commandEvent fen c res0)
    else if r.scrRetries = 0 then modSess s fen fun r => { r with scrRetries := 8, scrRetryAt := s.clock + 250 }
    else if r.scrRetries = 1 then modSess s fen fun r => { r with scrRetries := 0, scrTaking := false }
    else modSess s fen fun r => { r with scrRetries := r.scrRetries - 1, scrRetryAt := s.clock + 250 }

/-- SCRKICK: a kick within SCRSIZE of SCRHEAD is accepted. (R388, R390) -/
def execScrkick (vf : Nat) (v : BitVec 32) (s : State) : Host.Outcome State Fault Refusal :=
  if 65 ≤ vf then .fault .noSuchObject
  else .next (match vfFen s vf with
    | none => s
    | some f =>
      let r := sessOf s f
      if (v - r.scrhead).toNat ≤ r.scrsize.toNat then modSess s f fun r => { r with scrkick := v, scrTaking := true } else s)

/-- SEVHEAD: the host has consumed session events; held events are posted as room appears. (R390) -/
def execSevhead (vf : Nat) (v : BitVec 32) (s : State) : Host.Outcome State Fault Refusal :=
  if 65 ≤ vf then .fault .noSuchObject
  else .next (match vfFen s vf with
    | none => s
    | some f => postHeld (modSess s f fun r => { r with sevhead := v }) f)

/-- EVHEAD: the host has consumed device events. (R393) -/
def execEvhead (v : BitVec 32) (s : State) : Host.Outcome State Fault Refusal :=
  .next { s with svc := { s.svc with evhead := v } }

end Sys2Proof.Machine
end

