-- ==== Sys2Proof/Machine/Spill.lean ====
section
/-! DEFINITION. The spill engine: the context image of Table 19.9 and the clocks in which its lines are written and read (R341).
Table 19.9 gives each part's offset and its order; the places inside a part are the model's choice (log 41). -/

namespace Sys2Proof.Machine
open Sys2Proof

/-- The tag of a register in the order of the image: s0–s63, lr, k0–k7, h0–h15, the engines' a0–a15 and l0–l3, v0–v47. -/
def tagAt (c : Ctx) (n : Nat) : Tag :=
  if n < 64 then (tget {} c.s n).tag
  else if n = 64 then c.lr.tag
  else if n < 73 then (tget {} c.k (n - 65)).tag
  else if n < 89 then (tget {} c.h (n - 73)).tag
  else if n < 153 then (tget {} (engOf c (1 + (n - 89) / 16)).a ((n - 89) % 16)).tag
  else if n < 173 then (loopOf c ((n - 153) / 4) ((n - 153) % 4)).tag
  else if n < 221 then { poison := (vregOf c (n - 173)).poison }
  else {}

/-- A tag byte: bit 7 poison, bit 6 pending, bits [3:0] cause (Table 19.9). -/
def Tag.byte (t : Tag) : Nat :=
  (match t.poison with | some c => 0x80 + causeCode c % 16 | none => 0) + bnat t.pending.isSome * 0x40

/-- pc, STATUS, trap frames, fault record, TSCR, RMODE, FADEFL, RNDSEED, RNDCTR, RDSEL and lease requests. -/
def frameWords (c : Ctx) : List Word :=
  let run := fun (r : Option LeaseReq) => BitVec.ofNat 64 (match r with | some x => x.run | none => 0)
  [BitVec.ofNat 64 (engOf c 0).pc,
   BitVec.ofNat 64 (c.pl.toNat + bnat c.trapped * 8 + bnat c.pend * 64 + bnat c.svc * 128),
   c.tr.tcause, c.tr.tpc, c.tr.tval, c.tr.mtcause, c.tr.mtpc, c.tr.mtval, c.tr.mscr, c.tr.frec0, c.tr.frec1, c.tr.frec2, c.tr.frec3,
   c.tr.tscr, c.rmode.setWidth 64, c.fadefl.setWidth 64, c.rndseed, c.rndctr, c.rdsel.setWidth 64, run c.mreq, run c.sreq]

/-- Word `j` of engine `e`'s part: a0–a15, l0–l3 with start and end addresses, DLY counts, read pointer. -/
def engineWord (c : Ctx) (e j : Nat) : Word :=
  let x := engOf c e
  if j < 16 then (if e = 0 then (tget {} c.s (48 + j)).val else (tget {} x.a j).val)
  else if j < 24 then
    let l := loopOf c e ((j - 16) / 2)
    BitVec.ofNat 64 (if j % 2 = 0 then l.count.toNat + l.start % 2 ^ 32 * 2 ^ 32 else l.last)
  else if j = 24 then BitVec.ofNat 64 (x.dly + x.dlySave * 2 ^ 16)
  else if j = 25 then BitVec.ofNat 64 x.pc
  else 0#64

/-- Entries of q0–q5 and bq: their counts, then each entry's value and tag byte. -/
def queueWords (c : Ctx) : List Word :=
  (List.range 7).map (fun q => BitVec.ofNat 64 (queueOfCtx c q).length) ++
  (List.range 7).flatMap fun q => (queueOfCtx c q).flatMap fun e => [e.val, BitVec.ofNat 64 ({ poison := e.poison : Tag }).byte]

/-- A sequencer in-flight entry (Table 19.5). -/
def ifqWords (e : List Landing) : List Word :=
  BitVec.ofNat 64 ((e.take 3).zipIdx.foldl (fun a (l, j) => a + ifqSlot l j) 0) ::
  (e.take 3).map fun l => match l.val with | .word w => w | .vec _ => 0#64

/-- Word `j` of a 2,048-byte value. -/
def vecWord (v : VWord) (j : Nat) : Word := (v >>> (64 * j)).setWidth 64

/-- Header word 0 of a vector in-flight entry (Table 19.6). -/
def ifqHeader (l : Landing) : Word :=
  let vd := match l.dest with | .v n => n | _ => 0
  let nr := match l.dest with | .v _ => 0 | _ => 1
  let p := match l.poison with | some c => 2 ^ 40 + causeCode c % 16 * 2 ^ 36 | none => 0
  BitVec.ofNat 64 (2 ^ 63 + max 1 l.left % 16 * 2 ^ 56 + vd % 64 * 2 ^ 48 + nr * 2 ^ 47 + bnat l.mf * 2 ^ 46 + bnat l.sq * 2 ^ 45 +
    bnat l.rx * 2 ^ 44 + p)

/-- Word `j` of a vector in-flight entry: eight header words, then the value. -/
def ifqVecWord (l : Landing) (j : Nat) : Word :=
  if j = 0 then ifqHeader l
  else if j < 8 then 0#64
  else match l.val with | .vec v => vecWord v (j - 8) | .word w => if j = 8 then w else 0#64

/-- Codebook banks, WPF, WPS, the wait-table entry, and the counts and tag bytes of mf, sq and the ring ingress queue. -/
def codebookWords (s : State) (g : Nat) (c : Ctx) : List Word :=
  let bank := fun (b : Nat) =>
    let k := tget {} c.cb b
    BitVec.ofNat 64 k.typ.toNat :: (List.range 4).map fun i =>
      BitVec.ofNat 64 (leNat ((List.range 4).flatMap fun j => leBytes 2 (nth 0#16 k.entries (4 * i + j)).toNat))
  let wait := match (coreOf s (coreNo g)).waits.find? fun w => w.cid == c.cid with
    | some w => BitVec.ofNat 64 (2 ^ 63 + w.addr)
    | none => 0#64
  let tags := fun (l : List BigEntry) => BitVec.ofNat 64 (leNat ((l.take 8).map fun e => BitVec.ofNat 8 ({ poison := e.poison : Tag }).byte))
  bank 0 ++ [0#64, 0#64, 0#64] ++ bank 1 ++ [0#64, 0#64, 0#64] ++
  [channelWord s c 2, channelWord s c 3, wait, BitVec.ofNat 64 c.mf.length, BitVec.ofNat 64 c.sq.length, BitVec.ofNat 64 c.ingress.length,
   tags c.mf, tags c.sq, tags c.ingress]

/-- The word at offset `o` of the image of a context of sub-core `g` (Table 19.9). -/
def imageWord (s : State) (g : Nat) (c : Ctx) (o : Nat) : Word :=
  if o < 0x200 then nth 0#64 (frameWords c) (o / 8)
  else if o < 0x600 then
    let j := (o - 0x200) / 8
    if j < 64 then (tget {} c.s j).val
    else if j = 64 then c.lr.val
    else if j < 73 then (tget {} c.k (j - 65)).val
    else if j < 89 then (tget {} c.h (j - 73)).val
    else 0#64
  else if o < 0xC00 then engineWord c ((o - 0x600) / 0x100) ((o - 0x600) % 0x100 / 8)
  else if o < 0x1000 then BitVec.ofNat 64 (leNat ((List.range 8).map fun i => BitVec.ofNat 8 (tagAt c (o - 0xC00 + i)).byte))
  else if o < 0x1100 then
    let t := tget {} c.t ((o - 0x1000) / 8)
    BitVec.ofNat 64 (t.count.toNat + t.status.toNat * 2 ^ 32)
  else if o < 0x2000 then nth 0#64 (queueWords c) ((o - 0x1100) / 8)
  else if o < 0x4000 then nth 0#64 (ifqWords (nth [] (ifqEntries { c with ifqS := c.ifqS ++ (engOf c 0).pipe }) ((o - 0x2000) / 32))) ((o - 0x2000) % 32 / 8)
  else if o < 0x1_C000 then vecWord (vregOf c ((o - 0x4000) / 2048)).val ((o - 0x4000) % 2048 / 8)
  else if o < 0x2_D000 then
    match (c.ifqV.drop ((o - 0x1_C000) / 2112)).head? with
    | some l => ifqVecWord l ((o - 0x1_C000) % 2112 / 8)
    | none => 0#64
  else if o < 0x2_E000 then nth 0#64 (codebookWords s g c) ((o - 0x2_D000) / 8)
  else match ((c.mf ++ c.sq ++ c.ingress).drop ((o - 0x2_E000) / 2048)).head? with
    | some e => vecWord e.val ((o - 0x2_E000) % 2048 / 8)
    | none => 0#64

/-! ### Reading an image back (R341) -/

/-- The cause that a tag byte names; a register is poisoned only by the causes 1 to 9 of Table 19.1. -/
def tagPoison (b : Nat) : Option Cause :=
  if bitAt b 7 then
    [.underwait, .memerr, .htfull, .perm, .badva, .stoff, .align, .notpresent, .xlate].find? fun c => causeCode c == b % 16
  else none

/-- A register's tags from its tag byte; a pending tag may go, and comes only with the operation that posts to the register. -/
def Tag.read (t : Tag) (b : Nat) : Tag := { poison := tagPoison b, pending := if bitAt b 6 then t.pending else none }

/-- Set tag byte `n` of the image. -/
def putTag (c : Ctx) (n b : Nat) : Ctx :=
  let reg := fun (r : Reg) => { r with tag := r.tag.read b }
  if n < 64 then { c with s := tmod {} c.s n reg }
  else if n = 64 then { c with lr := reg c.lr }
  else if n < 73 then { c with k := tmod {} c.k (n - 65) reg }
  else if n < 89 then { c with h := tmod {} c.h (n - 73) reg }
  else if n < 153 then modEng c (1 + (n - 89) / 16) fun x => { x with a := tmod {} x.a ((n - 89) % 16) reg }
  else if n < 173 then modEng c ((n - 153) / 4) fun x => { x with l := tmod {} x.l ((n - 153) % 4) fun l => { l with tag := l.tag.read b } }
  else if n < 221 then { c with v := tmod {} c.v (n - 173) fun r => { r with poison := tagPoison b } }
  else c

/-- Set word `j` of the part that `frameWords` lays out; res0 bits of a register stay zero (R6). -/
def putFrame (c : Ctx) (j : Nat) (w : Word) : Ctx :=
  let run : Option LeaseReq := if w = 0#64 then none else some { run := w.toNat }
  match j with
  | 0 => modEng c 0 fun x => { x with pc := w.toNat % 2 ^ 32 }
  | 1 => { c with pl := w.setWidth 2, trapped := bitAt w.toNat 3, pend := bitAt w.toNat 6, svc := bitAt w.toNat 7 }
  | 2 => { c with tr := { c.tr with tcause := tcauseMask w } }
  | 3 => { c with tr := { c.tr with tpc := keep w 31 2 } }
  | 4 => { c with tr := { c.tr with tval := w } }
  | 5 => { c with tr := { c.tr with mtcause := tcauseMask w } }
  | 6 => { c with tr := { c.tr with mtpc := keep w 31 2 } }
  | 7 => { c with tr := { c.tr with mtval := w } }
  | 8 => { c with tr := { c.tr with mscr := w } }
  | 9 => { c with tr := { c.tr with frec0 := w &&& 0xE0FFFF00FFFFFFFF#64 } }
  | 10 => { c with tr := { c.tr with frec1 := keep w 55 0 } }
  | 11 => { c with tr := { c.tr with frec2 := w &&& 0xFFFFFFFF0000FFFF#64 } }
  | 12 => { c with tr := { c.tr with frec3 := w } }
  | 13 => { c with tr := { c.tr with tscr := w } }
  | 14 => { c with rmode := w.setWidth 2 }
  | 15 => { c with fadefl := floorOf w }
  | 16 => { c with rndseed := w }
  | 17 => { c with rndctr := w }
  | 18 => { c with rdsel := w.setWidth 6 }
  | 19 => { c with mreq := run }
  | 20 => { c with sreq := run }
  | _ => c

/-- Set word `j` of engine `e`'s part. -/
def putEngine (c : Ctx) (e j : Nat) (w : Word) : Ctx :=
  if j < 16 then
    if e = 0 then { c with s := tmod {} c.s (48 + j) fun r => { r with val := w } }
    else modEng c e fun x => { x with a := tmod {} x.a j fun r => { r with val := w } }
  else if j < 24 then
    modEng c e fun x => { x with l := tmod {} x.l ((j - 16) / 2) fun l =>
      if j % 2 = 0 then { l with count := w.setWidth 32, start := w.toNat / 2 ^ 32 } else { l with last := w.toNat % 2 ^ 32 } }
  else if j = 24 then modEng c e fun x => { x with dly := w.toNat % 2 ^ 16, dlySave := w.toNat / 2 ^ 16 % 2 ^ 16 }
  else if j = 25 then modEng c e fun x => { x with pc := w.toNat % 2 ^ 32 }
  else c

/-- Set the `i`-th value or tag word of the queues' part, after the seven counts: entries keep their number. -/
def putQueue (c : Ctx) : List Nat → Nat → Word → Ctx
  | [], _, _ => c
  | q :: r, i, w =>
    let l := queueOfCtx c q
    if 2 * l.length ≤ i then putQueue c r (i - 2 * l.length) w
    else { c with q := tset c.q q ((l.zipIdx).map fun (x, n) =>
      if n ≠ i / 2 then x else if i % 2 = 0 then { x with val := w } else { x with poison := tagPoison w.toNat }) }

/-- Replace word `j` of a 2,048-byte value. -/
def setVecWord (v : VWord) (j : Nat) (w : Word) : VWord :=
  (v &&& ~~~ ((BitVec.allOnes 64).setWidth 16384 <<< (64 * j))) ||| (w.setWidth 16384 <<< (64 * j))

/-- Replace word `j` of the value of the `n`-th entry. -/
def setEntries (l : List BigEntry) (n j : Nat) (w : Word) : List BigEntry :=
  (l.zipIdx).map fun (x, i) => if i = n then { x with val := setVecWord x.val j w } else x

/-- Replace the value of the `n`-th landing that `p` selects. -/
def setLanding (l : List Landing) (n : Nat) (f : Payload → Payload) : List Landing :=
  (l.zipIdx).map fun (x, i) => if i = n then { x with val := f x.val } else x

/-- Set the word at offset `o` of an image: what the place holds comes from the word. The counts of queues and in-flight entries, their
headers, WPF, WPS and the wait-table entry stay as they were (DESIGN CHOICE, log 41). -/
def putWord (c : Ctx) (o : Nat) (w : Word) : Ctx :=
  if o < 0x200 then putFrame c (o / 8) w
  else if o < 0x600 then
    let j := (o - 0x200) / 8
    let reg := fun (r : Reg) => { r with val := w }
    if j < 64 then { c with s := tmod {} c.s j reg }
    else if j = 64 then { c with lr := reg c.lr }
    else if j < 73 then { c with k := tmod {} c.k (j - 65) reg }
    else if j < 89 then { c with h := tmod {} c.h (j - 73) reg }
    else c
  else if o < 0xC00 then putEngine c ((o - 0x600) / 0x100) ((o - 0x600) % 0x100 / 8) w
  else if o < 0x1000 then ((leBytes 8 w.toNat).zipIdx).foldl (fun c (b, i) =>
    let n := o - 0xC00 + i
    if b.toNat = (tagAt c n).byte then c else putTag c n b.toNat) c
  else if o < 0x1100 then
    { c with t := tset c.t ((o - 0x1000) / 8) { count := w.setWidth 16, status := (w >>> 32).setWidth 32 } }
  else if o < 0x2000 then (if o < 0x1138 then c else putQueue c (List.range 7) ((o - 0x1138) / 8) w)
  else if o < 0x4000 then
    let es := ifqEntries { c with ifqS := c.ifqS ++ (engOf c 0).pipe }
    let n := (o - 0x2000) / 32
    let i := (((es.take n).map List.length).foldl (· + ·) 0) + (o - 0x2000) % 32 / 8 - 1
    if (o - 0x2000) % 32 = 0 then c
    else if i < c.ifqS.length then { c with ifqS := setLanding c.ifqS i fun _ => .word w }
    else modEng c 0 fun x => { x with pipe := setLanding x.pipe (i - c.ifqS.length) fun _ => .word w }
  else if o < 0x1_C000 then
    { c with v := tmod {} c.v ((o - 0x4000) / 2048) fun r => { r with val := setVecWord r.val ((o - 0x4000) % 2048 / 8) w } }
  else if o < 0x2_D000 then
    let j := (o - 0x1_C000) % 2112 / 8
    if j < 8 then c
    else { c with ifqV := setLanding c.ifqV ((o - 0x1_C000) / 2112) fun x => match x with | .vec v => .vec (setVecWord v (j - 8) w) | .word _ => .word w }
  else if o < 0x2_E000 then
    let j := (o - 0x2_D000) / 8
    if 16 ≤ j then c
    else { c with cb := tmod {} c.cb (j / 8) fun k =>
      if j % 8 = 0 then { k with typ := BitVec.ofNat 4 w.toNat }
      else if j % 8 < 5 then { k with entries := (List.range 16).map fun i =>
        if i / 4 = j % 8 - 1 then (w >>> (16 * (i % 4))).setWidth 16 else nth 0#16 k.entries i }
      else k }
  else
    let n := (o - 0x2_E000) / 2048
    let j := (o - 0x2_E000) % 2048 / 8
    let (a, b) := (c.mf.length, c.sq.length)
    { c with mf := setEntries c.mf n j w,
             sq := if a ≤ n then setEntries c.sq (n - a) j w else c.sq,
             ingress := if a + b ≤ n then setEntries c.ingress (n - a - b) j w else c.ingress }

/-- Line `i` of the image. -/
def imageLine (s : State) (g : Nat) (c : Ctx) (i : Nat) : List Byte :=
  (List.range 8).flatMap fun j => leBytes 8 (imageWord s g c (64 * i + 8 * j)).toNat

/-- The spill area of a sub-core (R341, Table 24.6). -/
def spillArea (s : State) (g : Nat) : Nat := bits s.svc.spbase.toNat 18 34 * 2 ^ 18 + g * 0x4_0000

/-- A context as its image in the spill area gives it back: words that the area no longer holds as they were written from `old` are taken
from it (R341). -/
def readImage (s : State) (g : Nat) (old c : Ctx) : Ctx :=
  let base := spillArea s g
  (List.range 4096).foldl (fun c i =>
    let bs := readHome s (.phys (base + 64 * i)) 64
    if bs = imageLine s g old i then c
    else (List.range 8).foldl (fun c j =>
      let w := BitVec.ofNat 64 (leNat ((bs.drop (8 * j)).take 8))
      if w = imageWord s g old (64 * i + 8 * j) then c else putWord c (64 * i + 8 * j) w) c) c

/-- A clock of the spill engine: lines of the image pass the fen's frame-class regulators; a spill writes them, as the context stood at the
swap (R341, R380). -/
def spillTick (s : State) (g : Nat) : State :=
  let b := subOf s g
  if b.spillLeft = 0 then s
  else
    let base := spillArea s g
    let first := imageLines - b.spillLeft
    let is_ := (List.range (min 4 b.spillLeft)).map (first + ·)
    let (rest, s1) := payLines (coreOf s (coreNo g)).fen 2 (coreNo g) (8 * g + 4) 4 (is_.map fun i => base + 64 * i) s
    let n := is_.length - rest.length
    let s2 := if b.shb = 2#2 then (is_.take n).foldl (fun t i => writeHome t (.phys (base + 64 * i)) (imageLine s g (b.image.getD b.shd) i)) s1 else s1
    modSub s2 g fun b => { b with spillLeft := b.spillLeft - n }

/-- CONTEXT_FILL: a spilled context stands in the shadow bank again, as the image in the spill area gives it. (R341, R342) -/
def execContextFill (g : Nat) (s : State) : Host.Outcome State Fault Refusal :=
  if 384 ≤ g then .fault .noSuchObject
  else
    let b := subOf s g
    .next (if b.shb = 3#2 then
      match b.spilled with
      | some c =>
        let c := match b.image with | some old => readImage s g old c | none => c
        let waits := match c.step with | some st => st.preempting && !st.ended | none => false
        setSub s g { b with shd := c, spilled := none, image := none, shb := if waits then 0#2 else 1#2, spillLeft := 0 }
      | none => setSub s g { b with shb := 0#2, image := none, spillLeft := 0 }
     else s)

end Sys2Proof.Machine
end

