-- ==== Sys2Proof/Machine/Device.lean ====
section
/-! DEFINITION. The management port (R391, R392), moves of cores (R372 to R375), boot and identity (R394, R395), power and margins
(R397 to R400), and soft errors (R401). -/

namespace Sys2Proof.Machine
open Sys2Proof

def modSvc (s : State) (f : Service → Service) : State := { s with svc := f s.svc }

/-! ### Responses (R391, R392) -/

def mgDone : Nat := 0
def mgBadreq : Nat := 1
def mgBadarg : Nat := 2
def mgBusy : Nat := 3
def mgNofen : Nat := 4
def mgNores : Nat := 5
def mgNolink : Nat := 6

/-- A response stands at a port (R391). -/
def respond (s : State) (port : Nat) (tag : BitVec 16) (status : Nat) (result : List Byte) : State :=
  modSvc s fun v => { v with responses := v.responses.filter (·.1 != port) ++ [(port, tag, BitVec.ofNat 8 status, result)],
                             doorbell := v.doorbell && port != 1 }

/-- The response to a request. -/
def reply (s : State) (r : MgmtReq) (status : Nat) (result : List Byte := []) : State := respond s r.port r.tag status result

/-- A field of a payload. -/
def mgField (r : MgmtReq) (off n : Nat) : Nat := fieldLE r.payload off n

/-- A request of some code, served once the device is READY (R394): BADREQ for a wrong length or a res0 byte that is not zero,
else `f`. Before READY it is not accepted. -/
def serve (r : MgmtReq) (code len : Nat) (res0 : Bool) (f : State → State) (s : State) : Host.Outcome State Fault Refusal :=
  if 2 ≤ r.port || r.code.toNat ≠ code || 252 < r.payload.length then .fault .noSuchObject
  else .next (if s.svc.bootst ≠ 4#8 then s
    else if r.payload.length ≠ len || !res0 then reply s r mgBadreq
    else f s)

/-- A fen is being ended. -/
def fenEnding (s : State) (f : Nat) : Bool := s.svc.ending.any fun (x, _) => x == f

/-- A core stands between two of its final states. -/
def moving (c : Core) : Bool := c.st == .leaving || c.st == .scrub || c.st == .joining

/-! ### Moving a core (R372 to R375) -/

/-- Post a core's new state (Table 24.12). -/
def coreEvent (s : State) (core fen arg : Nat) : State := postEvent s 3 core fen arg (fenOf s fen).fepoch

/-- A membership change of a fen advances FEPOCH (R371). -/
def advanceEpoch (s : State) (fen : Nat) : State := modFen s fen fun f => { f with fepoch := f.fepoch + 1#64 }

/-- LEAVING begins (R373). -/
def beginLeaving (s : State) (core : Nat) (target : Option Nat) : State :=
  let f := (coreOf s core).fen
  coreEvent (advanceEpoch (modCore s core fun c => { c with st := .leaving, target }) f) core f 1

/-- A core enters JOINING (R375): it ends within 64 clocks. -/
def enterJoining (s : State) (core fen : Nat) : State :=
  let (d, s) := draw s
  modCore s core fun c => { c with st := .joining, fen, target := none, until_ := s.clock + 1 + d % 64 }

/-- JOINING of a move begins: the fen's FEPOCH advances (R375). -/
def beginJoining (s : State) (core fen : Nat) : State := coreEvent (advanceEpoch (enterJoining s core fen) fen) core fen 3

/-- The awaited COREMOVE responses of a core that has reached a final state. -/
def answerMoves (s : State) (core : Nat) (result : Nat) : State :=
  let mine := s.svc.moves.filter fun (_, _, c) => c == core
  let s := modSvc s fun v => { v with moves := v.moves.filter fun (_, _, c) => c != core }
  mine.foldl (fun s (p, t, _) => respond s p t mgDone [BitVec.ofNat 8 result]) s

/-- Keys of the bytes of a core: its slice, its state store and its two planes. -/
def coreKeys (core k : Nat) : Bool :=
  (core * 0x80_0000 ≤ k && k < core * 0x80_0000 + 0x80_0000) ||
  ((Loc.state core 0).key ≤ k && k < (Loc.state core 0).key + 0x40_0000) ||
  ((Loc.plane core 0 0).key ≤ k && k < (Loc.plane core 0 0).key + 0x2_0000)

/-- Keys of the spill areas of a core's sub-cores (R341, R374). -/
def spillKeys (s : State) (core k : Nat) : Bool :=
  (Loc.phys (spillArea s (4 * core))).key ≤ k && k < (Loc.phys (spillArea s (4 * core))).key + 4 * 0x4_0000

/-- Zero the bytes with keys in a set, and drop the syndromes of their lines (R309, R374). -/
def zeroKeys (s : State) (p : Nat → Bool) : State :=
  { s with mem := s.mem.filter (fun c => !p c.1), ecc := s.ecc.filter fun l => !p (l * 64) }

/-- An access in flight whose home answers no longer gets an error response (R374). -/
def refuseAccess (s : State) (a : Access) : State :=
  match a.loc with
  | .scratch x => refuse s a 0 x 3
  | .state _ o => refuse s a 1 o 3
  | _ => refuse s a 1 0 3

/-- Discard the ring entries on a link to a core; the sender's fen counts them (R374). -/
def discardLink (s : State) (core : Nat) : State :=
  let dest := fun (m : RingMsg) => if m.core = 96 then core == 0 else !m.peer && successor m.core == core
  let gone := s.ring.filter dest
  gone.foldl (fun s m => if m.core = 96 then s else count s m.fen cntQleft 1) { s with ring := s.ring.filter fun m => !dest m }

/-- What a scrub leaves of a core (R374). -/
def scrubbed (c : Core) : Core :=
  { st := .scrub, fen := c.fen, target := c.target, retired := c.retired, spent := c.spent, bankAt := c.bankAt, retained := c.retained,
    mv := c.mv, ps := c.ps, psNew := c.psNew }

/-- Every condition for the end of LEAVING holds (R373). -/
def leavingDone (s : State) (core : Nat) : Bool :=
  let c := coreOf s core
  let banks := (List.range 4).map fun n => subOf s (4 * core + n)
  c.st == .leaving &&
  banks.all (fun b => b.act.step.isNone && !b.act.svc && b.shd.step.isNone && b.spilled.isNone && b.swapLeft == 0 &&
    b.act.qext.all (fun (_, n) => n == 0) && b.shd.qext.all (fun (_, n) => n == 0)) &&
  c.regions == [] && c.comb == [] && c.rings.all (fun (_, r) => r.ext == 0) &&
  !(s.cores.any fun (_, k) => k.comb.any fun e => agentOf e.loc == core) &&
  !(s.accs.any fun a => a.isRed && a.agent == core)

/-- SCRUB_POINT: LEAVING ends and the core is zeroed; accesses that have not reached their points get error responses. (R373,
R374) -/
def execScrubPoint (core : Nat) (s : State) : Host.Outcome State Fault Refusal :=
  if 96 ≤ core then .fault .noSuchObject
  else .next (if !leavingDone s core then s
    else
      let s := discardLink s core
      let late := s.accs.filter fun a => a.agent == core && (match a.loc with | .phys _ => false | _ => true)
      let s := late.foldl (fun s a => refuseAccess s a) s
      let s := zeroKeys s fun k => coreKeys core k || spillKeys s core k
      let (d, s) := draw s
      let s := modCore s core fun c => { scrubbed c with until_ := s.clock + 3072 + d }
      let s := { s with subs := s.subs.filter fun (g, _) => coreNo g != core }
      coreEvent s core (coreOf s core).fen 2)

/-- A core becomes UNOWNED (R375). -/
def disown (s : State) (core : Nat) : State :=
  let f := (coreOf s core).fen
  let s := modCore s core fun c => { c with st := .unowned, fen := 0, target := none, until_ := 0 }
  answerMoves (coreEvent s core f 4) core 1

/-- A fen that is being ended is free once no core is left to it: its grant, queues, VFs and session entries (Table 24.3). -/
def finishEnding (s : State) (fen : Nat) : State :=
  let left := s.cores.any fun (_, c) => c.st != .unowned && (c.fen == fen || c.target == some fen)
  if left || !fenEnding s fen then s
  else
    let r := sessOf s fen
    let mine := s.svc.ending.filter fun (x, _) => x == fen
    let s := { s with
      sessions := s.sessions.filter (fun (i, _) => !(r.sessbase ≤ i && i < r.sessbase + r.sesscnt)),
      batches := s.batches.filter (·.fen != fen),
      batchNo := s.batchNo.filter (fun (i, _) => i / 64 != fen),
      queues := s.queues.filter (fun (_, q) => q.owner != some fen),
      fens := s.fens.filter (fun (i, _) => i != fen) }
    let s := modSvc s fun v => { v with ending := v.ending.filter fun (x, _) => x != fen }
    mine.foldl (fun s (_, p, t) => respond s p t mgDone []) s

/-- JOINING: zeroing ends and the core joins its target fen, or becomes UNOWNED. (R374, R375) -/
def execJoining (core : Nat) (s : State) : Host.Outcome State Fault Refusal :=
  if 96 ≤ core then .fault .noSuchObject
  else
    let c := coreOf s core
    .next (if c.st != .scrub || s.clock < c.until_ then s
      else match c.target with
        | some g => if (fenOf s g).formed && !fenEnding s g && !c.retired then beginJoining s core g else finishEnding (disown s core) c.fen
        | none => finishEnding (disown s core) c.fen)

/-- MEMBER: JOINING ends. A core retired meanwhile, or whose fen is being ended, leaves again at once. (R375, R400) -/
def execMember (core : Nat) (s : State) : Host.Outcome State Fault Refusal :=
  if 96 ≤ core then .fault .noSuchObject
  else
    let c := coreOf s core
    .next (if c.st != .joining || s.clock < c.until_ then s
      else
        let s := modCore s core fun c => { c with st := .member }
        let s := answerMoves (coreEvent s core c.fen 0) core 0
        if c.retired || fenEnding s c.fen then beginLeaving s core none else s)

/-! ### Forming and ending a fen (R370, Tables 24.3 and 24.8) -/

/-- Two runs of numbers meet. -/
def runsMeet (a m b n : Nat) : Bool := a < b + n && b < a + m

/-- A run of session entries is free. -/
def sessFree (s : State) (a n : Nat) : Bool :=
  a + n ≤ 65536 && !(s.fens.any fun (_, f) => f.formed && runsMeet a n f.sess.sessbase f.sess.sesscnt)

/-- The least free run of n session entries. -/
def sessSpot (s : State) (n : Nat) : Option Nat :=
  let ends := (s.fens.filter fun (_, f) => f.formed).map fun (_, f) => f.sess.sessbase + f.sess.sesscnt
  (sortBy (fun a b => a ≤ b) (0 :: ends)).find? fun a => sessFree s a n

/-- The set bits of a mask. -/
def maskBits (n w : Nat) : List Nat := (List.range n).filter fun i => bitAt w i

/-- The fields of a FENFORM payload are within their limits (Table 24.8). -/
def fenformArgs (r : MgmtReq) : Bool :=
  let gb := mgField r 0x40 8
  let gl := mgField r 0x48 8
  let pt := mgField r 0x50 8
  mgField r 0 1 < 16 && 1 ≤ mgField r 1 1 && mgField r 2 1 ≤ 7 && 1 ≤ mgField r 4 4 && 1 ≤ mgField r 8 12 && mgField r 0x3C 4 ≤ 65536 &&
  gb % 2 ^ 30 == 0 && gb < 0x60_0000_0000 && gl % 2 ^ 30 == 0 && gb + gl ≤ 0x60_0000_0000 &&
  gb ≤ pt && pt < gb + gl && pt % 2048 == 0 && mgField r 0x58 8 % 4096 == 0 && mgField r 0x60 8 % 4096 == 0 &&
  mgField r 0x58 8 + mgField r 0x60 8 ≤ 2 ^ 51 && 1 ≤ mgField r 0x68 2 && mgField r 0x68 2 ≤ 8191

/-- What FENFORM names is free (Table 24.8). -/
def fenformFree (s : State) (r : MgmtReq) : Bool :=
  (maskBits 96 (mgField r 8 12)).all (fun c => (coreOf s c).st == .unowned && !(coreOf s c).retired) &&
  !(s.fens.any fun (_, f) => f.formed && f.vfs.toNat &&& mgField r 0x14 8 != 0) &&
  (maskBits 256 (mgField r 0x1C 32)).all (fun q => (queueOf s q).owner == none) &&
  (sessSpot s (mgField r 0x3C 4)).isSome &&
  !(s.fens.any fun (_, f) => f.formed && runsMeet (mgField r 0x40 8) (mgField r 0x48 8) f.grantBase f.grantLen)

/-- FENFORM: forms a fen; its grant is zeroed and its cores pass JOINING. (R309, R370, R375, R378, R381, R391, R392) -/
def execFenform (r : MgmtReq) (s : State) : Host.Outcome State Fault Refusal :=
  serve r 1 112 (mgField r 3 1 == 0 && mgField r 0x6A 6 == 0) (fun s =>
    let f := mgField r 0 1
    if !fenformArgs r then reply s r mgBadarg
    else if fenEnding s f then reply s r mgBusy
    else if (fenOf s f).formed then reply s r mgNofen
    else if (maskBits 96 (mgField r 8 12)).any (fun c => moving (coreOf s c)) then reply s r mgBusy
    else if !fenformFree s r then reply s r mgNores
    else
      let base := mgField r 0x40 8
      let len := mgField r 0x48 8
      let sb := (sessSpot s (mgField r 0x3C 4)).getD 0
      let s := zeroKeys s fun k => (Loc.phys base).key ≤ k && k < (Loc.phys base).key + len
      let s := setFen s f
        { formed := true, wdmax := mgField r 4 4, weight := mgField r 1 1, pfloor := mgField r 2 1, ptroot := BitVec.ofNat 64 (mgField r 0x50 8),
          grantBase := base, grantLen := len, hostBase := mgField r 0x58 8, hostLen := mgField r 0x60 8, htcap := mgField r 0x68 2,
          vfs := BitVec.ofNat 64 (mgField r 0x14 8), sess := { sesscnt := mgField r 0x3C 4, sessbase := sb } }
      let s := (maskBits 256 (mgField r 0x1C 32)).foldl (fun s q => setQueue s q { owner := some f, budget := mgField r 4 4 }) s
      let s := [0, 1].foldl (fun s d => modDie s d fun x =>
        { x with deficit := x.deficit.filter (fun (i, _) => i / 8 != f), qptr := x.qptr.filter (fun (i, _) => i / 8 != f), lastSub := x.lastSub.filter (fun (i, _) => i != f) }) s
      let s := (maskBits 96 (mgField r 8 12)).foldl (fun s c => coreEvent (enterJoining s c f) c f 3) s
      reply s r mgDone (leBytes 4 sb)) s

/-- FENEND: every core of the fen moves to UNOWNED; the response stands when the fen is free. (R372, R375, Table 24.3) -/
def execFenend (r : MgmtReq) (s : State) : Host.Outcome State Fault Refusal :=
  serve r 2 1 true (fun s =>
    let f := mgField r 0 1
    if 16 ≤ f then reply s r mgBadarg
    else if fenEnding s f then reply s r mgBusy
    else if !(fenOf s f).formed then reply s r mgNofen
    else
      let s := modSvc s fun v => { v with ending := v.ending ++ [(f, r.port, r.tag)] }
      let s := (List.range 96).foldl (fun s c =>
        let k := coreOf s c
        if k.fen = f && k.st == .member then beginLeaving s c none
        else if k.target = some f || (k.fen = f && k.st == .leaving && k.target.isNone) then modCore s c fun k => { k with target := none }
        else s) s
      finishEnding s f) s

/-- COREMOVE: starts a move of a core; it responds when the core has reached its final state. (R372, R391) -/
def execCoremove (r : MgmtReq) (s : State) : Host.Outcome State Fault Refusal :=
  serve r 3 4 (mgField r 2 2 == 0) (fun s =>
    let c := mgField r 0 1
    let t := mgField r 1 1
    let k := coreOf s c
    let target := if t = 0xFF then none else some t
    if 96 ≤ c || (16 ≤ t && t ≠ 0xFF) then reply s r mgBadarg
    else if moving k || (t ≠ 0xFF && fenEnding s t) || (k.st == .member && fenEnding s k.fen) then reply s r mgBusy
    else if t ≠ 0xFF && !(fenOf s t).formed then reply s r mgNofen
    else if k.retired && t ≠ 0xFF then reply s r mgNores
    else if k.st == .unowned && t = 0xFF then reply s r mgDone [1#8]
    else if k.st == .member && k.fen = t then reply s r mgDone [0#8]
    else
      let s := modSvc s fun v => { v with moves := v.moves ++ [(r.port, r.tag, c)] }
      if k.st == .unowned then beginJoining s c t else beginLeaving s c target) s

/-- PEERLINK: enables a peer link and binds it to a fen, or disables it. (R361, R392) -/
def execPeerlink (r : MgmtReq) (s : State) : Host.Outcome State Fault Refusal :=
  serve r 4 4 (mgField r 3 1 == 0) (fun s =>
    let link := mgField r 0 1
    let en := mgField r 1 1
    let f := mgField r 2 1
    let p := s.peers
    let trains := if link = 0 then p.nxtTrains else p.prvTrains
    let other := if link = 0 then p.prvEn else p.nxtEn
    let up := if link = 0 then p.nxtUp else p.prvUp
    if 1 < link || 1 < en || 16 ≤ f then reply s r mgBadarg
    else if fenEnding s f then reply s r mgBusy
    else if !(fenOf s f).formed then reply s r mgNofen
    else if en = 1 && (!trains || (other && p.fen ≠ f)) then reply s r mgNolink
    else
      let s := if en = 0 && up then setPeerUp s link false else s
      let q := s.peers
      let s := { s with peers :=
        { (if link = 0 then { q with nxtEn := en == 1 } else { q with prvEn := en == 1 }) with fen := if en = 1 then f else q.fen } }
      reply s r mgDone (leBytes 8 (peerstWord s.peers).toNat)) s

/-- The regulators that a REGSET names, set one after another; refused as a whole (R381, R392). -/
def setReguls (s : State) (fen cls : Nat) (chans : List Nat) (cr cb pr pb : Nat) : Option State :=
  chans.foldl (fun o h => o.bind fun s => setRegul s fen (cls * 64 + h) cr cb pr pb) (some s)

/-- REGSET: one regulator, or one class at every channel. (R381, Table 24.9) -/
def execRegset (r : MgmtReq) (s : State) : Host.Outcome State Fault Refusal :=
  serve r 5 12 (mgField r 3 1 == 0) (fun s =>
    let f := mgField r 0 1
    let h := mgField r 1 1
    let cls := mgField r 2 1
    if 16 ≤ f || (48 ≤ h && h ≠ 0xFF) || 2 < cls then reply s r mgBadarg
    else if fenEnding s f then reply s r mgBusy
    else if !(fenOf s f).formed then reply s r mgNofen
    else match setReguls s f cls (if h = 0xFF then List.range 48 else [h]) (mgField r 4 2) (mgField r 6 2) (mgField r 8 2) (mgField r 10 2) with
      | none => reply s r mgNores
      | some s => reply s r mgDone) s

/-- The cores that a fen holds in a report: those in MEMBER or JOINING. -/
def coreMask (l : List Nat) : Nat := l.foldl (fun a c => a + 2 ^ c) 0

/-- Fen entry f of an attestation report (R395). -/
def fenReport (s : State) (f : Nat) : List Byte :=
  let x := fenOf s f
  if !x.formed then List.replicate 64 0#8
  else leBytes 12 (coreMask (fenCores s f)) ++ leBytes 1 x.weight ++ leBytes 1 x.pfloor ++ leBytes 1 1 ++ leBytes 1 0 ++
    leBytes 8 x.vfs.toNat ++ leBytes 4 x.wdmax ++ leBytes 4 0 ++
    leBytes 32 (coreMask ((List.range 256).filter fun q => (queueOf s q).owner == some f))

/-- The signed part of an attestation report (Table 24.5). -/
def reportBody (s : State) (nonce : List Byte) : List Byte :=
  leBytes 4 1 ++ leBytes 4 s.svc.version.toNat ++ leBytes 8 s.svc.attestCount ++ nonce ++ leBytes 64 Config.imageDigest.toNat ++
  leBytes 64 Config.keyDigest.toNat ++ (List.range 16).flatMap (fenReport s)

/-- ATTEST: a signed report; COUNT advances. (R395) -/
def execAttest (r : MgmtReq) (s : State) : Host.Outcome State Fault Refusal :=
  serve r 6 32 true (fun s =>
    let body := reportBody s r.payload
    modSvc (reply s r mgDone (body ++ leBytes 1280 (Config.signature body).toNat)) fun v => { v with attestCount := v.attestCount + 1 }) s

/-- The result of HEALTH (Table 24.10). -/
def healthReport (s : State) : List Byte :=
  leBytes 8 s.svc.single ++ leBytes 8 s.svc.double ++ leBytes 8 s.svc.flits ++ leBytes 8 s.svc.linkerrs ++ leBytes 8 s.svc.limclk ++
  leBytes 12 (coreMask ((List.range 96).filter fun c => (coreOf s c).retired)) ++ leBytes 4 0 ++
  (List.range 96).flatMap fun c => leBytes 2 (coreOf s c).mv ++ leBytes 2 (BitVec.ofInt 16 (coreOf s c).ps).toNat

/-- HEALTH: error counts, margins and retired cores. (R392) -/
def execHealth (r : MgmtReq) (s : State) : Host.Outcome State Fault Refusal :=
  serve r 7 0 true (fun s => reply s r mgDone (healthReport s)) s

/-- SVNRAISE: raises the fused minimum security version to the running image's. (R391) -/
def execSvnraise (r : MgmtReq) (s : State) : Host.Outcome State Fault Refusal :=
  serve r 8 0 true (fun s =>
    let v := if s.svc.minVersion.toNat < s.svc.version.toNat then s.svc.version else s.svc.minVersion
    reply (modSvc s fun x => { x with minVersion := v }) r mgDone (leBytes 4 v.toNat)) s

/-- RESERVED_MANAGEMENT_REQUEST: changes nothing and returns BADREQ. (R391, R392) -/
def execReservedManagementRequest (r : MgmtReq) (s : State) : Host.Outcome State Fault Refusal :=
  if 2 ≤ r.port || (1 ≤ r.code.toNat && r.code.toNat ≤ 8) || 252 < r.payload.length then .fault .noSuchObject
  else .next (if s.svc.bootst ≠ 4#8 then s else reply s r mgBadreq)

/-! ### Boot (R394) -/

/-- What firmware's scrub of every core leaves (R374, R394 step 4). -/
def scrubAll (s : State) : State :=
  let gone := fun (k : Nat) => k < 2 ^ 60 || (List.range 96).any fun c => spillKeys s c k
  { s with mem := s.mem.filter (fun c => !gone c.1), ecc := s.ecc.filter (fun l => !gone (l * 64)), subs := [],
           cores := s.cores.map fun (k, c) => (k, { scrubbed c with st := .unowned, fen := 0, target := none }) }

/-- An image passes the checks of boot step 2: its key and signature, and its version is at least the fused minimum (Table 24.4). -/
def imageOk (v : Service) (sound : Bool) (version : BitVec 32) : Bool := sound && v.minVersion.toNat ≤ version.toNat

/-- BOOT: the next step of Table 24.4. (R394) -/
def execBoot (s : State) : Host.Outcome State Fault Refusal :=
  let v := s.svc
  let go := fun (s : State) (n : BitVec 8) => now (modSvc s fun v => { v with bootst := n }) .boot
  let stop := fun (s : State) (n : BitVec 8) => modSvc s fun v => { v with bootst := n }
  .next (if v.bootst = 0#8 then go s 1#8
    else if v.bootst = 1#8 then
      (if imageOk v v.slotA v.versionA then go (modSvc s fun v => { v with version := v.versionA, fromB := false }) 2#8
       else if imageOk v v.slotB v.versionB then go (modSvc s fun v => { v with version := v.versionB, fromB := true }) 2#8
       else stop s 0x80#8)
    else if v.bootst = 2#8 then (if v.trains then go s 3#8 else stop s 0x81#8)
    else if v.bootst = 3#8 then
      let s := stop (scrubAll s) 4#8
      if !v.fromB then s else postEvent s 6 0xFF 0xFF 0 (v.version.setWidth 64)
    else s)

/-! ### Power and margins (R397 to R400) -/

/-- BANK_RETENTION: a state-store bank without a live region line and without an access for 4,096 clocks enters retention, keeping
its contents. (R397) -/
def execBankRetention (core bank : Nat) (s : State) : Host.Outcome State Fault Refusal :=
  if 96 ≤ core || 16 ≤ bank then .fault .noSuchObject
  else
    let c := coreOf s core
    let live := c.regions.any fun r => (List.range (min 16 (2 * r.lines))).any fun i => (r.off / 64 + i) % 16 == bank
    .next (if live || s.clock < tget 0 c.bankAt bank + 4096 || c.retained.contains bank then s
      else modCore s core fun c => { c with retained := c.retained ++ [bank] })

/-- LIMITER_WINDOW: a window of 64 clocks begins, in whose first F clocks every engine is frozen; while a core's margin is in
emergency F is 48. (R398, R399) -/
def execLimiterWindow (f : Nat) (s : State) : Host.Outcome State Fault Refusal :=
  if 48 < f then .fault .noSuchObject
  else .next (if s.clock < s.svc.limEnd then s
    else modSvc s fun v => { v with limF := if v.emergency == [] then f else 48, limEnd := s.clock + 64 })

/-- MARGIN_REPORT: a core's monitors report a margin; below the emergency threshold it is announced, and the limiter acts. (R399) -/
def execMarginReport (core : Nat) (ps : Int) (s : State) : Host.Outcome State Fault Refusal :=
  if 96 ≤ core then .fault .noSuchObject
  else
    let s := modCore s core fun c => { c with ps := if c.psNew && c.ps < ps then c.ps else ps, psNew := true }
    .next (if ps < Config.emergencyPs && !s.svc.emergency.contains core then
        let s := modSvc s fun v => { v with emergency := v.emergency ++ [core] }
        postEvent s 4 core (if (coreOf s core).st == .unowned then 0xFF else fenId s core) 0 (BitVec.ofInt 64 ps)
      else s)

/-- The replacement of a retired core: the least-numbered UNOWNED core that is not retired (R400). -/
def replacement (s : State) : Option Nat := (List.range 96).find? fun c => (coreOf s c).st == .unowned && !(coreOf s c).retired

/-- A core is retired (R400). -/
def retire (s : State) (core need : Nat) : State :=
  let f := fenId s core
  let k := coreOf s core
  let s := modCore s core fun c => { c with retired := true, target := if moving c then none else c.target }
  let s := if k.st == .member then beginLeaving s core none else s
  let r := if f < 16 then replacement s else none
  let s := match r with | some c => beginJoining s c f | none => s
  let s := modSvc s fun v => { v with emergency := v.emergency.filter (· != core) }
  postEvent s 2 core f (r.getD 0xFF) (BitVec.ofNat 64 need)

/-- VOLTAGE_ADJUST: firmware reads a core's margin and raises its supply voltage by a step of 5 mV to hold it; a core that would
need more than its ceiling is retired. (R399, R400) -/
def execVoltageAdjust (core : Nat) (s : State) : Host.Outcome State Fault Refusal :=
  if 96 ≤ core then .fault .noSuchObject
  else
    let c := coreOf s core
    let s := modCore s core fun c => { c with psNew := false }
    .next (if c.retired || Config.targetPs ≤ c.ps then s
      else if Config.ceilingMv < c.mv + 5 then retire s core (c.mv + 5)
      else modSvc (modCore s core fun c => { c with mv := c.mv + 5 }) fun v => { v with emergency := v.emergency.filter (· != core) })

/-! ### Soft errors (R401) -/

/-- The entry at place `i` of queue mf (7), sq (8) or the ring ingress queue (9) of a context takes MEMERR poison (R401; which SRAMs: log 82). -/
def spoilEntry (c : Ctx) (q i : Nat) : Ctx :=
  let spoil := fun (es : List BigEntry) => es.zipIdx.map fun (e, j) => if j = i then { e with poison := some (e.poison.getD .memerr) } else e
  if q = 7 then { c with mf := spoil c.mf } else if q = 8 then { c with sq := spoil c.sq } else { c with ingress := spoil c.ingress }

/-- SRAM_ERROR: a single-bit error is corrected and counted; a double-bit error poisons a line or a handle-table entry. (R401) -/
def execSramError (core : Nat) (site : SramSite) (double : Bool) (s : State) : Host.Outcome State Fault Refusal :=
  if 96 ≤ core || !siteOk site then .fault .noSuchObject
  else .next (if !double then modSvc s fun v => { v with single := v.single + 1 }
    else
      let s := modSvc s fun v => { v with double := v.double + 1 }
      let s := match site with
        | .line k => { s with ecc := if s.ecc.contains (k / 64) then s.ecc
            else s.ecc.takeWhile (· < k / 64) ++ k / 64 :: s.ecc.dropWhile (· < k / 64) }
        | .handle f i => modHentry s f i fun e => { e with bad := true }
        | .vreg n bank r => setCtxAt s (4 * core + n) bank
            (let c := ctxAt s (4 * core + n) bank; { c with v := tmod {} c.v r fun x => { x with poison := some (x.poison.getD .memerr) } })
        | .queue n bank q i => setCtxAt s (4 * core + n) bank (spoilEntry (ctxAt s (4 * core + n) bank) q i)
      postEvent s 5 core (fenId s core) 0 0#64)

end Sys2Proof.Machine
end

