-- ==== Sys2Proof/Machine/Walker.lean ====
section
/-! DEFINITION. The work walkers: which queue's item goes next (R262), where (R263, R402), gangs and their reservations (R257), and
pre-emption (R264). -/

namespace Sys2Proof.Machine
open Sys2Proof

/-! ### What a queue has to place -/

/-- A launch has an item, or a resident step, left to place. -/
def hasWork (l : Launch) : Bool := (l.st == .started) && (l.redo != [] || l.next < l.total)

/-- The launch of a queue that the walkers enumerate: the first started one with work left (R262). -/
def workOf (s : State) (q : Nat) : Option Launch := (queueOf s q).launches.find? hasWork

/-- The next item or step of a launch, with the range of a resident step. -/
def nextItem (l : Launch) : Nat × Nat × Nat :=
  match l.redo with
  | x :: _ => x
  | [] => if l.res then (l.next, (residentRange l l.next).1, (residentRange l l.next).2) else (l.next, 0, 0)

/-- The items that the launch's next placement takes in one act: a gang, or one item (R257). Of the items that wait to be placed again,
those of one gang go together (R250, R373, log 32). -/
def nextGroup (l : Launch) : List Nat :=
  match l.redo with
  | (n, _, _) :: _ =>
    if (gangLevel l).isSome then (l.redo.map (·.1)).filter fun m => m / gangSize l == n / gangSize l else [n]
  | [] => (List.range (gangSize l)).map (l.next + ·)

/-! ### Free sub-cores and victims (R257, R263, R264) -/

/-- A sub-core that serves a fen's steps and runs none. -/
def idleSub (s : State) (fen g : Nat) : Bool :=
  let b := subOf s g
  let k := coreOf s (coreNo g)
  k.st == .member && k.fen == fen && b.act.step.isNone && !b.act.svc && b.shb == 0#2 && b.shd.step.isNone && b.swapLeft == 0 && !b.swapAsk

/-- No walker holds a reservation of the sub-core for another launch, and the other walker none at all (R257). -/
def unreserved (s : State) (die lid g : Nat) : Bool :=
  [0, 1].all fun d => !(dieOf s d).reserved.contains g || (d == die && (dieOf s d).resFor == some lid)

def freeSub (s : State) (die : Nat) (l : Launch) (g : Nat) : Bool := idleSub s l.fen g && unreserved s die l.lid g

/-- A sub-core of the walker's die runs a step that may be pre-empted for a queue of priority `p` (R264); the swap then waits for its
boundary (R339). -/
def victim (s : State) (die p : Nat) (l : Launch) (g : Nat) : Bool :=
  let b := subOf s g
  let k := coreOf s (coreNo g)
  g / 192 == die && k.st == .member && k.fen == l.fen && b.shb == 0#2 && b.shd.step.isNone && b.swapLeft == 0 && !b.swapAsk &&
  unreserved s die l.lid g &&
  (match b.act.step with
   | some st => !st.ended && !st.preempting && p < st.thresh
   | none => false)

/-- The pre-emption threshold that a step runs with. -/
def threshOf (s : State) (g : Nat) : Nat := match (ctxOf s g).step with | some st => st.thresh | none => 0

/-- The free sub-core with the least id above the last one placed for the fen, wrapping around (R263). -/
def pickFree (last : Option Nat) (gs : List Nat) : Option Nat :=
  match last with
  | none => gs.head?
  | some x => match gs.find? fun g => x < g with | some g => some g | none => gs.head?

/-- The victim of largest threshold, then least id (R264). -/
def pickVictim (s : State) (gs : List Nat) : Option Nat :=
  (sortBy (fun a b => threshOf s b < threshOf s a || (threshOf s a == threshOf s b && a ≤ b)) gs).head?

/-- Sub-core last placed for a fen by a walker. -/
def lastPlaced (s : State) (die fen : Nat) : Option Nat :=
  match tget 0 (dieOf s die).lastSub fen with
  | 0 => none
  | n + 1 => some n

/-- Where a walker would put one item: a sub-core and whether its step is pre-empted. -/
def spotFor (s : State) (die p : Nat) (l : Launch) (n : Nat) (set : List Nat) : Option (Nat × Bool) :=
  let own := (subsFor s l n).filter (set.contains ·)
  match pickFree (lastPlaced s die l.fen) (own.filter (freeSub s die l)) with
  | some g => some (g, false)
  | none => (pickVictim s (own.filter (victim s die p l))).map fun g => (g, true)

/-- Sub-cores of a die. -/
def dieSubs (die : Nat) : List Nat := (List.range 192).map (192 * die + ·)

/-- Spots for every item of a gang, free ones on either die and victims on the walker's, no two on one sub-core; items bound to one core
go first (R257, R264). -/
def gangSpots (s : State) (die p : Nat) (l : Launch) (ns : List Nat) : Option (List (Nat × Nat × Bool)) :=
  let (bound, loose) := ns.partition fun n => holderCores l n ≠ []
  (bound ++ loose).foldl (fun o n => do
    let got ← o
    let set := (List.range 384).filter fun g => !(got.any fun x => x.2.1 == g)
    let (g, pre) ← spotFor s die p l n set
    some (got ++ [(n, g, pre)])) (some [])

/-- What a walker does next with a launch. -/
inductive Pick where
  | one (n g : Nat) (pre : Bool)
  | gang (spots : List (Nat × Nat × Bool))
  /-- a gang waits: the sub-cores to reserve for it -/
  | reserve (gs : List Nat)
deriving DecidableEq, Repr

/-- What the walker of a die can do with a launch; none when its queue is not eligible (R257, R262). A gang that the placement
set can no longer hold is not eligible: it waits for its watchdog (R376). -/
def pickFor (s : State) (die p : Nat) (l : Launch) : Option Pick :=
  match gangLevel l with
  | none => (nextGroup l).head?.bind fun n => (spotFor s die p l n (dieSubs die)).map fun (g, pre) => .one n g pre
  | some _ =>
    let ns := nextGroup l
    if (dieOf s (1 - die)).resFor = some l.lid then none
    else match gangSpots s die p l ns with
      | some spots => some (.gang spots)
      | none =>
        let set := (placementSet s l).filter fun g => (coreOf s (coreNo g)).st == .member && (coreOf s (coreNo g)).fen == l.fen
        if set.length < ns.length || (l.fixed && !(ns.all fun n => (subsFor s l n).all (set.contains ·))) then none
        else some (.reserve (set.filter (freeSub s die l)))

/-! ### The choice of a queue (R262) -/

/-- An eligible queue: queue, fen, priority, launch, what to do. -/
structure Elig where
  q : Nat
  fen : Nat
  prio : Nat
  l : Launch
  pick : Pick
deriving DecidableEq, Repr

/-- Every queue eligible for the next placement of a die's walker. -/
def eligible (s : State) (die : Nat) : List Elig :=
  s.queues.filterMap fun (q, x) => do
    let f ← x.owner
    let l ← workOf s q
    let pick ← pickFor s die x.prio l
    some { q, fen := f, prio := x.prio, l, pick }

/-- The member of a rising list after `x`, wrapping around. -/
def nextAfter (x : Nat) (fs : List Nat) : Nat := match fs.find? fun f => x < f with | some f => f | none => fs.headD 0

/-- Refill deficits in fen order until a fen holds one unit (R262). -/
def refill (w : Nat → Nat) (fs : List Nat) (p : Nat) : Nat → Nat → Tab Int → Nat × Tab Int
  | 0, f, d => (f, d)
  | k + 1, f, d =>
    if 1 ≤ tget 0 d (f * 8 + p) then (f, d)
    else
      let f := nextAfter f fs
      refill w fs p k f (tmod 0 d (f * 8 + p) fun x => x + w f)

/-- The walker's choice: the eligible queue whose turn it is, and the die with its pointers and deficits moved (R262). A gang that
it has chosen and that waits stays chosen until a more urgent queue is eligible (log 30). -/
def choose (s : State) (die : Nat) : Option (Elig × Die) :=
  let es := eligible s die
  let d := dieOf s die
  match es with
  | [] => none
  | e0 :: r =>
    let p := r.foldl (fun a e => min a e.prio) e0.prio
    let at_ := es.filter (·.prio == p)
    match at_.find? fun e => d.resFor == some e.l.lid with
    | some e => some (e, d)
    | none =>
      let fs := (List.range 16).filter fun f => at_.any (·.fen == f)
      let d0 := (List.range 16).foldl (fun t f => if fs.contains f then t else tset t (f * 8 + p) 0) d.deficit
      let start := match tget 0 d.fptr p with
        | 0 => fs.foldl max 0
        | n + 1 => if fs.contains n then n else nextAfter n fs
      let low := fs.foldl (fun a f => max a (1 - tget 0 d0 (f * 8 + p)).toNat) 0
      let (f, d1) := refill (fun f => (fenOf s f).weight) fs p (16 * (low + 1)) start d0
      let qs := sortBy (· ≤ ·) ((at_.filter (·.fen == f)).map (·.q))
      let q := match tget 0 d.qptr (f * 8 + p) with
        | 0 => qs.headD 0
        | n + 1 => nextAfter n qs
      (at_.find? (·.q == q)).map fun e =>
        (e, { d with deficit := d1, fptr := tset d.fptr p (f + 1), qptr := tset d.qptr (f * 8 + p) (q + 1) })

/-! ### Placing -/

/-- Place one step on a sub-core: its context becomes active, or is built in the shadow bank for the swap that brings it in at the
next group boundary (R343). -/
def placeOn (s : State) (die : Nat) (e : Elig) (n lo hi g : Nat) (pre : Bool) : State :=
  let (cid, s) := freshId s
  let prio := (queueOf s e.q).prio
  let c := stepCtx s e.l g cid n lo hi pre (min (queueOf s e.q).thresh prio)
  let s := modDie s die fun d => { d with lastSub := tset d.lastSub e.fen (g + 1) }
  if pre then modSub s g fun b => { b with shd := c }
  else
    let s := modSub s g fun b => { b with act := { c with erings := [] } }
    (c.erings.zipIdx 1).foldl (fun s (r, i) => setRing s (coreNo g) (engRing g i) r) s

/-- The launch with items taken: from those that wait to be placed again, or the next ones. -/
def taken (l : Launch) (ns : List Nat) : Launch :=
  match l.redo with
  | [] => { l with next := l.next + ns.length, live := l.live + ns.length }
  | _ => { l with redo := l.redo.filter (!ns.contains ·.1), live := l.live + ns.length }

/-- Carry out a walker's choice: `cost` units of the fen's deficit (R262). -/
def carryOut (s : State) (die : Nat) (e : Elig) (d : Die) : State :=
  let spend := fun (k : Nat) => { d with deficit := tmod 0 d.deficit (e.fen * 8 + e.prio) fun (x : Int) => x - (k : Int),
                                         placedAt := some s.clock, reserved := [], resFor := none }
  let (n0, lo, hi) := nextItem e.l
  match e.pick with
  | .one _ g pre => modLaunch (placeOn (setDie s die (spend 1)) die e n0 lo hi g pre) e.l.lid fun l => taken l [n0]
  | .gang spots =>
    let s := spots.foldl (fun s (n, g, pre) => placeOn s die e n 0 0 g pre) (setDie s die (spend spots.length))
    modLaunch s e.l.lid fun l => taken l (spots.map (·.1))
  | .reserve gs => setDie s die { d with reserved := gs, resFor := some e.l.lid }

/-- Reservations lapse when their launch has nothing left to place (R257). -/
def lapse (s : State) (die : Nat) : State :=
  match (dieOf s die).resFor with
  | some lid => if (match findLaunch s lid with | some (_, l) => hasWork l | none => false) then s
      else modDie s die fun d => { d with reserved := [], resFor := none }
  | none => s

/-- A walker acts when its choice is of the kind that `ok` names. -/
def walkerAct (s : State) (die : Nat) (ok : Pick → Bool) : State :=
  let s := lapse s die
  if mayPlace s die then
    match choose s die with
    | some (e, d) => if ok e.pick then carryOut s die e d else s
    | none => s
  else s

/-- PLACEMENT: the walker of a die places one step on a free sub-core. (R262, R263) -/
def execPlacement (die : Nat) (s : State) : Host.Outcome State Fault Refusal :=
  if 2 ≤ die then .fault .noSuchObject
  else .next (walkerAct s die fun p => match p with | .one _ _ pre => !pre | _ => false)

/-- GANG_PLACEMENT: the walker places every item of a gang in one act, or reserves what is free for it. (R257) -/
def execGangPlacement (die : Nat) (s : State) : Host.Outcome State Fault Refusal :=
  if 2 ≤ die then .fault .noSuchObject
  else .next (walkerAct s die fun p => match p with | .gang _ | .reserve _ => true | _ => false)

/-- PREEMPTION: the walker places a step on a victim, which a shadow swap displaces. (R264, R343) -/
def execPreemption (die : Nat) (s : State) : Host.Outcome State Fault Refusal :=
  if 2 ≤ die then .fault .noSuchObject
  else .next (walkerAct s die fun p => match p with | .one _ _ pre => pre | _ => false)

end Sys2Proof.Machine
end

