-- ==== Sys2Proof/Machine/Dispatch.lean ====
section
/-! DEFINITION. What each instruction does: one arm per constructor of `Instr`, each one direct call of its meaning. -/

namespace Sys2Proof.Machine

/-- The meaning of an instruction for the engine that the state's cursor names. -/
def exec (i : Instr) (s : State) : Host.Outcome State Fault Refusal :=
  match i with
  | .dly x0 => Sys2Proof.Machine.execDly x0 s
  | .br x0 => Sys2Proof.Machine.execBr x0 s
  | .beq x0 x1 x2 => Sys2Proof.Machine.execBeq x0 x1 x2 s
  | .bne x0 x1 x2 => Sys2Proof.Machine.execBne x0 x1 x2 s
  | .blt x0 x1 x2 => Sys2Proof.Machine.execBlt x0 x1 x2 s
  | .bge x0 x1 x2 => Sys2Proof.Machine.execBge x0 x1 x2 s
  | .bltu x0 x1 x2 => Sys2Proof.Machine.execBltu x0 x1 x2 s
  | .bgeu x0 x1 x2 => Sys2Proof.Machine.execBgeu x0 x1 x2 s
  | .bqt x0 => Sys2Proof.Machine.execBqt x0 s
  | .bqf x0 => Sys2Proof.Machine.execBqf x0 s
  | .jal x0 => Sys2Proof.Machine.execJal x0 s
  | .jr x0 => Sys2Proof.Machine.execJr x0 s
  | .loop x0 x1 x2 => Sys2Proof.Machine.execLoop x0 x1 x2 s
  | .loopi x0 x1 x2 => Sys2Proof.Machine.execLoopi x0 x1 x2 s
  | .adda x0 x1 x2 => Sys2Proof.Machine.execAdda x0 x1 x2 s
  | .suba x0 x1 x2 => Sys2Proof.Machine.execSuba x0 x1 x2 s
  | .addma x0 x1 x2 x3 => Sys2Proof.Machine.execAddma x0 x1 x2 x3 s
  | .addia x0 x1 x2 => Sys2Proof.Machine.execAddia x0 x1 x2 s
  | .andia x0 x1 x2 => Sys2Proof.Machine.execAndia x0 x1 x2 s
  | .sllia x0 x1 x2 => Sys2Proof.Machine.execSllia x0 x1 x2 s
  | .srlia x0 x1 x2 => Sys2Proof.Machine.execSrlia x0 x1 x2 s
  | .movia x0 x1 x2 => Sys2Proof.Machine.execMovia x0 x1 x2 s
  | .movka x0 x1 x2 => Sys2Proof.Machine.execMovka x0 x1 x2 s
  | .moval x0 x1 => Sys2Proof.Machine.execMoval x0 x1 s
  | .movla x0 x1 => Sys2Proof.Machine.execMovla x0 x1 s
  | .twait x0 x1 => Sys2Proof.Machine.execTwait x0 x1 s
  | .twaitReg x0 x1 => Sys2Proof.Machine.execTwaitReg x0 x1 s
  | .tpost x0 x1 => Sys2Proof.Machine.execTpost x0 x1 s
  | .tstat x0 x1 x2 => Sys2Proof.Machine.execTstat x0 x1 x2 s
  | .chk x0 x1 => Sys2Proof.Machine.execChk x0 x1 s
  | .selcShared x0 x1 x2 x3 => Sys2Proof.Machine.execSelcShared x0 x1 x2 x3 s
  | .pfx x0 x1 x2 x3 x4 x5 x6 x7 => Sys2Proof.Machine.execPfx x0 x1 x2 x3 x4 x5 x6 x7 s
  | .add x0 x1 x2 => Sys2Proof.Machine.execAdd x0 x1 x2 s
  | .sub x0 x1 x2 => Sys2Proof.Machine.execSub x0 x1 x2 s
  | .and x0 x1 x2 => Sys2Proof.Machine.execAnd x0 x1 x2 s
  | .or x0 x1 x2 => Sys2Proof.Machine.execOr x0 x1 x2 s
  | .xor x0 x1 x2 => Sys2Proof.Machine.execXor x0 x1 x2 s
  | .andn x0 x1 x2 => Sys2Proof.Machine.execAndn x0 x1 x2 s
  | .orn x0 x1 x2 => Sys2Proof.Machine.execOrn x0 x1 x2 s
  | .xnor x0 x1 x2 => Sys2Proof.Machine.execXnor x0 x1 x2 s
  | .sll x0 x1 x2 => Sys2Proof.Machine.execSll x0 x1 x2 s
  | .srl x0 x1 x2 => Sys2Proof.Machine.execSrl x0 x1 x2 s
  | .sra x0 x1 x2 => Sys2Proof.Machine.execSra x0 x1 x2 s
  | .rol x0 x1 x2 => Sys2Proof.Machine.execRol x0 x1 x2 s
  | .ror x0 x1 x2 => Sys2Proof.Machine.execRor x0 x1 x2 s
  | .mul x0 x1 x2 => Sys2Proof.Machine.execMul x0 x1 x2 s
  | .mulh x0 x1 x2 => Sys2Proof.Machine.execMulh x0 x1 x2 s
  | .mulhu x0 x1 x2 => Sys2Proof.Machine.execMulhu x0 x1 x2 s
  | .mulhsu x0 x1 x2 => Sys2Proof.Machine.execMulhsu x0 x1 x2 s
  | .div x0 x1 x2 => Sys2Proof.Machine.execDiv x0 x1 x2 s
  | .divu x0 x1 x2 => Sys2Proof.Machine.execDivu x0 x1 x2 s
  | .rem x0 x1 x2 => Sys2Proof.Machine.execRem x0 x1 x2 s
  | .remu x0 x1 x2 => Sys2Proof.Machine.execRemu x0 x1 x2 s
  | .min x0 x1 x2 => Sys2Proof.Machine.execMin x0 x1 x2 s
  | .max x0 x1 x2 => Sys2Proof.Machine.execMax x0 x1 x2 s
  | .minu x0 x1 x2 => Sys2Proof.Machine.execMinu x0 x1 x2 s
  | .maxu x0 x1 x2 => Sys2Proof.Machine.execMaxu x0 x1 x2 s
  | .slt x0 x1 x2 => Sys2Proof.Machine.execSlt x0 x1 x2 s
  | .sltu x0 x1 x2 => Sys2Proof.Machine.execSltu x0 x1 x2 s
  | .seq x0 x1 x2 => Sys2Proof.Machine.execSeq x0 x1 x2 s
  | .sne x0 x1 x2 => Sys2Proof.Machine.execSne x0 x1 x2 s
  | .addw x0 x1 x2 => Sys2Proof.Machine.execAddw x0 x1 x2 s
  | .subw x0 x1 x2 => Sys2Proof.Machine.execSubw x0 x1 x2 s
  | .sllw x0 x1 x2 => Sys2Proof.Machine.execSllw x0 x1 x2 s
  | .srlw x0 x1 x2 => Sys2Proof.Machine.execSrlw x0 x1 x2 s
  | .sraw x0 x1 x2 => Sys2Proof.Machine.execSraw x0 x1 x2 s
  | .mulw x0 x1 x2 => Sys2Proof.Machine.execMulw x0 x1 x2 s
  | .clmul x0 x1 x2 => Sys2Proof.Machine.execClmul x0 x1 x2 s
  | .clmulh x0 x1 x2 => Sys2Proof.Machine.execClmulh x0 x1 x2 s
  | .clz x0 x1 => Sys2Proof.Machine.execClz x0 x1 s
  | .ctz x0 x1 => Sys2Proof.Machine.execCtz x0 x1 s
  | .popc x0 x1 => Sys2Proof.Machine.execPopc x0 x1 s
  | .brev x0 x1 => Sys2Proof.Machine.execBrev x0 x1 s
  | .bswap x0 x1 => Sys2Proof.Machine.execBswap x0 x1 s
  | .sextb x0 x1 => Sys2Proof.Machine.execSextb x0 x1 s
  | .sexth x0 x1 => Sys2Proof.Machine.execSexth x0 x1 s
  | .sextw x0 x1 => Sys2Proof.Machine.execSextw x0 x1 s
  | .addi x0 x1 x2 => Sys2Proof.Machine.execAddi x0 x1 x2 s
  | .andi x0 x1 x2 => Sys2Proof.Machine.execAndi x0 x1 x2 s
  | .ori x0 x1 x2 => Sys2Proof.Machine.execOri x0 x1 x2 s
  | .xori x0 x1 x2 => Sys2Proof.Machine.execXori x0 x1 x2 s
  | .slli x0 x1 x2 => Sys2Proof.Machine.execSlli x0 x1 x2 s
  | .srli x0 x1 x2 => Sys2Proof.Machine.execSrli x0 x1 x2 s
  | .srai x0 x1 x2 => Sys2Proof.Machine.execSrai x0 x1 x2 s
  | .rori x0 x1 x2 => Sys2Proof.Machine.execRori x0 x1 x2 s
  | .slti x0 x1 x2 => Sys2Proof.Machine.execSlti x0 x1 x2 s
  | .sltiu x0 x1 x2 => Sys2Proof.Machine.execSltiu x0 x1 x2 s
  | .movw x0 x1 x2 => Sys2Proof.Machine.execMovw x0 x1 x2 s
  | .movk x0 x1 x2 => Sys2Proof.Machine.execMovk x0 x1 x2 s
  | .sel x0 x1 x2 x3 => Sys2Proof.Machine.execSel x0 x1 x2 x3 s
  | .selc x0 x1 x2 x3 => Sys2Proof.Machine.execSelc x0 x1 x2 x3 s
  | .kset x0 x1 => Sys2Proof.Machine.execKset x0 x1 s
  | .kget x0 x1 => Sys2Proof.Machine.execKget x0 x1 s
  | .ldb x0 x1 x2 x3 x4 => Sys2Proof.Machine.execLdb x0 x1 x2 x3 x4 s
  | .stb x0 x1 x2 x3 x4 => Sys2Proof.Machine.execStb x0 x1 x2 x3 x4 s
  | .ldScratch x0 x1 x2 x3 x4 x5 => Sys2Proof.Machine.execLdScratch x0 x1 x2 x3 x4 x5 s
  | .ldxScratch x0 x1 x2 x3 x4 x5 => Sys2Proof.Machine.execLdxScratch x0 x1 x2 x3 x4 x5 s
  | .stScratch x0 x1 x2 x3 x4 => Sys2Proof.Machine.execStScratch x0 x1 x2 x3 x4 s
  | .ldState x0 x1 x2 x3 x4 x5 => Sys2Proof.Machine.execLdState x0 x1 x2 x3 x4 x5 s
  | .stState x0 x1 x2 x3 x4 => Sys2Proof.Machine.execStState x0 x1 x2 x3 x4 s
  | .ldHandle x0 x1 x2 x3 x4 x5 => Sys2Proof.Machine.execLdHandle x0 x1 x2 x3 x4 x5 s
  | .ldxHandle x0 x1 x2 x3 x4 x5 => Sys2Proof.Machine.execLdxHandle x0 x1 x2 x3 x4 x5 s
  | .stHandle x0 x1 x2 x3 x4 => Sys2Proof.Machine.execStHandle x0 x1 x2 x3 x4 s
  | .amo32 x0 x1 x2 x3 x4 => Sys2Proof.Machine.execAmo32 x0 x1 x2 x3 x4 s
  | .amo64 x0 x1 x2 x3 x4 => Sys2Proof.Machine.execAmo64 x0 x1 x2 x3 x4 s
  | .amoh32 x0 x1 x2 x3 x4 => Sys2Proof.Machine.execAmoh32 x0 x1 x2 x3 x4 s
  | .amoh64 x0 x1 x2 x3 x4 => Sys2Proof.Machine.execAmoh64 x0 x1 x2 x3 x4 s
  | .red32 x0 x1 x2 x3 x4 => Sys2Proof.Machine.execRed32 x0 x1 x2 x3 x4 s
  | .red64 x0 x1 x2 x3 x4 => Sys2Proof.Machine.execRed64 x0 x1 x2 x3 x4 s
  | .redh32 x0 x1 x2 x3 x4 => Sys2Proof.Machine.execRedh32 x0 x1 x2 x3 x4 s
  | .redh64 x0 x1 x2 x3 x4 => Sys2Proof.Machine.execRedh64 x0 x1 x2 x3 x4 s
  | .fence x0 x1 x2 => Sys2Proof.Machine.execFence x0 x1 x2 s
  | .publ x0 => Sys2Proof.Machine.execPubl x0 s
  | .trn x0 x1 x2 x3 => Sys2Proof.Machine.execTrn x0 x1 x2 x3 s
  | .hmov x0 x1 => Sys2Proof.Machine.execHmov x0 x1 s
  | .hrd x0 x1 => Sys2Proof.Machine.execHrd x0 x1 s
  | .hwr x0 x1 => Sys2Proof.Machine.execHwr x0 x1 s
  | .hnarrow x0 x1 x2 => Sys2Proof.Machine.execHnarrow x0 x1 x2 s
  | .hrev x0 => Sys2Proof.Machine.execHrev x0 s
  | .rclaim x0 x1 x2 => Sys2Proof.Machine.execRclaim x0 x1 x2 s
  | .rcommit x0 x1 => Sys2Proof.Machine.execRcommit x0 x1 s
  | .rwaitf x0 x1 => Sys2Proof.Machine.execRwaitf x0 x1 s
  | .rwaite x0 x1 => Sys2Proof.Machine.execRwaite x0 x1 s
  | .rrel x0 x1 => Sys2Proof.Machine.execRrel x0 x1 s
  | .rtail x0 x1 => Sys2Proof.Machine.execRtail x0 x1 s
  | .cpush x0 x1 => Sys2Proof.Machine.execCpush x0 x1 s
  | .qpush x0 x1 => Sys2Proof.Machine.execQpush x0 x1 s
  | .qpop x0 x1 => Sys2Proof.Machine.execQpop x0 x1 s
  | .bqpush x0 => Sys2Proof.Machine.execBqpush x0 s
  | .park x0 x1 x2 => Sys2Proof.Machine.execPark x0 x1 x2 s
  | .mlease x0 => Sys2Proof.Machine.execMlease x0 s
  | .slease x0 => Sys2Proof.Machine.execSlease x0 s
  | .rand x0 x1 => Sys2Proof.Machine.execRand x0 x1 s
  | .frmLd x0 x1 x2 => Sys2Proof.Machine.execFrmLd x0 x1 x2 s
  | .frmSt x0 x1 x2 => Sys2Proof.Machine.execFrmSt x0 x1 x2 s
  | .frmSnap x0 x1 x2 => Sys2Proof.Machine.execFrmSnap x0 x1 x2 s
  | .frmFork x0 x1 => Sys2Proof.Machine.execFrmFork x0 x1 s
  | .frmRbk x0 x1 x2 => Sys2Proof.Machine.execFrmRbk x0 x1 x2 s
  | .frmFind x0 x1 => Sys2Proof.Machine.execFrmFind x0 x1 s
  | .frmFindv x0 x1 x2 => Sys2Proof.Machine.execFrmFindv x0 x1 x2 s
  | .csrr x0 x1 => Sys2Proof.Machine.execCsrr x0 x1 s
  | .csrw x0 x1 => Sys2Proof.Machine.execCsrw x0 x1 s
  | .cntr x0 x1 => Sys2Proof.Machine.execCntr x0 x1 s
  | .wget x0 => Sys2Proof.Machine.execWget x0 s
  | .wsteal x0 x1 => Sys2Proof.Machine.execWsteal x0 x1 s
  | .wbar x0 => Sys2Proof.Machine.execWbar x0 s
  | .lnch x0 x1 => Sys2Proof.Machine.execLnch x0 x1 s
  | .trap x0 => Sys2Proof.Machine.execTrap x0 s
  | .bz x0 x1 => Sys2Proof.Machine.execBz x0 x1 s
  | .bnz x0 x1 => Sys2Proof.Machine.execBnz x0 x1 s
  | .vadd x0 x1 x2 x3 => Sys2Proof.Machine.execVadd x0 x1 x2 x3 s
  | .vsub x0 x1 x2 x3 => Sys2Proof.Machine.execVsub x0 x1 x2 x3 s
  | .vmul x0 x1 x2 x3 => Sys2Proof.Machine.execVmul x0 x1 x2 x3 s
  | .vfma x0 x1 x2 x3 => Sys2Proof.Machine.execVfma x0 x1 x2 x3 s
  | .vfms x0 x1 x2 x3 => Sys2Proof.Machine.execVfms x0 x1 x2 x3 s
  | .vfnma x0 x1 x2 x3 => Sys2Proof.Machine.execVfnma x0 x1 x2 x3 s
  | .vmin x0 x1 x2 x3 => Sys2Proof.Machine.execVmin x0 x1 x2 x3 s
  | .vmax x0 x1 x2 x3 => Sys2Proof.Machine.execVmax x0 x1 x2 x3 s
  | .vabs x0 x1 x2 => Sys2Proof.Machine.execVabs x0 x1 x2 s
  | .vneg x0 x1 x2 => Sys2Proof.Machine.execVneg x0 x1 x2 s
  | .vexp2 x0 x1 x2 => Sys2Proof.Machine.execVexp2 x0 x1 x2 s
  | .vlog2 x0 x1 x2 => Sys2Proof.Machine.execVlog2 x0 x1 x2 s
  | .vrcp x0 x1 x2 => Sys2Proof.Machine.execVrcp x0 x1 x2 s
  | .vrsq x0 x1 x2 => Sys2Proof.Machine.execVrsq x0 x1 x2 s
  | .vsqrt x0 x1 x2 => Sys2Proof.Machine.execVsqrt x0 x1 x2 s
  | .vfloor x0 x1 x2 => Sys2Proof.Machine.execVfloor x0 x1 x2 s
  | .vceil x0 x1 x2 => Sys2Proof.Machine.execVceil x0 x1 x2 s
  | .vrint x0 x1 x2 => Sys2Proof.Machine.execVrint x0 x1 x2 s
  | .vcmp x0 x1 x2 x3 x4 => Sys2Proof.Machine.execVcmp x0 x1 x2 x3 x4 s
  | .vsel x0 x1 x2 x3 => Sys2Proof.Machine.execVsel x0 x1 x2 x3 s
  | .vselc x0 x1 x2 x3 => Sys2Proof.Machine.execVselc x0 x1 x2 x3 s
  | .viadd x0 x1 x2 x3 x4 => Sys2Proof.Machine.execViadd x0 x1 x2 x3 x4 s
  | .visub x0 x1 x2 x3 x4 => Sys2Proof.Machine.execVisub x0 x1 x2 x3 x4 s
  | .vimul x0 x1 x2 x3 => Sys2Proof.Machine.execVimul x0 x1 x2 x3 s
  | .vimulh x0 x1 x2 x3 => Sys2Proof.Machine.execVimulh x0 x1 x2 x3 s
  | .vimulhu x0 x1 x2 x3 => Sys2Proof.Machine.execVimulhu x0 x1 x2 x3 s
  | .vand x0 x1 x2 x3 => Sys2Proof.Machine.execVand x0 x1 x2 x3 s
  | .vor x0 x1 x2 x3 => Sys2Proof.Machine.execVor x0 x1 x2 x3 s
  | .vxor x0 x1 x2 x3 => Sys2Proof.Machine.execVxor x0 x1 x2 x3 s
  | .vandn x0 x1 x2 x3 => Sys2Proof.Machine.execVandn x0 x1 x2 x3 s
  | .vshl x0 x1 x2 x3 => Sys2Proof.Machine.execVshl x0 x1 x2 x3 s
  | .vshr x0 x1 x2 x3 => Sys2Proof.Machine.execVshr x0 x1 x2 x3 s
  | .vsra x0 x1 x2 x3 => Sys2Proof.Machine.execVsra x0 x1 x2 x3 s
  | .vimin x0 x1 x2 x3 => Sys2Proof.Machine.execVimin x0 x1 x2 x3 s
  | .vimax x0 x1 x2 x3 => Sys2Proof.Machine.execVimax x0 x1 x2 x3 s
  | .viminu x0 x1 x2 x3 => Sys2Proof.Machine.execViminu x0 x1 x2 x3 s
  | .vimaxu x0 x1 x2 x3 => Sys2Proof.Machine.execVimaxu x0 x1 x2 x3 s
  | .vcvt x0 x1 x2 x3 x4 => Sys2Proof.Machine.execVcvt x0 x1 x2 x3 x4 s
  | .vqblk x0 x1 x2 x3 => Sys2Proof.Machine.execVqblk x0 x1 x2 x3 s
  | .vdqblk x0 x1 x2 x3 => Sys2Proof.Machine.execVdqblk x0 x1 x2 x3 s
  | .vpsum x0 x1 x2 => Sys2Proof.Machine.execVpsum x0 x1 x2 s
  | .vpsumx x0 x1 x2 => Sys2Proof.Machine.execVpsumx x0 x1 x2 s
  | .vpmax x0 x1 x2 => Sys2Proof.Machine.execVpmax x0 x1 x2 s
  | .vpxor x0 x1 x2 => Sys2Proof.Machine.execVpxor x0 x1 x2 s
  | .vredsum x0 x1 x2 => Sys2Proof.Machine.execVredsum x0 x1 x2 s
  | .vredmax x0 x1 x2 => Sys2Proof.Machine.execVredmax x0 x1 x2 s
  | .vredmin x0 x1 x2 => Sys2Proof.Machine.execVredmin x0 x1 x2 s
  | .vredsq x0 x1 x2 => Sys2Proof.Machine.execVredsq x0 x1 x2 s
  | .vtopk x0 x1 x2 x3 x4 => Sys2Proof.Machine.execVtopk x0 x1 x2 x3 x4 s
  | .vperm x0 x1 x2 x3 => Sys2Proof.Machine.execVperm x0 x1 x2 x3 s
  | .vrot x0 x1 x2 => Sys2Proof.Machine.execVrot x0 x1 x2 s
  | .vwin x0 x1 x2 => Sys2Proof.Machine.execVwin x0 x1 x2 s
  | .vsmax x0 x1 x2 x3 => Sys2Proof.Machine.execVsmax x0 x1 x2 x3 s
  | .vld x0 x1 x2 x3 => Sys2Proof.Machine.execVld x0 x1 x2 x3 s
  | .vst x0 x1 x2 x3 => Sys2Proof.Machine.execVst x0 x1 x2 x3 s
  | .vldState x0 x1 x2 x3 => Sys2Proof.Machine.execVldState x0 x1 x2 x3 s
  | .vstState x0 x1 x2 x3 => Sys2Proof.Machine.execVstState x0 x1 x2 x3 s
  | .vpopq x0 x1 x2 => Sys2Proof.Machine.execVpopq x0 x1 x2 s
  | .vpushq x0 x1 x2 => Sys2Proof.Machine.execVpushq x0 x1 x2 s
  | .vsplat x0 x1 x2 => Sys2Proof.Machine.execVsplat x0 x1 x2 s
  | .vmov x0 x1 x2 => Sys2Proof.Machine.execVmov x0 x1 x2 s
  | .vrxpop x0 => Sys2Proof.Machine.execVrxpop x0 s
  | .statusWrite x0 => Sys2Proof.Machine.execStatusWrite x0 s
  | .fadeflWrite x0 => Sys2Proof.Machine.execFadeflWrite x0 s
  | .fadedefWrite x0 => Sys2Proof.Machine.execFadedefWrite x0 s
  | .rdcfgWrite x0 => Sys2Proof.Machine.execRdcfgWrite x0 s
  | .cntcfgWrite x0 => Sys2Proof.Machine.execCntcfgWrite x0 s
  | .qcfgWrite x0 => Sys2Proof.Machine.execQcfgWrite x0 s
  | .fencfgWrite x0 => Sys2Proof.Machine.execFencfgWrite x0 s
  | .regrateWrite x0 => Sys2Proof.Machine.execRegrateWrite x0 s
  | .olctlWrite x0 => Sys2Proof.Machine.execOlctlWrite x0 s
  | .fcopy x0 => Sys2Proof.Machine.execFcopy x0 s
  | .fgath x0 => Sys2Proof.Machine.execFgath x0 s
  | .fxfm x0 => Sys2Proof.Machine.execFxfm x0 s
  | .cbload x0 => Sys2Proof.Machine.execCbload x0 s
  | .fcrc x0 => Sys2Proof.Machine.execFcrc x0 s
  | .scopy x0 => Sys2Proof.Machine.execScopy x0 s
  | .sscat x0 => Sys2Proof.Machine.execSscat x0 s
  | .sreds x0 => Sys2Proof.Machine.execSreds x0 s
  | .smcast x0 => Sys2Proof.Machine.execSmcast x0 s
  | .scrc x0 => Sys2Proof.Machine.execScrc x0 s
  | .mldw x0 => Sys2Proof.Machine.execMldw x0 s
  | .mstrm x0 => Sys2Proof.Machine.execMstrm x0 s
  | .mswap x0 => Sys2Proof.Machine.execMswap x0 s
  | .mdrain x0 => Sys2Proof.Machine.execMdrain x0 s
  | .mzero x0 => Sys2Proof.Machine.execMzero x0 s
  | .mcvt x0 => Sys2Proof.Machine.execMcvt x0 s
  | .scand x0 => Sys2Proof.Machine.execScand x0 s
  | .scanm x0 => Sys2Proof.Machine.execScanm x0 s
  | .semit x0 => Sys2Proof.Machine.execSemit x0 s
  | .scmpct x0 => Sys2Proof.Machine.execScmpct x0 s
  | .nop => Sys2Proof.Machine.execNop s
  | .ret => Sys2Proof.Machine.execRet s
  | .estop => Sys2Proof.Machine.execEstop s
  | .mrel => Sys2Proof.Machine.execMrel s
  | .srel => Sys2Proof.Machine.execSrel s
  | .wdone => Sys2Proof.Machine.execWdone s
  | .eret => Sys2Proof.Machine.execEret s
  | .swapx => Sys2Proof.Machine.execSwapx s
  | .reductionApplied x0 => Sys2Proof.Machine.execReductionApplied x0 s
  | .walk x0 => Sys2Proof.Machine.execWalk x0 s
  | .leaseGrant x0 x1 => Sys2Proof.Machine.execLeaseGrant x0 x1 s
  | .resultLands x0 x1 => Sys2Proof.Machine.execResultLands x0 x1 s
  | .operationCompletes x0 => Sys2Proof.Machine.execOperationCompletes x0 s
  | .waitEnds x0 x1 => Sys2Proof.Machine.execWaitEnds x0 x1 s
  | .transferRecordBegins x0 x1 => Sys2Proof.Machine.execTransferRecordBegins x0 x1 s
  | .transferRecordCompletes x0 => Sys2Proof.Machine.execTransferRecordCompletes x0 s
  | .commandBegins x0 x1 => Sys2Proof.Machine.execCommandBegins x0 x1 s
  | .commandCompletes x0 x1 => Sys2Proof.Machine.execCommandCompletes x0 x1 s
  | .trapTaken x0 x1 x2 x3 x4 => Sys2Proof.Machine.execTrapTaken x0 x1 x2 x3 x4 s
  | .shadowSwap x0 => Sys2Proof.Machine.execShadowSwap x0 s
  | .spillDone x0 => Sys2Proof.Machine.execSpillDone x0 s
  | .contextFill x0 => Sys2Proof.Machine.execContextFill x0 s
  | .launchStart x0 => Sys2Proof.Machine.execLaunchStart x0 s
  | .refusedLaunch x0 => Sys2Proof.Machine.execRefusedLaunch x0 s
  | .placement x0 => Sys2Proof.Machine.execPlacement x0 s
  | .gangPlacement x0 => Sys2Proof.Machine.execGangPlacement x0 s
  | .preemption x0 => Sys2Proof.Machine.execPreemption x0 s
  | .withdrawal x0 x1 => Sys2Proof.Machine.execWithdrawal x0 x1 s
  | .launchEnd x0 => Sys2Proof.Machine.execLaunchEnd x0 s
  | .completionRecord x0 => Sys2Proof.Machine.execCompletionRecord x0 s
  | .watchdogExpiry x0 => Sys2Proof.Machine.execWatchdogExpiry x0 s
  | .copyRecord x0 => Sys2Proof.Machine.execCopyRecord x0 s
  | .mereExtension x0 => Sys2Proof.Machine.execMereExtension x0 s
  | .packetApplied x0 => Sys2Proof.Machine.execPacketApplied x0 s
  | .creditReturn x0 x1 => Sys2Proof.Machine.execCreditReturn x0 x1 s
  | .timeoutFires x0 => Sys2Proof.Machine.execTimeoutFires x0 s
  | .wispCapture x0 => Sys2Proof.Machine.execWispCapture x0 s
  | .sloughArrival x0 => Sys2Proof.Machine.execSloughArrival x0 s
  | .flitRetry x0 x1 => Sys2Proof.Machine.execFlitRetry x0 x1 s
  | .ringEntryDelivered x0 x1 => Sys2Proof.Machine.execRingEntryDelivered x0 x1 s
  | .peerLinkUp x0 => Sys2Proof.Machine.execPeerLinkUp x0 s
  | .peerLinkDown x0 => Sys2Proof.Machine.execPeerLinkDown x0 s
  | .held x0 => Sys2Proof.Machine.execHeld x0 s
  | .xinvFlush x0 x1 => Sys2Proof.Machine.execXinvFlush x0 x1 s
  | .xinvRevoke x0 x1 => Sys2Proof.Machine.execXinvRevoke x0 x1 s
  | .xinvSuspend x0 x1 => Sys2Proof.Machine.execXinvSuspend x0 x1 s
  | .xinvResume x0 x1 => Sys2Proof.Machine.execXinvResume x0 x1 s
  | .registerWrite x0 x1 x2 => Sys2Proof.Machine.execRegisterWrite x0 x1 x2 s
  | .sessionRegisterWrite x0 x1 x2 => Sys2Proof.Machine.execSessionRegisterWrite x0 x1 x2 s
  | .queueConfigWrite x0 x1 x2 x3 => Sys2Proof.Machine.execQueueConfigWrite x0 x1 x2 x3 s
  | .qkick x0 x1 x2 => Sys2Proof.Machine.execQkick x0 x1 x2 s
  | .stampRetry x0 => Sys2Proof.Machine.execStampRetry x0 s
  | .qpoll x0 => Sys2Proof.Machine.execQpoll x0 s
  | .chead x0 x1 x2 => Sys2Proof.Machine.execChead x0 x1 x2 s
  | .scrkick x0 x1 => Sys2Proof.Machine.execScrkick x0 x1 s
  | .sevhead x0 x1 => Sys2Proof.Machine.execSevhead x0 x1 s
  | .evhead x0 => Sys2Proof.Machine.execEvhead x0 s
  | .create x0 x1 => Sys2Proof.Machine.execCreate x0 x1 s
  | .append x0 x1 => Sys2Proof.Machine.execAppend x0 x1 s
  | .close x0 x1 => Sys2Proof.Machine.execClose x0 x1 s
  | .enable x0 x1 => Sys2Proof.Machine.execEnable x0 x1 s
  | .fcreate x0 x1 => Sys2Proof.Machine.execFcreate x0 x1 s
  | .ffree x0 x1 => Sys2Proof.Machine.execFfree x0 x1 s
  | .sdrop x0 x1 => Sys2Proof.Machine.execSdrop x0 x1 s
  | .sessionAge x0 x1 => Sys2Proof.Machine.execSessionAge x0 x1 s
  | .batchForm x0 x1 => Sys2Proof.Machine.execBatchForm x0 x1 s
  | .storeBack x0 x1 x2 => Sys2Proof.Machine.execStoreBack x0 x1 x2 s
  | .fenform x0 => Sys2Proof.Machine.execFenform x0 s
  | .fenend x0 => Sys2Proof.Machine.execFenend x0 s
  | .coremove x0 => Sys2Proof.Machine.execCoremove x0 s
  | .peerlink x0 => Sys2Proof.Machine.execPeerlink x0 s
  | .regset x0 => Sys2Proof.Machine.execRegset x0 s
  | .attest x0 => Sys2Proof.Machine.execAttest x0 s
  | .health x0 => Sys2Proof.Machine.execHealth x0 s
  | .svnraise x0 => Sys2Proof.Machine.execSvnraise x0 s
  | .scrubPoint x0 => Sys2Proof.Machine.execScrubPoint x0 s
  | .joining x0 => Sys2Proof.Machine.execJoining x0 s
  | .member x0 => Sys2Proof.Machine.execMember x0 s
  | .boot => Sys2Proof.Machine.execBoot s
  | .bankRetention x0 x1 => Sys2Proof.Machine.execBankRetention x0 x1 s
  | .limiterWindow x0 => Sys2Proof.Machine.execLimiterWindow x0 s
  | .marginReport x0 x1 => Sys2Proof.Machine.execMarginReport x0 x1 s
  | .voltageAdjust x0 => Sys2Proof.Machine.execVoltageAdjust x0 s
  | .sramError x0 x1 x2 => Sys2Proof.Machine.execSramError x0 x1 x2 s
  | .reservedSessionCommand x0 x1 => Sys2Proof.Machine.execReservedSessionCommand x0 x1 s
  | .reservedManagementRequest x0 => Sys2Proof.Machine.execReservedManagementRequest x0 s

end Sys2Proof.Machine
end

