-- ==== Sys2Proof/Machine/Issue.lean ====
section
/-! DEFINITION. One engine's turn in a clock: it delivers a standing fault, freezes, waits, or issues its next group (R36, R90,
R99, R100, R229, R235 to R237, R294, R324 to R327, R331, R346). -/

namespace Sys2Proof.Machine
open Sys2Proof

/-! ### Running the members of a group -/

/-- The cursor on the next group of engine `e` of sub-core `g`. -/
def atGroup (s : State) (g e : Nat) : State :=
  let pc := (engOf (ctxOf s g) e).pc
  { s with cur := { g, e, grp := pc, addr := pc, next := pc, mark := s.fresh } }

/-- Run one word of the group. A word has a meaning in every state; only ill-formed event terms stop. -/
def runWord (s : State) (m : Nat × Instr) : State :=
  match exec m.2 { s with cur := { s.cur with addr := m.1 } } with
  | .next t => t
  | .fault _ | .refused _ => s

/-- Run a word with its prefix. -/
def runUnit (s : State) (u : List (Nat × Instr)) : State :=
  u.foldl runWord { s with cur := { s.cur with pfx := {}, hold := .go } }

/-- Loads of the sequencer: a group's loads are issued before its other words (R127). -/
def isLoadWord : Instr → Bool
  | .ldScratch _ _ _ _ _ _ | .ldxScratch _ _ _ _ _ _ | .ldState _ _ _ _ _ _ | .ldb _ _ _ _ _ | .ldHandle _ _ _ _ _ _ |
    .ldxHandle _ _ _ _ _ _ => true
  | _ => false

/-- The word of a unit, after its prefix. -/
def wordOf (u : List (Nat × Instr)) : Option Instr := u.getLast?.map (·.2)
def isLoadUnit (u : List (Nat × Instr)) : Bool := (wordOf u).any isLoadWord

/-- The register that a posting word makes pending (R103). -/
def postedBy (u : List (Nat × Instr)) : Option Dest :=
  match wordOf u with
  | some (.ldHandle d _ _ _ _ _) | some (.ldxHandle d _ _ _ _ _) | some (.amo32 d _ _ _ _) | some (.amo64 d _ _ _ _) |
    some (.amoh32 d _ _ _ _) | some (.amoh64 d _ _ _ _) | some (.frmLd d _ _) | some (.frmSt d _ _) | some (.frmSnap d _ _) |
    some (.frmFork d _) | some (.frmRbk d _ _) | some (.frmFind d _) | some (.frmFindv d _ _) => some (.s d.toNat)
  | some (.trn d _ _ _) => if 2 ≤ u.length then some (.h d.toNat) else none
  | _ => none

/-- What running the members has given so far: the state, the units that something held, and the registers that posting words make
pending once every member has read its operands and the group's TWAIT has cleared the tags that it covers (R36, R103, R240). -/
structure Run where
  st : State
  holds : List (List (Nat × Instr) × Hold) := []
  posts : List (Dest × Nat) := []

/-- The engine holds, for its waiting words, what it holds in `t`. -/
def withHeld (s t : State) : State := modCurEng s fun x => { x with held := (curEng t).held }

/-- The operand that a waiting word has read stays read while the group waits for another member; a request that leaves the engine
(WSTEAL, XINV) is made only by the member that the group waits for (R104, R237). -/
def keepsOperand : Hold → Bool
  | .wait (.steal _ _) | .wait (.xinv _ _ _ _) => false
  | .wait _ => true
  | _ => false

/-- Run the next member. A load leaves its destination's pending tag to the end of the group; a member that is held leaves the
state as it was. -/
def runMember (r : Run) (u : List (Nat × Instr)) : Run :=
  let t := runUnit r.st u
  match t.cur.hold with
  | .go =>
    { r with st := if isLoadUnit u then modCur t fun c => { c with s := (curCtx r.st).s } else t,
             posts := r.posts ++ ((postedBy u).map fun d => (d, t.cur.pfx.token)).toList }
  | h => { r with st := if keepsOperand h then withHeld r.st t else r.st, holds := r.holds ++ [(u, h)] }

/-- A unit that reads a system register or a counter as it stands before its clock (R224, R225). -/
def isViewUnit (u : List (Nat × Instr)) : Bool :=
  (wordOf u).any fun i => match i with | .csrr _ _ | .cntr _ _ => true | _ => false

/-- Run the members: what looks at registers and counters, then the loads, then the others in word order (R36, R224, R225). -/
def runMembers (s : State) (us : List (List (Nat × Instr))) : Run :=
  let (vw, rest) := us.partition isViewUnit
  let (ld, other) := rest.partition isLoadUnit
  (vw ++ ld ++ other).foldl runMember { st := s }

/-! ### Banks (R238, R397) -/

/-- The lines that the next group of sub-core `h`'s sequencer would need, had it its turn now; none if it would not issue. -/
def nextLines (s : State) (h : Nat) : List (Nat × Nat) :=
  let x := engOf (ctxOf s h) 0
  let t := atGroup s h 0
  if x.stopped || x.wait.isSome || 0 < x.idle || 0 < x.dly || s.clock < x.wakeAt then []
  else match groupAhead t with
    | .group ms _ _ =>
      let r := runMembers t (unitsOf ms)
      if r.holds.isEmpty then r.st.cur.lines else []
    | _ => []

/-- A sequencer of the core whose turn is still to come has the better place in this clock and needs one of the banks (R238). -/
def outranked (s : State) (ls : List (Nat × Nat)) : Bool :=
  let g := s.cur.g
  s.turn.any fun (h, e) =>
    e == 0 && coreNo h == coreNo g && turnRank s h < turnRank s g &&
      (let other := nextLines s h
       other.any (fun p => ls.any fun q => p.1 == q.1) && !bankLost s (coreNo h, 16 * h + 8, other))

/-- A group that makes no access of its core's banks issues at once. -/
def banksFree (r : Run) : Bool := r.st.cur.lines.isEmpty

/-- Bank arbitration of a group that would issue: it issues, or its engine freezes for this clock. A group that needs several lines of one
bank loses a clock for each but the last (R238, R397). -/
def arbitrate (s : State) (r : Run) : Except State Run :=
  let ls := r.st.cur.lines
  let need : Need := (curCore s, 16 * s.cur.g + 8, ls)
  let wait := withHeld s r.st
  if banksFree r then .ok r
  else if (curEng s).bankAt.isNone && 0 < selfLoss ls then
    .error (freeze (modCurEng (wakeBanks wait need) fun x => { x with bankAt := some (s.clock + selfLoss ls) }))
  else if outranked s ls || bankLost s need then .error (freeze (wakeBanks wait need))
  else .ok { r with st := takeBanks r.st need }

/-! ### The end test (R99, R100) -/

/-- A record of four words. -/
def isRecord (i : Instr) : Bool := match i.home with | .record _ => true | _ => false

/-- Addresses of a group's words before its last. -/
def innerWords (ms : List (Nat × Instr)) (last : Nat) : List Nat :=
  (ms.flatMap fun m => if isRecord m.2 then [m.1, m.1 + 4, m.1 + 8] else [m.1]).filter (· != last)

/-- A group ends in LOOP or LOOPI. -/
def endsInLoop (ms : List (Nat × Instr)) : Bool :=
  match wordOf ms with
  | some (.loop _ _ _) | some (.loopi _ _ _) => true
  | _ => false

/-- What the end test of a group finds, before any effect of it. -/
def groupEnd (s : State) (ms : List (Nat × Instr)) (last : Nat) : LoopEnd :=
  let x := curEng s
  let here := loopsEnding x last
  if x.l.any fun (_, l) => l.count != 0#32 && (innerWords ms last).contains l.last then .trap .loopform 0#64
  else if here = [] then .none
  else if endsInLoop ms then .trap .loopform 0#64
  else endTest here x.l

/-! ### What becomes of the group -/

/-- Address of a unit. -/
def unitAddr (u : List (Nat × Instr)) : Nat := match u with | m :: _ => m.1 | [] => 0

/-- The engine waits: the member that the group waits for acts on the state before the group. -/
def groupWaits (s base : State) (u : List (Nat × Instr)) (w : Wait) : State :=
  let mine := u.map (·.1)
  let b := modCurEng base fun x =>
    { x with held := (x.held.filter fun (a, _) => !mine.contains a) ++ (curEng s).held.filter fun (a, _) => mine.contains a }
  let t := runUnit b u
  match t.cur.hold with
  | .wait _ => t
  | _ => waitOn b w

/-- The engine freezes at a member of the group. -/
def groupFreezes (base : State) (u : List (Nat × Instr)) : State :=
  let t := runUnit base u
  match t.cur.hold with
  | .freeze => t
  | _ => freeze base

/-- A trap that a member, or the end test, asks for. -/
structure Ask where
  unit : Option (List (Nat × Instr))
  c : Cause
  tval : Word
  sw : BitVec 16
  frec : Option (Word × Word × Word × Word)

/-- The trap of highest priority, the first in word order on a tie (R90, R329). -/
def worstAsk : List Ask → Option Ask
  | [] => none
  | a :: r =>
    match worstAsk r with
    | none => some a
    | some b => if causePrio b.c < causePrio a.c then some b else some a

/-- The group traps: nothing of it takes effect (R331). -/
def groupTraps (s : State) (a : Ask) : State :=
  let plain := trapWith { s with cur := { s.cur with pfx := {}, hold := .go } } a.c a.tval a.sw a.frec
  match a.unit with
  | none => plain
  | some u =>
    let t := runUnit s u
    match t.cur.hold with
    | .trap c _ _ _ => if c = a.c then t else plain
    | _ => plain

/-- Where a fed ring is read after a group: past the slots whose last group has issued, or at the slot of a taken transfer (R294). -/
def moveHead (s0 s : State) (len : Nat) (moved : Bool) : State :=
  let k := curCore s0
  let b := engRing s0.cur.g s0.cur.e
  let r0 := ringOf s0 k b
  if s0.cur.e = 0 || r0.kind ≠ 3#2 then s
  else
    let n := max 1 r0.count.toNat
    let slot := fun (a : Nat) => (a - r0.base.toNat) / 16 % n
    let p := slotPos r0 s0.cur.grp
    let h := if moved then p + (slot (curEng s).pc + n - slot s0.cur.grp) % n else p + (s0.cur.grp % 16 + len) / 16
    settleHead (setRing s k b { ringOf s k b with pos := h }) s0.cur.g s0.cur.e

/-- Every member has issued: pending tags, the end test, the next address, and the clocks before the next group (R99, R229, R240).
The TWAIT of the group covers none of the group's own posting words, which do not issue before it (R103). A MOVLA of the group lands
at the end of the clock, over the count that the end test wrote (DESIGN CHOICE, log 90). Where the last word is to issue again by itself,
that word's group makes the end test (log 59). -/
def groupIssues (s0 : State) (r : Run) (ends : LoopEnd) (len : Nat) : State :=
  let s := r.st
  let fen := curFen s0
  let s := countEv s fen (curCore s0) 1 1
  if (curCtx s).cid ≠ (curCtx s0).cid || (curCtx s).step.isNone && (curCtx s0).step.isSome then s
  else
    let s := s.cur.clears.foldl (fun s t => modCur s fun c => clearPending c s.cur.e t) s
    let s := r.posts.foldl (fun s (d, t) => setPending s d t) s
    let s := modCurEng s fun x =>
      let parked := x.wait = some .parked
      let x := { x with pc := s.cur.next, wait := if parked then x.wait else none, held := if parked then x.held else [],
                        fetchAt := none, bankAt := none, idle := if s.cur.taken && !x.stopped then 2 else 1,
                        jumped := s.cur.taken && !x.stopped, grp := x.grp + 1 }
      match (if s.cur.again then LoopEnd.none else ends) with
      | .back a l => { x with pc := a, l }
      | .out l => { x with l }
      | _ => x
    let back := !s.cur.again && (match ends with | .back _ _ => true | _ => false)
    moveHead s0 s len (back || (s.cur.taken && !(curEng s).stopped))

/-- The next group of a sub-core's sequencer has a WSTEAL that has still to be asked for: no WGET of that group issues in this clock. -/
def stealsNext (s : State) (h : Nat) : Bool :=
  match groupAhead (atGroup s h 0) with
  | .group ms _ _ => ms.any fun m => match m.2 with
    | .wsteal _ _ => !((engOf (ctxOf s h) 0).held.any (·.1 == m.1))
    | _ => false
  | _ => false

/-- A steal is asked for after every WGET of its clock (R216): sequencers whose groups have no WSTEAL to ask for have their turns first. -/
def asksLater (s : State) (w : Wait) : Bool :=
  (match w with | .steal _ _ => true | _ => false) && s.turn.any fun (h, e) => e == 0 && h != s.cur.g && !stealsNext s h

/-- Run a group whose members are `ms`: it issues as a whole, or waits, freezes or traps as a whole (R35, R36, R90, R331). A member that
waits or freezes holds the group before another member's trap is taken (DESIGN CHOICE, log 91); a transfer that traps is not taken,
so the end test runs beside it (DESIGN CHOICE, log 92). -/
def runGroup (s : State) (ms : List (Nat × Instr)) (last len : Nat) : State :=
  let us := unitsOf ms
  let r := runMembers s us
  let ends := if r.st.cur.taken && !endsInLoop ms then LoopEnd.none else groupEnd s ms last
  let holds := us.filterMap fun u => r.holds.find? fun h => unitAddr h.1 == unitAddr u
  let asks := (holds.filterMap fun (u, h) => match h with
      | .trap c v w f => some { unit := some u, c, tval := v, sw := w, frec := f : Ask }
      | _ => none) ++
    (match ends with | .trap c v => [{ unit := none, c, tval := v, sw := 0#16, frec := none : Ask }] | _ => [])
  match holds.find? fun (_, h) => match h with | .wait _ => true | _ => false with
  | some (u, .wait w) =>
    if asksLater s w then { s with turn := s.turn ++ [(s.cur.g, s.cur.e)] } else groupWaits s (withHeld s r.st) u w
  | _ =>
    match holds.find? fun (_, h) => h = .freeze with
    | some (u, _) => groupFreezes (withHeld s r.st) u
    | none =>
      match worstAsk asks with
      | some a => groupTraps s a
      | none =>
        match arbitrate s r with
        | .ok r => groupIssues s r ends len
        | .error t => t

/-! ### Fetching (R13, R229) -/

/-- The next group of an engine comes from memory: its ring is static, or its slot has been filled and does not stand in the Mere (R294,
R298). -/
def ringGiven (s : State) : Bool :=
  let r := ringOf s (curCore s) (engRing s.cur.g s.cur.e)
  let p := slotPos r s.cur.grp
  r.kind != 3#2 || (slotReady s r p && !(r.extSlots.any (·.1 == p)))

/-- A group of another core's slice comes in a request of class 0 to that slice, and its response. It freezes the sequencer until its words
arrive; another engine issues nothing until then (R229, R310, R352; DESIGN CHOICE, log 120). -/
def fetchFar (s : State) : Option State :=
  let a := s.cur.grp
  let e := s.cur.e
  let agent := a / 0x80_0000
  let waits := fun (s : State) => if e = 0 then freeze s else s
  if agent = curCore s || (scratchError s s.cur.g a 4).isSome || (curEng s).fetchAt.any (· ≤ s.clock) then none
  else if e ≠ 0 && !ringGiven s then none
  else if shortOf s (curCore s) agent then some (freeze s)
  else if fetching s (curCtx s).cid e a then some (waits s)
  else some (waits (request s s.cur.g 0 agent 0 true (.fetch (curCtx s).cid e a)))

/-- The fetch of the next group, a load of class 0, is held: behind a reduction that rests on its bytes, which it flushes, or is in flight
to them (R129), and behind earlier accesses of class 0, those that a not-present page holds left out: after a transfer behind all of
them, else behind writes of its own bytes (R303, R310, R325; log 85). -/
def fetchHeld (s : State) : Option State :=
  let k := curCore s
  let l := Loc.scratch s.cur.grp
  let (out, s1) := flushTouched s k l 16
  if out ≠ [] || s.accs.any (fun a => a.isRed && coreNo a.g == k && overlaps a.loc a.size l 16) then some (freeze s1)
  else if s.cur.e = 0 && ((sameClass s (curCtx s).cid 0).any fun a =>
      a.held.isNone && ((curEng s).jumped || (!a.isLoad && overlaps a.loc a.size l 16))) then some (freeze s)
  else none

/-- Bytes of a group. -/
def groupLen (ms : List (Nat × Instr)) : Nat := (ms.map fun m => if isRecord m.2 then 16 else 4).foldl (· + ·) 0

/-- The step comes to its first instruction, in whichever engine: FADEFL takes the fen's FADEDEF (R86). -/
def beginStep (s : State) : State :=
  match (curCtx s).step with
  | some st => if st.begun then s else modCur s fun c => { c with fadefl := (fenOf (asSeen s) (curFen s)).fadedef, step := some { st with begun := true } }
  | none => s

/-- ONE GROUP: engine `e` of sub-core `g` fetches its next group and runs it. -/
def issueGroup (s : State) (g e : Nat) : State :=
  let s := atGroup s g e
  match (fetchFar s).orElse fun _ => fetchHeld s with
  | some t => t
  | none =>
    match groupAhead s with
    | .group ms next last => let s := beginStep s; runGroup { s with cur := { s.cur with next } } ms last (groupLen ms)
    | .illegal => trapWith s .illenc
    | .empty => freeze s
    | .refused a r =>
      trapWith (match r with | some r => logViolation s (curFen s) 0 a r e 3 g | none => s) .memerr

/-! ### Standing faults (R324 to R327, R343, R346) -/

/-- The access of the active context that is held at its check point. -/
def heldAccess (s : State) (g : Nat) : Option Access := s.accs.find? fun a => a.cid == (ctxOf s g).cid && a.held.isSome

/-- The record of engine `e` that halts at a resumable fault, oldest first. -/
def haltedRecord (s : State) (g e : Nat) : Option Xfer := (xfersOf s (ctxOf s g).cid e).find? fun x => x.fault.isSome

/-- A sequencer in a wait table leaves it at a trap. -/
def unpark (s : State) (g : Nat) : State :=
  if (engOf (ctxOf s g) 0).wait = some .parked then
    modCore s (coreNo g) fun c => { c with waits := c.waits.filter fun w => w.cid != (ctxOf s g).cid }
  else s

/-- A trap for a resumable fault is taken: every fault of the context that stands is restarted by the handler's ERET (R326). -/
def serveFaults (s : State) (cid : Nat) : State :=
  { s with xfers := s.xfers.map fun y => if y.cid = cid && y.fault.isSome then { y with pended := false, recorded := false, served := true } else y }

/-- A record's fault is delivered to the sequencer (Table 18.6, R333): PEND ends, and a record written for it stands. -/
def trapRecord (s : State) (g : Nat) (x : Xfer) : State :=
  let c := ctxOf s g
  let written := x.recorded && bitAt c.tr.frec0.toNat 63
  let f := match x.fault with | some (p, o, h) => recordFrec s x p o h | none => (0#64, 0#64, 0#64, 0#64)
  let tval := if written then c.tr.frec1 else f.2.1
  let tpc := resumeAt (engOf c 0)
  let cause := match x.fault with | some (p, _, _) => p | none => .notpresent
  let s := serveFaults (unpark s g) c.cid
  let s := modCtx s g fun c => { c with pend := false }
  if c.pl = 0#2 && !c.svc then trapToS s g cause tpc tval 0#16 x.eng (if written then none else some f)
  else terminalTrap s g x.eng cause tpc tval 0#16

/-- A held access's fault is delivered. An access of S or M, and one of a service context, ends the launch (R330, R342, R346). -/
def trapAccess (s : State) (g : Nat) (a : Access) : State :=
  let c := ctxOf s g
  let fen := a.fen s
  let tpc := resumeAt (engOf c 0)
  let (h, hv, off) := a.held.getD (0, 0#64, 0#64)
  let f := frecOf false .notpresent 0 3 h 0 (handleVa s fen hv off.toNat) 0 1 0 a.size
  if a.level = 0 && c.pl = 0#2 && !c.svc then trapToS (serveFaults (unpark s g) c.cid) g .notpresent tpc 0#64 0#16 0 (some f)
  else terminalTrap (unpark s g) g 0 .notpresent tpc 0#64 0#16

/-- Deliver the fault that R326 chooses, before the sequencer's next group: none, or the state after the trap. -/
def deliverFault (s : State) (g : Nat) : Option State :=
  let c := ctxOf s g
  let open_ := c.svc || (c.pl = 0#2 && !c.trapped)
  match heldAccess s g with
  | some a => if open_ || (a.level ≠ 0 && c.pl.toNat = a.level) then some (trapAccess s g a) else none
  | none =>
    if !open_ then none
    else match haltedRecord s g 2 with
      | some x => some (trapRecord s g x)
      | none => (haltedRecord s g 3).map (trapRecord s g)

/-! ### The turn -/

/-- The sub-core's engines may act: a step or a service context stands in the active bank, and no swap runs or is asked for. -/
def engineLive (s : State) (g : Nat) : Bool :=
  let b := subOf s g
  (match victimStep b with | some st => !st.ended || s.clock < st.endAt | none => false) && b.swapLeft = 0

/-- A swap that a SWAPX of an earlier clock asked for waits until every engine of the sub-core is at a group boundary: the sequencer issues
nothing more, and the other engines go on until the swap begins (R332, R339). -/
def swapWaits (s : State) (g : Nat) : Bool := (subOf s g).swapAsk && (subOf s g).askAt < s.clock

/-- The walker's swap that a pre-emption asked for begins at this turn of the sequencer, in the place of its next group, unless a trap is
taken at the same boundary (R339). -/
def walkerSwaps (s : State) (g e : Nat) : Bool :=
  e == 0 && preemptReady (subOf s g) && swapAllowed s g && (engOf (ctxOf s g) 0).idle = 0

/-- A turn took a trap. -/
def tookTrap (s t : State) (g : Nat) : Bool :=
  (ctxOf t g).trapped && !(ctxOf s g).trapped || (ctxOf t g).pl != (ctxOf s g).pl ||
  (match (ctxOf t g).step with | some st => st.ended | none => false)

/-- Freezes that hold an engine whatever its next group is (Table 10.4). -/
def engineHeld (s : State) (g e : Nat) : Bool :=
  limiterOn s || timedFreeze s g e || (e == 4 && portHeld s g (ctxOf s g).cid)

/-- The reductions that a VLD or VST waits for are flushed (R129, R165). -/
def flushForVector (s : State) (g : Nat) : State :=
  ((engOf (ctxOf s g) 1).pipe.filter fun l => l.left = 2).foldl (fun s l =>
    match l.access with
    | some v => (flushTouched s (coreNo g) v.loc 2048).2
    | none => s) s

/-- The engine is frozen in this clock. -/
def markFrozen (s : State) (g e : Nat) : State := modCtx s g fun c => modEng c e fun x => { x with frozen := true }

/-- The sequencer's next group faults on a poisoned handle: of several faults that stand at once it comes first (R326). -/
def seqFault (s : State) (g : Nat) : Option State :=
  let x := engOf (ctxOf s g) 0
  if (heldAccess s g).isSome || x.stopped || x.wait.isSome || 0 < x.dly then none
  else
    let t := issueGroup s g 0
    match t.cur.hold with
    | .trap c _ _ (some _) => if causeResumable c then some (serveFaults t (ctxOf s g).cid) else none
    | _ => none

/-- An engine at a group boundary: it delivers a standing fault, ends its wait, or issues its next group. A fault that stands in the idle
clock after a taken transfer, a trap or an ERET is delivered in the clock of the next group (DESIGN CHOICE, log 100). -/
def engineActs (s : State) (g e : Nat) : State :=
  let x := engOf (ctxOf s g) e
  match (if e = 0 && x.idle = 0 then deliverFault s g else none) with
  | some t => (seqFault s g).getD t
  | none =>
    if x.stopped || ((e = 2 || e = 3) && x.halted) then s
    else if x.wait.isSome then (match execWaitEnds g e s with | .next t => t | .fault _ | .refused _ => s)
    else if 0 < x.idle || 0 < x.dly || s.clock < x.wakeAt then s
    else issueGroup s g e

/-- Another engine of the sub-core is to take a trap at its turn in this clock. -/
def othersTrap (s : State) (g : Nat) : Bool := [1, 2, 3, 4].any fun e => !engineHeld s g e && tookTrap s (engineActs s g e) g

/-- THE TURN of engine `e` of sub-core `g` in this clock. -/
def engineTurn (s : State) (g e : Nat) : State :=
  if !engineLive s g then s
  else if engineHeld s g e then markFrozen (if e = 1 then flushForVector s g else s) g e
  else if e = 0 && swapWaits s g then s
  else
    let t := engineActs s g e
    if walkerSwaps s g e && !tookTrap s t g && !othersTrap s g then (match execShadowSwap g s with | .next t => t | .fault _ | .refused _ => s) else t

end Sys2Proof.Machine
end

