-- ==== Sys2Proof/Machine/Tick.lean ====
section
/-! DEFINITION. What the package does beside its engines: the meaning of each event, the end of a clock (R22, R225, R227, R235, R298,
R355, R380, R398), and the events that are due in the next clock. -/

namespace Sys2Proof.Machine
open Sys2Proof

/-- The meaning of an event. -/
def runEvent (v : Event) (s : State) : Host.Outcome State Fault Refusal :=
  match v with
  | .reductionApplied x0 => execReductionApplied x0 s
  | .walk x0 => execWalk x0 s
  | .leaseGrant x0 x1 => execLeaseGrant x0 x1 s
  | .resultLands x0 x1 => execResultLands x0 x1 s
  | .operationCompletes x0 => execOperationCompletes x0 s
  | .waitEnds x0 x1 => execWaitEnds x0 x1 s
  | .transferRecordBegins x0 x1 => execTransferRecordBegins x0 x1 s
  | .transferRecordCompletes x0 => execTransferRecordCompletes x0 s
  | .commandBegins x0 x1 => execCommandBegins x0 x1 s
  | .commandCompletes x0 x1 => execCommandCompletes x0 x1 s
  | .trapTaken x0 x1 x2 x3 x4 => execTrapTaken x0 x1 x2 x3 x4 s
  | .shadowSwap x0 => execShadowSwap x0 s
  | .spillDone x0 => execSpillDone x0 s
  | .contextFill x0 => execContextFill x0 s
  | .launchStart x0 => execLaunchStart x0 s
  | .refusedLaunch x0 => execRefusedLaunch x0 s
  | .placement x0 => execPlacement x0 s
  | .gangPlacement x0 => execGangPlacement x0 s
  | .preemption x0 => execPreemption x0 s
  | .withdrawal x0 x1 => execWithdrawal x0 x1 s
  | .launchEnd x0 => execLaunchEnd x0 s
  | .completionRecord x0 => execCompletionRecord x0 s
  | .watchdogExpiry x0 => execWatchdogExpiry x0 s
  | .copyRecord x0 => execCopyRecord x0 s
  | .mereExtension x0 => execMereExtension x0 s
  | .packetApplied x0 => execPacketApplied x0 s
  | .creditReturn x0 x1 => execCreditReturn x0 x1 s
  | .timeoutFires x0 => execTimeoutFires x0 s
  | .wispCapture x0 => execWispCapture x0 s
  | .sloughArrival x0 => execSloughArrival x0 s
  | .flitRetry x0 x1 => execFlitRetry x0 x1 s
  | .ringEntryDelivered x0 x1 => execRingEntryDelivered x0 x1 s
  | .peerLinkUp x0 => execPeerLinkUp x0 s
  | .peerLinkDown x0 => execPeerLinkDown x0 s
  | .held x0 => execHeld x0 s
  | .xinvFlush x0 x1 => execXinvFlush x0 x1 s
  | .xinvRevoke x0 x1 => execXinvRevoke x0 x1 s
  | .xinvSuspend x0 x1 => execXinvSuspend x0 x1 s
  | .xinvResume x0 x1 => execXinvResume x0 x1 s
  | .registerWrite x0 x1 x2 => execRegisterWrite x0 x1 x2 s
  | .sessionRegisterWrite x0 x1 x2 => execSessionRegisterWrite x0 x1 x2 s
  | .queueConfigWrite x0 x1 x2 x3 => execQueueConfigWrite x0 x1 x2 x3 s
  | .qkick x0 x1 x2 => execQkick x0 x1 x2 s
  | .stampRetry x0 => execStampRetry x0 s
  | .qpoll x0 => execQpoll x0 s
  | .chead x0 x1 x2 => execChead x0 x1 x2 s
  | .scrkick x0 x1 => execScrkick x0 x1 s
  | .sevhead x0 x1 => execSevhead x0 x1 s
  | .evhead x0 => execEvhead x0 s
  | .create x0 x1 => execCreate x0 x1 s
  | .append x0 x1 => execAppend x0 x1 s
  | .close x0 x1 => execClose x0 x1 s
  | .enable x0 x1 => execEnable x0 x1 s
  | .fcreate x0 x1 => execFcreate x0 x1 s
  | .ffree x0 x1 => execFfree x0 x1 s
  | .sdrop x0 x1 => execSdrop x0 x1 s
  | .sessionAge x0 x1 => execSessionAge x0 x1 s
  | .batchForm x0 x1 => execBatchForm x0 x1 s
  | .storeBack x0 x1 x2 => execStoreBack x0 x1 x2 s
  | .fenform x0 => execFenform x0 s
  | .fenend x0 => execFenend x0 s
  | .coremove x0 => execCoremove x0 s
  | .peerlink x0 => execPeerlink x0 s
  | .regset x0 => execRegset x0 s
  | .attest x0 => execAttest x0 s
  | .health x0 => execHealth x0 s
  | .svnraise x0 => execSvnraise x0 s
  | .scrubPoint x0 => execScrubPoint x0 s
  | .joining x0 => execJoining x0 s
  | .member x0 => execMember x0 s
  | .boot => execBoot s
  | .bankRetention x0 x1 => execBankRetention x0 x1 s
  | .limiterWindow x0 => execLimiterWindow x0 s
  | .marginReport x0 x1 => execMarginReport x0 x1 s
  | .voltageAdjust x0 => execVoltageAdjust x0 s
  | .sramError x0 x1 x2 => execSramError x0 x1 x2 s
  | .reservedSessionCommand x0 x1 => execReservedSessionCommand x0 x1 s
  | .reservedManagementRequest x0 => execReservedManagementRequest x0 s

/-! ### The end of a clock -/

/-- The engines of a sub-core. -/
def engines : List Nat := [0, 1, 2, 3, 4]

/-- One engine at the end of a clock: its results advance, and its idle clocks and DLY count down, unless it is frozen or its
sub-core is being swapped (R93, R229, R235); a refused copy is offered again (R146). -/
def engineClock (s : State) (g e : Nat) : State :=
  let c := ctxOf s g
  let x := engOf c e
  if (subOf s g).swapLeft ≠ 0 then (if e = 0 then landArrivals s g 0 else s)
  else
    let s := if x.frozen then (if e = 0 then landArrivals s g 0 else if e = 1 then retryCopies s g else s)
      else if x.pipe = [] && (e ≠ 0 || c.arrive = []) then s else landResults s g e
    let x := engOf (ctxOf s g) e
    if x.frozen || (x.idle = 0 && x.dly = 0) then s
    else modCtx s g fun c => modEng c e fun x => if 0 < x.idle then { x with idle := x.idle - 1 } else { x with dly := x.dly - 1 }

/-- The counters of frozen engines (Table 8.7, Table 23.8). -/
def countFrozen (s : State) (g : Nat) : State :=
  let k := coreNo g
  let f := (coreOf s k).fen
  let s := if (engOf (ctxOf s g) 0).frozen then countEv (count s f cntFrozen 1) f k 2 1 else s
  if (engOf (ctxOf s g) 1).frozen then countEv s f k 3 1 else s

/-- A grant ends when its holder's array port executes ESTOP, waits, or waits at an empty fed ring (R140). -/
def endIdleGrants (s : State) (g : Nat) : State :=
  let x := engOf (ctxOf s g) 4
  let r := ringOf s (coreNo g) (engRing g 4)
  if x.stopped || x.wait.isSome || (x.frozen && r.kind == 3#2 && r.pos == r.tail.toNat) then dropGrants s g else s

/-- Clocks in which a core has been stalled (R298). -/
def stallClock (s : State) (k : Nat) : State :=
  if coreStalled s k then modCore s k fun c => { c with stall := c.stall + 1 }
  else if (coreOf s k).stall = 0 then s else modCore s k fun c => { c with stall := 0 }

/-- The marks of a clock go; the push that froze an engine is kept for the extension that it may get in the next clock (R298). -/
def clearMarks (s : State) (g : Nat) : State :=
  modCtx s g fun c => { c with eng := c.eng.map fun (e, x) => (e, { x with frozen := false, pushTo := if x.frozen then x.pushTo else none }) }

/-- Extensions of a fed ring that hold no slot return to the Mere (R298). -/
def returnRing (s : State) (g e : Nat) : State :=
  let k := coreNo g
  let r := ringOf s k (engRing g e)
  let need := min r.ext ((r.tail.toNat - r.head.toNat - r.count.toNat + 15) / 16)
  if need = r.ext then s
  else mereBack (setRing s k (engRing g e) { r with ext := need }) (dieNo k) (coreOf s k).fen ((r.ext - need) * 256)

/-- One clock of a sub-core's swap, spill and extensions. -/
def subClock (s : State) (g : Nat) : State :=
  let s := modSub s g fun b => { b with swapLeft := b.swapLeft - 1 }
  let s := returnExts (returnExts (returnExts s g 0) g 1) g 2
  reap ([1, 2, 3, 4].foldl (fun s e => returnRing (settleHead s g e) g e) s) g

/-- Operations of a fen that wait for their logged turn (R365, R366): key 2 × id of an access or of a resting entry that is to leave,
2 × engine + 1 of an engine. -/
def turnWaits (s : State) (f : Nat) : List Nat :=
  let accs := (s.accs.filter fun a => a.fen s == f && (a.rests || (atHome s a && !heldByBucket s a && !canPerform s a))).map fun a => 2 * a.id
  let rests := s.cores.flatMap fun (_, c) => if c.fen = f then (c.comb.filter (·.leave)).map fun e => 2 * e.id else []
  let engs := s.subs.filterMap fun (g, b) =>
    let k := coreNo g
    let x := engOf b.act 0
    let waits := match x.wait with
      | some (.rclaim r n) => rclaimMet (ringOf s k r) n && released s (ringOf s k r) && !claimAllowed s g k r
      | some (.publ m) => publMet s g m && !publishAllowed s g m.toNat
      | some .wdone => wdoneMet s g && !publishAllowed s g publishAll
      | some (.steal _ _) => x.held == [] && (match b.act.step with | some st => (launchOf s st.lid).olmode == 2#2 | none => false)
      | some .parked => (coreOf s k).waits.any fun w => w.cid == b.act.cid && w.woken
      | _ => false
    if (coreOf s k).fen == f && waits then some (2 * (5 * g) + 1) else none
  accs ++ rests ++ engs

/-- A launch of the fen replays: it started under MODE 2, whatever OLCTL holds now (R363). -/
def replays (s : State) (f : Nat) : Bool := s.queues.any fun (_, q) => q.launches.any fun l => l.fen == f && l.olmode == 2#2

/-- The clocks of a fen's waits for their logged turns. -/
def holdClock (s : State) (f : Nat) : State :=
  let x := fenOf s f
  if !replays s f then s
  else
    let now_ := (turnWaits s f ++ x.ol.heldNow).eraseDups
    setFen s f { x with ol := { x.ol with heldNow := [], heldFor := sortBy (fun p q => p.1 ≤ q.1) (now_.map fun i => (i, tget 0 x.ol.heldFor i + 1)) } }

/-- Copy records that run (R403). -/
def copyLaunches (s : State) : List Launch := (allLaunches s).filter fun l => l.isCopy && (l.st == .started) && !l.copied

/-- A request that stands at a memory channel: core, class, address, bytes, key (R380). -/
abbrev Request : Type := Nat × Nat × Nat × Nat × Nat

/-- The requests of a fen that are to pass a regulator: accesses, the next pieces of records, frame commands, walks, spills and fills, the
order log, the session sequencer, and copy records (R380). -/
def channelRequests (s : State) (f : Nat) : List Request :=
  let accs := (s.accs.filter fun a => a.fen s == f && atHome s a).filterMap fun a =>
    match a.loc with | .phys pa => some (coreNo a.g, a.regulClass, pa, a.size, 8 * a.id) | _ => none
  let xfers := (s.xfers.filter fun x => (coreOf s (coreNo x.g)).fen == f && xferActs s x).flatMap fun x =>
    (runsHere s x ++ (if farReached s x then pieceDst s x x.piece else [])).filterMap fun (l, n) =>
      match l with | .phys pa => some (coreNo x.g, if x.eng = 2 then 0 else 1, pa, n, 8 * x.id + 1) | _ => none
  let frms := (s.frms.filter (·.fen == f)).filterMap fun o => o.lines.head?.map fun a => (coreNo o.g, 2, a, 64, 8 * o.id + 2)
  let walks := (s.walks.filter fun w => w.fen == f && w.due ≤ s.clock).flatMap fun w =>
    (walkReads s w).map fun a => (coreNo w.g, 0, a, 8, 8 * w.id + 3)
  let spills := s.subs.filterMap fun (g, b) => if b.spillLeft = 0 || (coreOf s (coreNo g)).fen ≠ f then none
    else some (coreNo g, 2, spillArea s g + 64 * (imageLines - b.spillLeft), 64, 8 * g + 4)
  let log := (olNext s f).map fun (pa, n) => (0xFF, 1, pa, n, 5)
  let sess := ((carryHead s f).bind (·.lines.head?)).toList.map fun a => (0xFF, 2, a, 64, 6)
  let copies := ((copyLaunches s).filter (·.fen == f)).flatMap fun l => match copyLineOf s l with
    | some c => c.runs.1.map (fun (pa, n) => (0xFF, 0, pa, n, 8 * l.lid + 7)) ++ c.runs.2.map fun (pa, n) => (0xFF, 1, pa, n, 8 * l.lid + 7)
    | none => []
  accs ++ xfers ++ frms ++ walks ++ spills ++ log ++ sess ++ copies

/-- The requests that a regulator holds: its bucket lacks their bytes, or an earlier request of its queue is held (R380). -/
def heldRequests (s : State) (f : Nat) : List Request := (channelRequests s f).filter fun (_, cls, pa, n, key) => !regulOk s f cls pa n key

/-- Event 10 counts, for the requests of the cores that a counter is set to, each channel at which one is held in this clock (R382). -/
def countHeld (s : State) (f : Nat) (held : List Request) : State :=
  let x := fenOf s f
  let chans := fun (c : CntCfg) => ((held.filter fun h => c.core == 0xFF#8 || c.core.toNat == h.1).filterMap fun (_, cls, pa, _) =>
    (regulAt cls pa).map (· % 64)).eraseDups.length
  let hit := x.cntcfg.filter fun (_, c) => c.en && c.event.toNat == 10 && c.since != some s.clock && chans c != 0
  if hit = [] then s
  else setFen s f { x with counted := hit.foldl (fun t (i, c) => tmod 0#64 t i fun w => w + BitVec.ofNat 64 (chans c)) x.counted }

/-- The regulators of a fen in a clock: held requests stand in the queues in the order in which they came, and the buckets fill (R380). -/
def regulClock (s : State) (f : Nat) : State :=
  let low := ((fenOf s f).regul.any fun (_, r) => r.queue ≠ [] || r.p < 64000 * max r.pb 4)
  let held := if low then heldRequests s f else []
  let s := countHeld s f held
  let keys := fun (i : Nat) => (held.filterMap fun (_, cls, pa, _, key) => if regulAt cls pa = some i then some key else none).eraseDups
  modFen s f fun x => { x with regul := x.regul.map fun (i, r) =>
    let now := keys i
    (i, { r with queue := r.queue.filter (now.contains ·) ++ now.filter (!r.queue.contains ·) }.tick) }

/-- The Wisp of a die stands at a router that is to capture it (R355). -/
def wispAt (s : State) (die : Nat) : Bool :=
  let r := die * 48 + (dieOf s die).wisp
  firedAt s r ≠ [] && tget 0 (dieOf s die).sloughs r = 0

/-- The Wisp of a die passes to the next router, unless it is to capture a packet at this one (R355). -/
def wispClock (s : State) (die : Nat) : State :=
  if wispAt s die then s else modDie s die fun d => { d with wisp := (d.wisp + 1) % 48 }

/-- The budget of the oldest launch of a queue starts, and every budget of a queue with a full completion ring stands still (R379, R389). -/
def budgetClock (s : State) (q : Nat) : State :=
  let s := match (queueOf s q).launches with | l :: _ => startBudget s l | [] => s
  if blocked (queueOf s q) then
    modQueue s q fun x => { x with launches := x.launches.map fun l => { l with budget := l.budget.map fun (t, b) => (t + 1, b) } }
  else s

/-- Sub-cores of which the state holds something. -/
def subList (s : State) : List Nat := s.subs.map (·.1)
def fenList (s : State) : List Nat := (s.fens.filter fun (_, f) => f.formed).map (·.1)

/-- Every line is green at its regulator. -/
def greenLines (s : State) (fen cls : Nat) (ls : List Nat) : Bool := ls.all fun a => regulGreen s fen cls a 64

/-- The next piece of a record is green. -/
def greenXfer (s : State) (x : Xfer) : Bool :=
  (runsHere s x ++ (if farReached s x then pieceDst s x x.piece else [])).all fun (l, n) =>
    match l with | .phys pa => regulGreen s (coreOf s (coreNo x.g)).fen (if x.eng = 2 then 0 else 1) pa n | _ => true

/-- What carries bytes in a clock, with whether it is green: records, frame commands, the session sequencer and the order log of each fen,
and spills. -/
def traffic (s : State) : List ((State → Bool) × (State → State)) :=
  s.xfers.map (fun x => (fun s => greenXfer s x, fun s => moveXferOf s x.id)) ++
  s.frms.map (fun o => (fun s => greenLines s o.fen 2 (o.lines.take 1), fun s => frmTickOf s o.id)) ++
  (fenList s).flatMap (fun f =>
    [(fun s => greenLines s f 2 (((carryHead s f).bind (·.lines.head?)).toList), fun s => carryTick s f),
     (fun s => (olNext s f).all fun (pa, n) => regulGreen s f 1 pa n, fun s => olDrain s f (fenOf s f).ol.out.length)]) ++
  s.subs.filterMap fun (g, b) => if b.swapLeft = 0 && b.spillLeft ≠ 0 then
    some (fun s => greenLines s (coreOf s (coreNo g)).fen 2 [spillArea s g + 64 * (imageLines - b.spillLeft)], fun s => spillTick s g) else none

/-- The memory controllers serve green requests before yellow ones (R380). -/
def trafficClock (s : State) : State :=
  let (green, yellow) := (traffic s).partition fun p => p.1 s
  (green ++ yellow).foldl (fun s p => p.2 s) s

/-- THE END OF A CLOCK, in its order: the engines' clocks, the transfer and frame engines, the raises of the clock, and what
counts clocks. -/
def endClock (s : State) : State :=
  let gs := subList s
  let s := gs.foldl countFrozen s
  let s := if limiterOn s then modSvc s fun v => { v with limclk := v.limclk + 1 } else s
  let s := gs.foldl endIdleGrants s
  let s := (s.cores.map (·.1)).foldl stallClock s
  let s := gs.foldl (fun s g => landArrivals (landArrivals (engines.foldl (fun s e => engineClock s g e) s) g 1) g 2) s
  let s := restAgain ((s.cores.map (·.1)).foldl leaveComb s)
  let s := trafficClock (meshClock (injectWaiting s))
  let s := s.xfers.foldl pendFault s
  let s := applyRaises s
  let s := gs.foldl clearMarks s
  let s := gs.foldl subClock s
  let s := (fenList s).foldl (fun s f => regulClock (holdClock s f) f) s
  let s := [0, 1].foldl wispClock s
  let s := (s.queues.map (·.1)).foldl budgetClock s
  (s.fens.map (·.1)).foldl settleCounts s

/-! ### What is due (each event checks its own conditions again) -/

/-- A request whose committed bucket has its bytes is green, and the controller serves it before a yellow one (R380). -/
def Access.green (s : State) (a : Access) : Bool :=
  match a.loc with | .phys pa => regulGreen s (a.fen s) a.regulClass pa a.size | _ => true

/-- Operations whose clock has come: accesses, walks and lines of copy records, green before yellow (R380). -/
def dueOperations (s : State) : List Event :=
  let green := fun (fen cls : Nat) (runs : List (Nat × Nat)) => runs.all fun (pa, n) => regulGreen s fen cls pa n
  let accs := (s.accs.filter fun a => canPerform s a).map fun a => (a.green s, if a.isRed then Event.reductionApplied a.id else .packetApplied a.id)
  let walks := (s.walks.filter fun w => w.due ≤ s.clock).map fun w => (green w.fen 0 ((walkReads s w).map fun a => (a, 8)), Event.walk w.id)
  let copies := (copyLaunches s).map fun l =>
    ((copyLineOf s l).all fun c => green l.fen 0 c.runs.1 && green l.fen 1 c.runs.2, Event.copyRecord l.lid)
  let (first, later) := (accs ++ walks ++ copies).partition (·.1)
  (s.posted.filter fun p => p.due ≤ s.clock).map (fun p => .operationCompletes p.id) ++ (first ++ later).map (·.2)

/-- Packets whose lanes have not moved, the Wisp and the Slough lanes (R354 to R356). -/
def dueLinks (s : State) : List Event :=
  (s.mesh.filterMap fun a => match a.place with
    | .lane _ _ _ m false => if m + 2048 ≤ s.clock then some (.timeoutFires a.id) else none
    | .slough r => if a.due ≤ s.clock && r = a.dest then some (.sloughArrival a.id) else none
    | _ => none) ++
  ([0, 1].filter (wispAt s)).map .wispCapture ++
  ((s.ring.filter fun m => m.due ≤ s.clock).map fun m => (m.core, m.ch)).eraseDups.map fun (c, h) => .ringEntryDelivered c h

/-- Parked sub-cores that were touched while their logged turn had not come (R365). -/
def releaseWaits (s : State) : State :=
  s.cores.foldl (fun s (k, c) => (c.waits.filter (·.woken)).foldl (fun s w => releaseWake s k w) s) s

/-- Transfer records and unit commands. -/
def dueWork (s : State) : List Event :=
  (s.xfers.filterMap fun x => if x.begun && !haltedBehind s x && x.total ≤ x.pos && x.due ≤ s.clock then some (.transferRecordCompletes x.id) else none) ++
  ((subList s).flatMap fun g => [2, 3].filterMap fun e =>
    if (xfersOf s (ctxOf s g).cid e).any fun x => !x.begun && !haltedBehind s x then some (.transferRecordBegins g e) else none) ++
  (s.cores.flatMap fun (k, c) => [0, 1, 2, 3].flatMap fun p =>
    (if (runningCmd (cmdsOf c p) p).isSome then [.commandCompletes k p] else []) ++
    (if (nextCmd (cmdsOf c p) p).isSome then [.commandBegins k p] else [])) ++
  (s.cores.flatMap fun (k, c) => [0, 1].filterMap fun u =>
    if (leaseOf c u).holder.isNone && (List.range 4).any (fun n => requests s (4 * k + n) u) then some (.leaseGrant k u) else none)

/-- Swaps, spills and fills. -/
def dueSwaps (s : State) : List Event :=
  s.subs.flatMap fun (g, b) =>
    (if b.swapAsk || returnReady b then [.shadowSwap g] else []) ++
    (if b.shb = 2#2 && b.spillLeft = 0 then [.spillDone g] else []) ++
    (if b.shb = 3#2 && b.spillLeft = 0 then [.contextFill g] else [])

/-- Launch queues and the walkers (R254 to R267, R379, R389, R403). -/
def dueLaunches (s : State) : List Event :=
  let all := allLaunches s
  (all.filterMap fun l => match l.st with
    | .started => if finished l then some (.launchEnd l.lid) else none
    | .ending .. => if contextsOf s l.lid = [] then none else some (.launchEnd l.lid)
    | _ => none) ++
  (all.filterMap fun l => match l.budget, l.st with
    | some _, .ending .. => none
    | some (t, b), _ => if t + 1000 * b < s.clock then some (.watchdogExpiry l.lid) else none
    | none, _ => none) ++
  (s.queues.flatMap fun (q, x) =>
    (if (headLaunch s q).isSome then [.refusedLaunch q, .launchStart q] else []) ++
    (if (completable s q).isSome then [.completionRecord q] else []) ++
    (if 0 < x.retries && x.retryAt ≤ s.clock then [.stampRetry q] else []) ++
    (if x.owner.isSome && x.qpoll ≠ 0#16 && x.pollAt ≤ s.clock then [.qpoll q] else [])) ++
  (if all.any hasWork then [0, 1].flatMap fun d => [.placement d, .gangPlacement d, .preemption d] else []) ++
  ((subList s).filter fun g => withdrawable s g 0).map (fun g => .withdrawal g 0)

/-- Sessions (R280 to R284). -/
def dueSessions (s : State) : List Event :=
  (fenList s).flatMap fun f =>
    ((fenSessions s f).filter (aged s f)).map (.sessionAge f) ++
    (waitingCommands s f).map (fun c => commandEvent f c true) ++
    ((List.range 64).filter fun m => s.batches.any (fun b => b.fen == f && b.model == m && b.stage != .queued) || (batchNow s f m).isSome).map
      (.batchForm f) ++
    (s.batches.filter fun b => b.fen == f && b.status.isSome).map fun b => .storeBack f b.model b.set

/-- Cores that have stalled for 256 clocks get their extensions before what is stuck tries again (R298). -/
def dueExtensions (s : State) : List Event := s.cores.filterMap fun (k, c) => if 256 ≤ c.stall then some (.mereExtension k) else none

/-- Moves of cores, retention, replay and the limiter (R366, R373 to R375, R397 to R399). -/
def dueDevice (s : State) : List Event :=
  (s.cores.flatMap fun (k, c) =>
    (if leavingDone s k then [.scrubPoint k] else []) ++
    (if c.st == .scrub && c.until_ ≤ s.clock then [.joining k] else []) ++
    (if c.st == .joining && c.until_ ≤ s.clock then [.member k] else [])) ++
  ((List.range 96).flatMap fun k => (List.range 16).filterMap fun b =>
    if tget 0 (coreOf s k).bankAt b + 4096 ≤ s.clock && !(coreOf s k).retained.contains b then some (.bankRetention k b) else none) ++
  ((fenList s).filter fun f => (fenOf s f).ol.heldFor.any fun (_, n) => 2048 ≤ n).map .held ++
  (if s.svc.emergency ≠ [] && s.svc.limEnd ≤ s.clock then [.limiterWindow 48] else [])

/-! ### The banks of a clock (R238) -/

/-- Sub-cores in the order of their places in this clock. -/
def byRank (s : State) (gs : List Nat) : List Nat := sortBy (fun a b => turnRank s a ≤ turnRank s b) gs

/-- What the walkers need of the banks in a clock: digest reads of the launches that complete, and lines of copy records. -/
def walkerNeeds (s : State) : List (List Need) :=
  (s.queues.filterMap fun (q, _) => (completable s q).bind fun l =>
    match l.st with | .ending 0 _ _ => some (digestNeeds l) | _ => none) ++
  (copyLaunches s).filterMap fun l => (copyLineOf s l).map (·.needs l)

/-- The banks of a new clock serve first what the order of R238 puts before the sequencers: the frame engine port, the matrix array, the
scan engine, mesh arrivals, the fetch, store and vector engines. -/
def reserveBanks (s : State) : State :=
  let ask := fun (s : State) (xs : List Need) => (askBanks s xs).2
  let fresh := fun (c : Core) => { c with busy := [], waking := c.waking.filter fun (_, t) => s.clock < t }
  let s := { s with cores := s.cores.map fun (k, c) => (k, fresh c) }
  let s := (s.frms.filter (frmReady s)).foldl (fun s o => ask s [o.need]) s
  let s := (s.batches.filter (batchMoves s)).foldl (fun s b => ask s b.need) s
  let units := fun (ps : List Nat) (s : State) => s.cores.foldl (fun s (k, c) => ps.foldl (fun s p =>
    match runningCmd (cmdsOf c p) p with
    | some x => if cmdActs s x then ask s [cmdNeed s k p x] else s
    | none => s) s) s
  let s := units [3] (units [0, 1, 2] s)
  let s := (s.accs.filter fun a => a.need ≠ [] && canPerform s a).foldl (fun s a => ask s a.need) s
  let s := (fetchNeeds s).foldl ask s
  let s := (walkerNeeds s).foldl ask s
  let moving := s.xfers.map fun x => (x, xferNeeds s x)
  let far := fun (p : Xfer × List (List Need)) => p.2.any fun xs => xs.any fun n => n.1 ≠ coreNo p.1.g
  let records := fun (s : State) (ps : List (Xfer × List (List Need))) => ps.foldl (fun s p => p.2.foldl ask s) s
  let s := records s (moving.filter far)
  let gs := byRank s (s.subs.map (·.1))
  let s := [2, 3].foldl (fun s e => gs.foldl (fun s g => records s (moving.filter fun p => p.1.eng == e && p.1.g == g && !far p)) s) s
  gs.foldl (fun s g => ask s [vectorNeed s g]) s

/-- The engines that move in a clock: those of every sub-core with a step. -/
def turnsOf (s : State) : List (Nat × Nat) :=
  s.subs.flatMap fun (g, _) => if (victimStep (subOf s g)).isSome then engines.map fun e => (g, e) else []

/-- THE CLOCK ADVANCES: the acts of the outside world of the new clock, then what is due in it, then the engines (R1). -/
def nextClock (s : State) : State :=
  let s := endClock s
  let s := reserveBanks (takeView { s with clock := s.clock + 1 })
  let (mine, later) := s.script.partition fun (t, _) => t ≤ s.clock
  let s := releaseWaits { s with script := later, agenda := s.agenda ++ mine.map (·.2) }
  let s := ((fenList s).filter fun f => (fenOf s f).sess.scrTaking).foldl sessionTake s
  { s with agenda := s.agenda ++ dueOperations s ++ dueLinks s ++ dueExtensions s ++ dueWork s ++ dueSwaps s ++ dueLaunches s ++ dueSessions s ++ dueDevice s,
           turn := turnsOf s }

/-- The next event takes effect. -/
def nextEvent (v : Event) (s : State) : Host.Outcome State Fault Refusal := runEvent v { s with agenda := s.agenda.tail }

/-- The next engine has its turn. -/
def nextTurn (p : Nat × Nat) (s : State) : State := engineTurn { s with turn := s.turn.tail } p.1 p.2

end Sys2Proof.Machine
end

