-- ==== Sys2Proof/Machine/Step.lean ====
section
/-! DEFINITION. One step of the package: the next event that is due, else the next engine's turn in this clock, else the end of the
clock. -/

namespace Sys2Proof.Machine
open Sys2Proof

/-- THE STEP. -/
def step (s : State) : Host.Outcome State Fault Refusal :=
  match s.agenda with
  | v :: _ => nextEvent v s
  | [] =>
    match s.turn with
    | p :: _ => .next (nextTurn p s)
    | [] => .next (nextClock s)

/-- The package with an instruction where `step` fetches its next one. -/
def State.withFetchWord (s : State) (_nbits w : Nat) : State :=
  placed s (tableEngine w) (placeWords (tableEngine w) w (decodeTableWord 0 w))

end Sys2Proof.Machine
end

