-- ==== Sys2Proof/Safety.lean ====
section
/-! DEFINITION. The words in which claims are stated: safe runs, invariants of steps, and what an act leaves unchanged. -/

namespace Sys2Proof
open Machine

/-! ### Runs -/

/-- The run of `n` steps from `s` neither faults nor is refused. -/
def SafeFor (n : Nat) (s : State) : Prop := ∃ t, core.run n s = .next t

/-- `t` is reached from `s` by some number of steps. -/
def Reaches (s t : State) : Prop := ∃ n, core.run n s = .next t

/-- Every step keeps a property. -/
def Kept (p : State → Prop) : Prop := ∀ s t, p s → step s = .next t → p t

/-! ### Frames -/

/-- Every byte of memory reads as before. -/
def SameMemory (s t : State) : Prop := ∀ k, byteAt t k = byteAt s k

/-- Every byte of memory outside the run of `n` bytes from key `k` reads as before. -/
def SameMemoryBut (k n : Nat) (s t : State) : Prop := ∀ a, a < k ∨ k + n ≤ a → byteAt t a = byteAt s a

/-- Nothing differs outside the executing sub-core. -/
def SameElsewhere (s t : State) : Prop :=
  t = { s with subs := t.subs } ∧ (∀ g, g ≠ s.cur.g → subOf t g = subOf s g) ∧
  subOf t s.cur.g = { subOf s s.cur.g with act := curCtx t }

/-- Every register, flag, token, queue and special register of the executing context is as before: only its engines' own parts may
differ. -/
def SameContext (s t : State) : Prop := curCtx t = { curCtx s with eng := (curCtx t).eng }

/-- The other engines of the executing context are as before. -/
def SameEngines (s t : State) : Prop := ∀ e, e ≠ s.cur.e → engOf (curCtx t) e = engOf (curCtx s) e

/-- The one difference is a result more in the exposed pipeline of the executing engine (R227, R235): no register, no flag and no
byte of memory has changed yet. -/
def OneResult (s t : State) : Prop :=
  SameMemory s t ∧ SameElsewhere s t ∧ SameContext s t ∧ SameEngines s t ∧
  ∃ l, curEng t = { curEng s with pipe := (curEng s).pipe ++ [l] }

/-- What a read of a destination gives in a context: the register's value and poison (R17, R20, R21). -/
def readDest (c : Ctx) : Dest → Val
  | .s n => rdS c n
  | .lr => rdLr c
  | .h n => rdH c n
  | .k n => rdK c n
  | .a e n => (tget {} (engOf c e).a n).read
  | .l e n => rdL c e n
  | .none | .v _ => ⟨0#64, none⟩

/-- The pending tag of a scalar destination (R21). -/
def pendingOf (c : Ctx) : Dest → Option Nat
  | .s n => (tget {} c.s n).tag.pending
  | .lr => c.lr.tag.pending
  | .h n => (tget {} c.h n).tag.pending
  | .k n => (tget {} c.k n).tag.pending
  | .a e n => (tget {} (engOf c e).a n).tag.pending
  | .l e n => (loopOf c e n).tag.pending
  | .none | .v _ => none

/-! ### Vectors (R19, R143 to R147) -/

/-- Element `j` of a register viewed in elements of `b` bits (R19). -/
def elemAt (b : Nat) (v : VWord) (j : Nat) : Nat := v.toNat / 2 ^ (b * j) % 2 ^ b

/-- What a vector word consumes is not poisoned: its k register, and with a copy to mf, sq or rx its source registers (R147). -/
def VecClean (s : State) (srcs : List (BitVec 6)) : Prop :=
  (∀ v, predicate s = some v → v.p = none) ∧
  (hasCopies s = true → ∀ n ∈ srcs, (vregOf (curCtx s) n.toNat).poison = none)

/-- The outcome is the state with one vector result more, of latency `lat` for the consumers of its prefix: its elements of `b` bits are
given by `f`. -/
def VecOut (s : State) (o : Host.Outcome State Fault Refusal) (lat : Nat) (d : BitVec 6) (b : Nat) (mask : VWord) (p : Option Cause)
    (f : Nat → Nat) : Prop :=
  ∃ v, o = .next (vland s lat d v mask p) ∧ ∀ j, j < 16384 / b → elemAt b v j = f j

/-! ### The frame area (R268) -/

/-- An address of a fen's frame area: its frame table, its page pool, or the sidecars (R268). -/
def FrameArea (s : State) (f va : Nat) : Prop :=
  ((sessOf s f).ftbase.toNat ≤ va ∧ va < (sessOf s f).ftbase.toNat + 64 * ftCount s f) ∨
  (poolBase s f ≤ va ∧ va < poolBase s f + (0x1_0000 + 256) * poolPages s f)

/-- A page of a fen's pool (R270). -/
def PoolPage (s : State) (f p : Nat) : Prop := ∃ i, i < poolPages s f ∧ p = poolBase s f + 0x1_0000 * i

/-- Every byte of memory outside a fen's frame area, whose addresses are at `pa`, reads as before. -/
def SameOutsideArea (f : Nat) (pa : Nat → Nat) (s t : State) : Prop :=
  ∀ k, (∀ va, FrameArea s f va → k ≠ (Loc.phys (pa va)).key) → byteAt t k = byteAt s k

/-- A fen's frame area is well placed: its table and its pool are aligned, do not overlap and end below 2^64, each of its addresses has a place of its
own, at consecutive addresses within a page, and the tables that map it lie outside it, so that no write to the area moves it. -/
def AreaPlaced (s : State) (f : Nat) (pa : Nat → Nat) : Prop :=
  ((sessOf s f).ftbase.toNat + 64 * ftCount s f ≤ poolBase s f ∨
    poolBase s f + (0x1_0000 + 256) * poolPages s f ≤ (sessOf s f).ftbase.toNat) ∧
  poolBase s f + (0x1_0000 + 256) * poolPages s f ≤ 2 ^ 64 ∧ poolBase s f % 0x1_0000 = 0 ∧ (sessOf s f).ftbase.toNat % 64 = 0 ∧
  (∀ x y, FrameArea s f x → FrameArea s f y → pa x = pa y → x = y) ∧
  (∀ x, FrameArea s f x → FrameArea s f (x + 1) → x % 4096 ≠ 4095 → pa (x + 1) = pa x + 1) ∧
  (∀ t : State, Memory.wf t.mem → t.fens = s.fens → SameOutsideArea f pa s t →
    (∀ l, (∀ va, FrameArea s f va → (Loc.phys (pa va)).key / 64 ≠ l) → (l ∈ t.ecc ↔ l ∈ s.ecc)) →
    ∀ va write, FrameArea s f va → frameVa t f va write = .ok (pa va))

end Sys2Proof
end

