-- ==== Sys2Proof/Certificates/Slice0/Obligations.lean ====
section
/-! DEFINITION. The statements for the provers. Each docstring names the rule of the spec that it formalises. -/

open Sys2Proof Sys2Proof.Machine

/-! ### The sequencer's integer words (R114 to R119) -/

/-- The two-operand ALU functions of Table 5.2 and the immediate forms of Table 5.4 (R114, R116), division and the carry-less products
apart: sd receives the result at the word's latency, poisoned as R20 gives. Sums, differences and products wrap; a shift amount is
sb[5:0], in the W forms sb[4:0]. -/
def Obligations.AluFunctions : Prop :=
  (
    ∀ (d a b : BitVec 6) (s : State) (x y : Word) (p q : Option Cause),
      rdS (curCtx s) a.toNat = ⟨x, p⟩ → rdS (curCtx s) b.toNat = ⟨y, q⟩ →
      let res : Nat → Word → Host.Outcome State Fault Refusal := fun lat w => .next (land s lat (.s d.toNat) ⟨w, meet p q⟩)
      exec (.add d a b) s = res 1 (BitVec.ofNat 64 (x.toNat + y.toNat)) ∧
      exec (.sub d a b) s = res 1 (BitVec.ofInt 64 ((x.toNat : Int) - y.toNat)) ∧
      exec (.and d a b) s = res 1 (x &&& y) ∧
      exec (.or d a b) s = res 1 (x ||| y) ∧
      exec (.xor d a b) s = res 1 (x ^^^ y) ∧
      exec (.andn d a b) s = res 1 (x &&& ~~~ y) ∧
      exec (.orn d a b) s = res 1 (x ||| ~~~ y) ∧
      exec (.xnor d a b) s = res 1 (~~~ (x ^^^ y)) ∧
      exec (.sll d a b) s = res 1 (BitVec.ofNat 64 (x.toNat * 2 ^ (y.toNat % 64))) ∧
      exec (.srl d a b) s = res 1 (BitVec.ofNat 64 (x.toNat / 2 ^ (y.toNat % 64))) ∧
      exec (.sra d a b) s = res 1 (BitVec.ofInt 64 (x.toInt / 2 ^ (y.toNat % 64))) ∧
      exec (.rol d a b) s = res 1 (x <<< (y.toNat % 64) ||| x >>> (64 - y.toNat % 64)) ∧
      exec (.ror d a b) s = res 1 (x >>> (y.toNat % 64) ||| x <<< (64 - y.toNat % 64)) ∧
      exec (.mul d a b) s = res 3 (BitVec.ofNat 64 (x.toNat * y.toNat)) ∧
      exec (.mulh d a b) s = res 3 (BitVec.ofInt 64 (x.toInt * y.toInt / 2 ^ 64)) ∧
      exec (.mulhu d a b) s = res 3 (BitVec.ofNat 64 (x.toNat * y.toNat / 2 ^ 64)) ∧
      exec (.mulhsu d a b) s = res 3 (BitVec.ofInt 64 (x.toInt * y.toNat / 2 ^ 64)) ∧
      exec (.min d a b) s = res 1 (if x.toInt < y.toInt then x else y) ∧
      exec (.max d a b) s = res 1 (if x.toInt < y.toInt then y else x) ∧
      exec (.minu d a b) s = res 1 (if x.toNat < y.toNat then x else y) ∧
      exec (.maxu d a b) s = res 1 (if x.toNat < y.toNat then y else x) ∧
      exec (.slt d a b) s = res 1 (if x.toInt < y.toInt then 1#64 else 0#64) ∧
      exec (.sltu d a b) s = res 1 (if x.toNat < y.toNat then 1#64 else 0#64) ∧
      exec (.seq d a b) s = res 1 (if x = y then 1#64 else 0#64) ∧
      exec (.sne d a b) s = res 1 (if x = y then 0#64 else 1#64) ∧
      exec (.addw d a b) s = res 1 ((BitVec.ofNat 32 (x.toNat + y.toNat)).signExtend 64) ∧
      exec (.subw d a b) s = res 1 ((BitVec.ofInt 32 ((x.toNat : Int) - y.toNat)).signExtend 64) ∧
      exec (.sllw d a b) s = res 1 ((BitVec.ofNat 32 (x.toNat * 2 ^ (y.toNat % 32))).signExtend 64) ∧
      exec (.srlw d a b) s = res 1 ((BitVec.ofNat 32 (x.toNat % 2 ^ 32 / 2 ^ (y.toNat % 32))).signExtend 64) ∧
      exec (.sraw d a b) s = res 1 ((BitVec.ofInt 32 ((x.setWidth 32).toInt / 2 ^ (y.toNat % 32))).signExtend 64) ∧
      exec (.mulw d a b) s = res 3 ((BitVec.ofNat 32 (x.toNat * y.toNat)).signExtend 64)) ∧
  (
    ∀ (d a n : BitVec 6) (i : BitVec 12) (s : State) (x : Word) (p : Option Cause), rdS (curCtx s) a.toNat = ⟨x, p⟩ →
      let res : Word → Host.Outcome State Fault Refusal := fun w => .next (land s 1 (.s d.toNat) ⟨w, p⟩)
      exec (.addi d a i) s = res (BitVec.ofInt 64 (x.toNat + i.toInt)) ∧
      exec (.andi d a i) s = res (x &&& i.setWidth 64) ∧
      exec (.ori d a i) s = res (x ||| i.setWidth 64) ∧
      exec (.xori d a i) s = res (x ^^^ i.setWidth 64) ∧
      exec (.slti d a i) s = res (if x.toInt < i.toInt then 1#64 else 0#64) ∧
      exec (.sltiu d a i) s = res (if x.toNat < i.toNat then 1#64 else 0#64) ∧
      exec (.slli d a n) s = res (BitVec.ofNat 64 (x.toNat * 2 ^ n.toNat)) ∧
      exec (.srli d a n) s = res (BitVec.ofNat 64 (x.toNat / 2 ^ n.toNat)) ∧
      exec (.srai d a n) s = res (BitVec.ofInt 64 (x.toInt / 2 ^ n.toNat)) ∧
      exec (.rori d a n) s = res (x >>> n.toNat ||| x <<< (64 - n.toNat)))

/-- R115 and the division rows of Table 5.2: division never traps; it rounds towards zero, a remainder has the sign of the dividend,
and the corner cases give the results of Table 5.3. -/
def Obligations.Division : Prop :=
  ∀ (d a b : BitVec 6) (s : State) (x y : Word) (p q : Option Cause),
    rdS (curCtx s) a.toNat = ⟨x, p⟩ → rdS (curCtx s) b.toNat = ⟨y, q⟩ →
    ∃ dv du rm ru : Word,
      exec (.div d a b) s = .next (land s 18 (.s d.toNat) ⟨dv, meet p q⟩) ∧
      exec (.divu d a b) s = .next (land s 18 (.s d.toNat) ⟨du, meet p q⟩) ∧
      exec (.rem d a b) s = .next (land s 18 (.s d.toNat) ⟨rm, meet p q⟩) ∧
      exec (.remu d a b) s = .next (land s 18 (.s d.toNat) ⟨ru, meet p q⟩) ∧
      (y = 0#64 → dv = 0xFFFFFFFFFFFFFFFF#64 ∧ du = 0xFFFFFFFFFFFFFFFF#64 ∧ rm = x ∧ ru = x) ∧
      (x = 0x8000000000000000#64 → y = 0xFFFFFFFFFFFFFFFF#64 → dv = x ∧ du = 0#64 ∧ rm = 0#64 ∧ ru = x) ∧
      (y ≠ 0#64 → du.toNat = x.toNat / y.toNat ∧ ru.toNat = x.toNat % y.toNat) ∧
      (y ≠ 0#64 → ¬ (x = 0x8000000000000000#64 ∧ y = 0xFFFFFFFFFFFFFFFF#64) →
        dv.toInt = x.toInt.tdiv y.toInt ∧ rm.toInt = x.toInt.tmod y.toInt)

/-- CLMUL and CLMULH, and the unary functions of Table 5.2 (R114), by the bits of their results: bit j of the carry-less product is the
XOR, over the bits i of sb, of bit j − i of sa; bit 63 of CLMULH's result is 0, and CLMUL with all ones gives the prefix XOR. -/
def Obligations.BitFunctions : Prop :=
  (
    ∀ (d a b : BitVec 6) (s : State) (x y : Word) (p q : Option Cause),
      rdS (curCtx s) a.toNat = ⟨x, p⟩ → rdS (curCtx s) b.toNat = ⟨y, q⟩ →
      ∃ lo hi : Word,
        exec (.clmul d a b) s = .next (land s 3 (.s d.toNat) ⟨lo, meet p q⟩) ∧
        exec (.clmulh d a b) s = .next (land s 3 (.s d.toNat) ⟨hi, meet p q⟩) ∧
        (∀ j, j < 64 → lo.getLsbD j = (List.range 64).foldl (fun o i => o ^^ (y.getLsbD i && decide (i ≤ j) && x.getLsbD (j - i))) false) ∧
        (∀ j, j < 64 → hi.getLsbD j =
          (List.range 64).foldl (fun o i => o ^^ (y.getLsbD i && decide (i ≤ j + 64) && x.getLsbD (j + 64 - i))) false) ∧
        hi.getLsbD 63 = false ∧
        (y = 0xFFFFFFFFFFFFFFFF#64 → ∀ j, j < 64 → lo.getLsbD j = (List.range (j + 1)).foldl (fun o i => o ^^ x.getLsbD i) false)) ∧
  (
    ∀ (d a : BitVec 6) (s : State) (x : Word) (p : Option Cause), rdS (curCtx s) a.toNat = ⟨x, p⟩ →
      ∃ lz tz pc br bs : Word,
        exec (.clz d a) s = .next (land s 1 (.s d.toNat) ⟨lz, p⟩) ∧
        exec (.ctz d a) s = .next (land s 1 (.s d.toNat) ⟨tz, p⟩) ∧
        exec (.popc d a) s = .next (land s 1 (.s d.toNat) ⟨pc, p⟩) ∧
        exec (.brev d a) s = .next (land s 1 (.s d.toNat) ⟨br, p⟩) ∧
        exec (.bswap d a) s = .next (land s 1 (.s d.toNat) ⟨bs, p⟩) ∧
        exec (.sextb d a) s = .next (land s 1 (.s d.toNat) ⟨(x.setWidth 8).signExtend 64, p⟩) ∧
        exec (.sexth d a) s = .next (land s 1 (.s d.toNat) ⟨(x.setWidth 16).signExtend 64, p⟩) ∧
        exec (.sextw d a) s = .next (land s 1 (.s d.toNat) ⟨(x.setWidth 32).signExtend 64, p⟩) ∧
        (x = 0#64 → lz = 64#64 ∧ tz = 64#64) ∧
        (x ≠ 0#64 → lz.toNat < 64 ∧ x.getLsbD (63 - lz.toNat) = true ∧ ∀ j, j < lz.toNat → x.getLsbD (63 - j) = false) ∧
        (x ≠ 0#64 → tz.toNat < 64 ∧ x.getLsbD tz.toNat = true ∧ ∀ j, j < tz.toNat → x.getLsbD j = false) ∧
        pc.toNat = ((List.range 64).filter fun j => x.getLsbD j).length ∧
        (∀ j, j < 64 → br.getLsbD j = x.getLsbD (63 - j)) ∧
        (∀ j k, j < 8 → k < 8 → bs.getLsbD (8 * j + k) = x.getLsbD (8 * (7 - j) + k)))

/-- R117, R118 and R119 (with R110 for SELC of the shared half): MOVW writes a shifted immediate and MOVK replaces one half-word of sd,
whose poison it keeps; SEL is poisoned by any of its sources; SELC consumes its condition and gives the selected arm with its tags, and
a poisoned condition traps; KSET and KGET move between sa, k and sd with the tags.
A pending register reads as poisoned with UNDERWAIT, and a landing result does not clear its tag. -/
def Obligations.MovesAndSelects : Prop :=
  (
    ∀ (d : BitVec 6) (h : BitVec 2) (i : BitVec 16) (s : State) (x : Word) (p : Option Cause), rdS (curCtx s) d.toNat = ⟨x, p⟩ →
      exec (.movw d h i) s = .next (land s 1 (.s d.toNat) ⟨BitVec.ofNat 64 (i.toNat * 2 ^ (16 * h.toNat)), none⟩) ∧
      ∃ w : Word, exec (.movk d h i) s = .next (land s 1 (.s d.toNat) ⟨w, p⟩) ∧
        ∀ j, j < 64 → w.getLsbD j =
          (if 16 * h.toNat ≤ j ∧ j < 16 * h.toNat + 16 then i.getLsbD (j - 16 * h.toNat) else x.getLsbD j)) ∧
  (
    (∀ (d c x y : BitVec 6) (s : State),
      exec (.sel d c x y) s = .next (land s 1 (.s d.toNat)
        ⟨if (rdS (curCtx s) c.toNat).w = 0#64 then (rdS (curCtx s) y.toNat).w else (rdS (curCtx s) x.toNat).w,
         meet (rdS (curCtx s) c.toNat).p (meet (rdS (curCtx s) x.toNat).p (rdS (curCtx s) y.toNat).p)⟩)) ∧
    (∀ (d c x y : BitVec 6) (s : State) (v : Word), rdS (curCtx s) c.toNat = ⟨v, none⟩ →
      exec (.selc d c x y) s = .next (land s 1 (.s d.toNat)
        (if v = 0#64 then rdS (curCtx s) y.toNat else rdS (curCtx s) x.toNat))) ∧
    (∀ (d c x y : BitVec 4) (s : State) (v : Word), rdA (curCtx s) s.cur.e c.toNat = ⟨v, none⟩ →
      exec (.selcShared d c x y) s = .next (land s 1 (destA s.cur.e d.toNat)
        (if v = 0#64 then rdA (curCtx s) s.cur.e y.toNat else rdA (curCtx s) s.cur.e x.toNat))) ∧
    (∀ (d c x y : BitVec 6) (s : State) (v : Word) (k : Cause), rdS (curCtx s) c.toNat = ⟨v, some k⟩ →
      exec (.selc d c x y) s = .next (trapWith s k v))) ∧
  (
    ∀ (d a : BitVec 6) (k : BitVec 3) (s : State),
      (∃ w : Word, exec (.kset k a) s = .next (land s 1 (.k k.toNat) ⟨w, (rdS (curCtx s) a.toNat).p⟩) ∧
        w.toNat = (rdS (curCtx s) a.toNat).w.toNat % 2 ^ 32) ∧
      exec (.kget d k) s = .next (land s 1 (.s d.toNat) (rdK (curCtx s) k.toNat))) ∧
  (
    ∀ (c : Ctx) (l : Landing) (n t : Nat) (w : Word), l.val = .word w →
      (n ≠ 0 → pendingOf c (.s n) = some t → (rdS c n).p = some .underwait) ∧
      (pendingOf c (.k n) = some t → (rdK c n).p = some .underwait) ∧
      pendingOf (writeDest c l) l.dest = pendingOf c l.dest)

/-- The frame of the words that only compute a register: the ALU functions, the immediate forms, MOVW, MOVK, SEL, KSET, KGET, and the
address arithmetic of every engine. A result stands in the exposed pipeline; no register, flag, special register or byte of memory
differs. -/
def Obligations.ComputeFrame : Prop :=
  ∀ (i : Instr) (s t : State),
    (match i with
     | .add .. | .sub .. | .and .. | .or .. | .xor .. | .andn .. | .orn .. | .xnor .. | .sll .. | .srl .. | .sra .. | .rol .. | .ror .. |
       .mul .. | .mulh .. | .mulhu .. | .mulhsu .. | .div .. | .divu .. | .rem .. | .remu .. | .min .. | .max .. | .minu .. | .maxu .. |
       .slt .. | .sltu .. | .seq .. | .sne .. | .addw .. | .subw .. | .sllw .. | .srlw .. | .sraw .. | .mulw .. | .clmul .. | .clmulh .. |
       .clz .. | .ctz .. | .popc .. | .brev .. | .bswap .. | .sextb .. | .sexth .. | .sextw .. | .addi .. | .andi .. | .ori .. | .xori .. |
       .slli .. | .srli .. | .srai .. | .rori .. | .slti .. | .sltiu .. | .movw .. | .movk .. | .sel .. | .kset .. | .kget .. |
       .adda .. | .suba .. | .addma .. | .addia .. | .andia .. | .sllia .. | .srlia .. | .movia .. | .movka .. | .moval .. | .movla .. => True
     | _ => False) →
    exec i s = .next t → OneResult s t

/-! ### Registers and landing (R16, R17, R20, R21) -/

/-- What a landing result does to registers (R16, R17, R20, R21): its own destination reads the value and poison of the result unless it is
pending, a pending tag stays, every other register reads as before, and a write to s0 is discarded, so that s0 reads zero, neither
poisoned nor pending. In the sequencer a0–a15 name the same storage as s48–s63. -/
def Obligations.LandingWrites : Prop :=
  (
    ∀ (c : Ctx) (l : Landing) (w : Word), l.val = .word w →
      (∀ n, l.dest = .s n → n ≠ 0 → pendingOf c l.dest = none → rdS (writeDest c l) n = ⟨w, l.poison⟩) ∧
      (∀ n, l.dest = .h n → pendingOf c l.dest = none → rdH (writeDest c l) n = ⟨w, l.poison⟩) ∧
      (∀ n, l.dest = .k n → pendingOf c l.dest = none → rdK (writeDest c l) n = ⟨w, l.poison⟩) ∧
      (∀ e n, l.dest = .a e n → pendingOf c l.dest = none → e ≠ 0 → rdA (writeDest c l) e n = ⟨w, l.poison⟩) ∧
      (∀ e n, l.dest = .l e n → pendingOf c l.dest = none → rdL (writeDest c l) e n = ⟨(w.setWidth 32).setWidth 64, l.poison⟩) ∧
      (l.dest = .lr → pendingOf c l.dest = none → rdLr (writeDest c l) = ⟨w, l.poison⟩) ∧
      (l.dest = .s 0 → writeDest c l = c) ∧
      rdS (writeDest c l) 0 = ⟨0#64, none⟩ ∧
      pendingOf (writeDest c l) l.dest = pendingOf c l.dest ∧
      (∀ d, d ≠ l.dest → readDest (writeDest c l) d = readDest c d) ∧
      (writeDest c l).v = c.v ∧ (writeDest c l).t = c.t ∧ (writeDest c l).q = c.q) ∧
  (
    ∀ (c : Ctx) (n : Nat) (w : Word) (p : Option Cause) (l : Landing), n < 16 → (tget {} c.s (48 + n)).tag.pending = none →
      l.val = .word w → l.poison = p →
      (l.dest = destA 0 n → rdS (writeDest c l) (48 + n) = ⟨w, p⟩) ∧
      (l.dest = .s (48 + n) → rdA (writeDest c l) 0 n = ⟨w, p⟩))

/-! ### Address arithmetic (R102) -/

/-- Table 4.3, in every engine: the poison of every source passes on, and nothing traps. -/
def Obligations.AddressArithmetic : Prop :=
  ∀ (d a b c : BitVec 4) (l : BitVec 2) (h : BitVec 2) (i : BitVec 16) (n : BitVec 6) (s : State) (x y z u v : Val),
    rdA (curCtx s) s.cur.e a.toNat = x → rdA (curCtx s) s.cur.e b.toNat = y → rdA (curCtx s) s.cur.e c.toNat = z →
    rdA (curCtx s) s.cur.e d.toNat = u → rdL (curCtx s) s.cur.e l.toNat = v →
    let res : Word → Option Cause → Host.Outcome State Fault Refusal := fun w p => .next (land s 1 (destA s.cur.e d.toNat) ⟨w, p⟩)
    exec (.adda d a b) s = res (BitVec.ofNat 64 (x.w.toNat + y.w.toNat)) (meet x.p y.p) ∧
    exec (.suba d a b) s = res (BitVec.ofInt 64 ((x.w.toNat : Int) - y.w.toNat)) (meet x.p y.p) ∧
    exec (.addma d a b c) s = res (BitVec.ofNat 64 (x.w.toNat + y.w.toNat * z.w.toNat)) (meet (meet x.p y.p) z.p) ∧
    exec (.addia d a i) s = res (BitVec.ofInt 64 (x.w.toNat + i.toInt)) x.p ∧
    exec (.andia d a i) s = res (x.w &&& i.setWidth 64) x.p ∧
    exec (.sllia d a n) s = res (BitVec.ofNat 64 (x.w.toNat * 2 ^ n.toNat)) x.p ∧
    exec (.srlia d a n) s = res (BitVec.ofNat 64 (x.w.toNat / 2 ^ n.toNat)) x.p ∧
    exec (.movia d h i) s = res (BitVec.ofNat 64 (i.toNat * 2 ^ (16 * h.toNat))) none ∧
    (∃ w, exec (.movka d h i) s = res w u.p ∧ ∀ j, j < 64 → w.getLsbD j =
      (if 16 * h.toNat ≤ j ∧ j < 16 * h.toNat + 16 then i.getLsbD (j - 16 * h.toNat) else u.w.getLsbD j)) ∧
    exec (.moval l d) s = res v.w v.p ∧
    (∃ w : Word, exec (.movla l a) s = .next (land s 1 (.l s.cur.e l.toNat) ⟨w, x.p⟩) ∧ w.toNat = x.w.toNat % 2 ^ 32)

/-! ### Control flow (R41, R90 to R99) -/

/-- Branches and jumps (R41, R92, R95 to R97, R120): the target of a label form, wrapped within the ring in another engine than the
sequencer; which branches are taken, on unpoisoned operands, and where the group goes next; BQT and BQF pop one entry of bq, freeze
when it is empty and trap on a poisoned one; JR and RET jump to a legal target and trap with BADPC on any other. JAL also writes the
return address. -/
def Obligations.Branches : Prop :=
  (
    ∀ (s : State) (o : Int),
      (s.cur.e = 0 → (labelTarget s o : Int) = (s.cur.addr + 4 * o) % 2 ^ 32) ∧
      (s.cur.e ≠ 0 → ∀ b n, ringSpan s = (b, n) → 0 < n →
        b ≤ labelTarget s o ∧ labelTarget s o < b + n ∧ ((labelTarget s o : Int) - (s.cur.addr + 4 * o)) % n = 0)) ∧
  (
    ∀ (a b : BitVec 4) (r : BitVec 6) (o : BitVec 16) (o18 : BitVec 18) (o24 : BitVec 24) (s : State) (x y z : Word),
      rdA (curCtx s) s.cur.e a.toNat = ⟨x, none⟩ → rdA (curCtx s) s.cur.e b.toNat = ⟨y, none⟩ →
      rdS (curCtx s) r.toNat = ⟨z, none⟩ →
      let goes : Prop → Int → State → Prop := fun taken off t =>
        (taken → t = jumpTo s (labelTarget s off)) ∧ (¬ taken → t = s)
      (∃ t, exec (.beq a b o) s = .next t ∧ goes (x = y) o.toInt t) ∧
      (∃ t, exec (.bne a b o) s = .next t ∧ goes (x ≠ y) o.toInt t) ∧
      (∃ t, exec (.blt a b o) s = .next t ∧ goes (x.toInt < y.toInt) o.toInt t) ∧
      (∃ t, exec (.bge a b o) s = .next t ∧ goes (y.toInt ≤ x.toInt) o.toInt t) ∧
      (∃ t, exec (.bltu a b o) s = .next t ∧ goes (x.toNat < y.toNat) o.toInt t) ∧
      (∃ t, exec (.bgeu a b o) s = .next t ∧ goes (y.toNat ≤ x.toNat) o.toInt t) ∧
      (∃ t, exec (.bz r o18) s = .next t ∧ goes (z = 0#64) o18.toInt t) ∧
      (∃ t, exec (.bnz r o18) s = .next t ∧ goes (z ≠ 0#64) o18.toInt t) ∧
      exec (.br o24) s = .next (jumpTo s (labelTarget s o24.toInt)) ∧
      exec (.jal o24) s = .next (jumpTo
        (land s 1 (if s.cur.e = 0 then .lr else .a s.cur.e 14) ⟨BitVec.ofNat 64 s.cur.next, none⟩) (labelTarget s o24.toInt))) ∧
  (
    ∀ (o : BitVec 16) (s : State),
      (headQ (curCtx s) 6 s.clock = none → exec (.bqt o) s = .next (freeze s) ∧ exec (.bqf o) s = .next (freeze s)) ∧
      (∀ v t, headQ (curCtx s) 6 s.clock = some ⟨v, none, t⟩ →
        let u := modCur s fun c => popQ c 6
        exec (.bqt o) s = .next (if v = 0#64 then u else jumpTo u (labelTarget s o.toInt)) ∧
        exec (.bqf o) s = .next (if v = 0#64 then jumpTo u (labelTarget s o.toInt) else u)) ∧
      (∀ v k t, headQ (curCtx s) 6 s.clock = some ⟨v, some k, t⟩ →
        exec (.bqt o) s = .next (trapWith s k v) ∧ exec (.bqf o) s = .next (trapWith s k v))) ∧
  (
    ∀ (a : BitVec 4) (s : State) (x : Word),
      (rdA (curCtx s) s.cur.e a.toNat = ⟨x, none⟩ → s.cur.e = 0 →
        exec (.jr a) s = .next (if x.toNat < 2 ^ 32 ∧ x.toNat % 4 = 0 then jumpTo s x.toNat else trapWith s .badpc)) ∧
      (rdA (curCtx s) s.cur.e a.toNat = ⟨x, none⟩ → s.cur.e ≠ 0 → ∀ b n, ringSpan s = (b, n) →
        exec (.jr a) s = .next (if x.toNat % 4 = 0 ∧ b ≤ x.toNat ∧ x.toNat < b + n then jumpTo s x.toNat else trapWith s .badpc)) ∧
      (rdLr (curCtx s) = ⟨x, none⟩ → s.cur.e = 0 →
        exec .ret s = .next (if x.toNat < 2 ^ 32 ∧ x.toNat % 4 = 0 then jumpTo s x.toNat else trapWith s .badpc)) ∧
      (∀ k, rdA (curCtx s) s.cur.e a.toNat = ⟨x, some k⟩ → exec (.jr a) s = .next (trapWith s k x)))

/-- NOP, DLY, ESTOP and PFX (R40, R93, R94), and loops (R98, R99): entering a loop writes its count, start and end, and a count of 0 skips the
body; the end test goes over the loops that end at a group, latest entry first: the first with a count of 2 or more goes back, those
before it fall out with a count of 0, and the rest are untouched; a poisoned counter traps. -/
def Obligations.PlainControl : Prop :=
  (
    ∀ (s : State) (n : BitVec 16),
      exec .nop s = .next s ∧
      exec (.dly n) s = .next (modCurEng s fun x => { x with dly := n.toNat }) ∧
      (∃ t, exec .estop s = .next t ∧ (curEng t).stopped = true ∧ (curEng t).pipe = (curEng s).pipe ∧ t.cur.next = s.cur.next ∧
        t.accs = s.accs ∧ t.xfers = s.xfers ∧ SameMemory s t ∧ SameEngines s t) ∧
      (∀ (t : BitVec 1) (k : BitVec 5) (p : BitVec 4) (r : BitVec 3) (x q m w : BitVec 1),
        ∃ f, exec (.pfx t k p r x q m w) s = .next { s with cur := { s.cur with pfx := f } } ∧
          f.t = (t == 1#1) ∧ f.token = k.toNat ∧ f.rm = r.toNat ∧ f.rx = (x == 1#1) ∧ f.sq = (q == 1#1) ∧ f.mf = (m == 1#1) ∧
          f.nr = (w == 1#1) ∧ (p.toNat < 8 → f.kp = none) ∧ (8 ≤ p.toNat → f.kp = some (p.toNat - 8)))) ∧
  (
    ∀ (l : BitVec 2) (a : BitVec 4) (n b : BitVec 16) (b6 : BitVec 6) (s : State) (x : Word), rdA (curCtx s) s.cur.e a.toNat = ⟨x, none⟩ →
      let entered : BitVec 32 → Nat → State → Prop := fun cnt body t =>
        (loopOf (curCtx t) s.cur.e l.toNat).count = cnt ∧
        (loopOf (curCtx t) s.cur.e l.toNat).start = s.cur.next ∧
        (loopOf (curCtx t) s.cur.e l.toNat).last = movePc s s.cur.next (4 * ((body : Int) - 1)) ∧
        (∀ m, m ≠ l.toNat → loopOf (curCtx t) s.cur.e m = loopOf (curCtx s) s.cur.e m) ∧
        (cnt ≠ 0#32 → t.cur = s.cur) ∧
        (cnt = 0#32 → t.cur = { s.cur with next := movePc s s.cur.next (4 * (body : Int)), taken := true }) ∧
        SameMemory s t ∧ SameEngines s t
      (∃ t, exec (.loopi l n b6) s = .next t ∧ entered (n.setWidth 32) b6.toNat t) ∧
      (∃ t, exec (.loop l a b) s = .next t ∧ entered (x.setWidth 32) b.toNat t)) ∧
  (
    (∀ (n : Nat) (l : LoopReg) (r : List (Nat × LoopReg)) (t : Tab LoopReg), l.tag = {} → 2 ≤ l.count.toNat →
      ∃ u, endTest ((n, l) :: r) t = .back l.start u ∧ (tget {} u n).count.toNat = l.count.toNat - 1 ∧
        (tget {} u n).start = l.start ∧ (tget {} u n).last = l.last ∧ ∀ m, m ≠ n → tget {} u m = tget {} t m) ∧
    (∀ (n : Nat) (l : LoopReg) (r : List (Nat × LoopReg)) (t : Tab LoopReg), l.tag = {} → l.count = 1#32 →
      endTest ((n, l) :: r) t = endTest r (tset t n { l with count := 0#32 })) ∧
    (∀ (n : Nat) (l : LoopReg) (r : List (Nat × LoopReg)) (t : Tab LoopReg) (k : Cause), l.tag.pending = none → l.tag.poison = some k →
      endTest ((n, l) :: r) t = .trap k (l.count.setWidth 64)) ∧
    (∀ t : Tab LoopReg, endTest [] t = .out t) ∧
    (∀ (x : EngCtx) (a : Nat), (loopsEnding x a).Pairwise (fun p q => q.2.seq ≤ p.2.seq) ∧
      ∀ p, p ∈ loopsEnding x a ↔ p ∈ x.l ∧ p.2.count ≠ 0#32 ∧ p.2.last = a))

/-! ### Tokens (R22, R103 to R110) -/

/-- R105, Table 4.4: with lead := (θ − c) mod 2^16 and behind := (c − θ) mod 2^16. -/
def Obligations.ThresholdCondition : Prop :=
  ∀ (c theta : BitVec 16) (lead behind : Nat), lead = (theta.toNat + 2 ^ 16 - c.toNat) % 2 ^ 16 →
    behind = (c.toNat + 2 ^ 16 - theta.toNat) % 2 ^ 16 →
    (lead = 0 → behind = 0 ∧ threshold c theta = (true, false)) ∧
    (1 ≤ lead → lead ≤ 16383 → 49153 ≤ behind ∧ threshold c theta = (false, false)) ∧
    (16384 ≤ lead → lead ≤ 32768 → 32768 ≤ behind ∧ behind ≤ 49152 ∧ threshold c theta = (true, true)) ∧
    (32769 ≤ lead → 1 ≤ behind ∧ behind ≤ 32767 ∧ threshold c theta = (true, false))

/-- TWAIT, TPOST, TSTAT and CHK (R22, R104, R106, R107, R109): with the threshold met and every covered operation landed TWAIT issues, setting
STALE where Table 4.4 says so, and else the engine waits; TPOST raises a token n times; TSTAT reads the status word, and its clear form
sets it to 0 at the end of the clock, before the raises of that clock; CHK traps on a poisoned register. A raise advances the counter
modulo 2^16 and ORs in its status bits. -/
def Obligations.Tokens : Prop :=
  (
    ∀ (t : BitVec 5) (n : BitVec 16) (a : BitVec 4) (s : State) (c : BitVec 16), s.cur.mark = 0 →
      (tget {} (curCtx s).t t.toNat).count = c →
      (tokenMet s s.cur.g s.cur.e t.toNat n = true → (threshold c n).2 = false →
        exec (.twait t n) s = .next { s with cur := { s.cur with clears := s.cur.clears ++ [t.toNat] } }) ∧
      (tokenMet s s.cur.g s.cur.e t.toNat n = true → (threshold c n).2 = true →
        exec (.twait t n) s = .next { s with raises := s.raises ++ [⟨(curCtx s).cid, t.toNat, 0, stStale, false⟩],
                                             cur := { s.cur with clears := s.cur.clears ++ [t.toNat] } }) ∧
      (tokenMet s s.cur.g s.cur.e t.toNat n = false → ∃ u, exec (.twait t n) s = .next u ∧
        (curEng u).wait = some (.token t.toNat n) ∧ u.cur.hold = .wait (.token t.toNat n) ∧ (curCtx u).t = (curCtx s).t ∧ SameMemory s u) ∧
      (∀ x, rdA (curCtx s) s.cur.e a.toNat = ⟨x, none⟩ → tokenMet s s.cur.g s.cur.e t.toNat (x.setWidth 16) = true →
        (threshold c (x.setWidth 16)).2 = false → heldWord s = none →
        exec (.twaitReg t a) s = .next { holdWord s x with cur := { s.cur with clears := s.cur.clears ++ [t.toNat] } })) ∧
  (
    ∀ (t : BitVec 5) (n : BitVec 8) (d : BitVec 4) (f : BitVec 2) (r : BitVec 6) (s : State),
      exec (.tpost t n) s = .next { s with raises := s.raises ++ [⟨(curCtx s).cid, t.toNat, n.toNat, 0#32, false⟩] } ∧
      exec (.tstat t d 0#1) s =
        .next (land s 1 (destA s.cur.e d.toNat) ⟨(tget {} (curCtx s).t t.toNat).status.setWidth 64, none⟩) ∧
      (∃ u, exec (.tstat t d 1#1) s = .next u ∧
        (curEng u).pipe = (curEng (land s 1 (destA s.cur.e d.toNat) ⟨(tget {} (curCtx s).t t.toNat).status.setWidth 64, none⟩)).pipe ∧
        (curCtx u).t = (curCtx s).t ∧ u.raises = s.raises ++ [⟨(curCtx s).cid, t.toNat, 0, 0#32, true⟩] ∧ SameMemory s u) ∧
      ((chkVal s f r).p = none → exec (.chk f r) s = .next s) ∧
      (∀ k, (chkVal s f r).p = some k →
        let frame := s.cur.e = 0 ∧ f = 3#2 ∧ r.toNat < 16 ∧ causeResumable k = true
        (¬ frame → exec (.chk f r) s = .next (trapWith s k (chkVal s f r).w)) ∧
        (frame → exec (.chk f r) s =
          .next (trapWith s k (chkVal s f r).w 0#16 (some (frecPoison k r.toNat (chkVal s f r).w 0#64 0)))))) ∧
  (
    ∀ (s : State) (r : Raise) (g b : Nat), findCtx s r.cid = some (g, b) → b ≤ 2 →
      let c := ctxAt s g b
      let c' := ctxAt (applyRaise s r) g b
      (tget {} c'.t r.token).count = (tget {} c.t r.token).count + BitVec.ofNat 16 r.n ∧
      (tget {} c'.t r.token).status = (if r.clear then 0#32 else (tget {} c.t r.token).status) ||| r.status ∧
      (∀ m, m ≠ r.token → tget {} c'.t m = tget {} c.t m) ∧ SameMemory s (applyRaise s r))

/-! ### Memory (R5, R300, R401) -/

/-- A run written at a home reads back as written, and every byte outside it reads as before; a write that covers a line whole
clears its poison syndrome, and no other write touches a syndrome. -/
def Obligations.HomeReadAfterWrite : Prop :=
  ∀ (s : State) (l : Loc) (bs : List Byte), Memory.wf s.mem →
    readHome (writeHome s l bs) l bs.length = bs ∧ SameMemoryBut l.key bs.length s (writeHome s l bs) ∧
    Memory.wf (writeHome s l bs).mem ∧
    (∀ x, x ∈ (writeHome s l bs).ecc ↔ x ∈ s.ecc ∧ ¬ (l.key ≤ x * 64 ∧ x * 64 + 64 ≤ l.key + bs.length)) ∧
    (∀ k n, poisoned s k n = false → poisoned (writeHome s l bs) k n = false)

/-- Reset lists no byte of memory, and that is the canonical form. That a byte of LPDDR-6 or host memory that nothing has written reads 0 is
the model's choice (log 2); R394 and R178 set the on-chip memories to 0. -/
def Obligations.ResetMemoryCanonical : Prop := Memory.wf State.reset.mem ∧ ∀ k, byteAt State.reset k = 0#8

/-- Memory keeps its canonical form in every step: addresses strictly rising, and no listed byte equal to what an unlisted one
reads as. -/
def Obligations.MemoryCanonicalKept : Prop := Kept fun s => Memory.wf s.mem

/-! ### Loads and stores (R121 to R127, R260, R301, R303) -/

/-- Loads (R121, R123, R124, R260, R301, R303). One whose home is in the core, with nothing before it to wait for, reads the bytes that its
step sees, least address in the least significant byte, and lands at its latency: 4 clocks for scratch and 5 for the state store; LD and
LDB zero-extend and LDX sign-extends, and the group notes the banks that it read (R238). One whose home is another core's goes in flight behind the accesses of its context and class, and
its result waits in the exposed pipeline for the data, which a response packet brings (R349). No register and no byte of memory changes before it performs. That a load of the own slice reads
its value in its issue clock is the model's choice (log 38; R301 leaves the point open), and so is that it takes its banks then (log 11). -/
def Obligations.Loads : Prop :=
  (
    ∀ (d b : BitVec 6) (p : BitVec 1) (o : BitVec 5) (z : BitVec 2) (c : BitVec 4) (s : State) (x : Word) (n : Nat),
      rdS (curCtx s) b.toNat = ⟨x, none⟩ → n = 2 ^ z.toNat →
      let cid := (curCtx s).cid
      let a := (x.toNat + o.toNat * n) % 2 ^ 64
      let free : Loc → Prop := fun l => isLocal (curCore s) l = true ∧ precedes s cid c.toNat true l n = [] ∧
        ((coreOf s (curCore s)).comb.any fun e => overlaps e.loc e.size l n) = false
      (a % n = 0 → scratchError s s.cur.g a n = none → free (.scratch a) → badView s cid (.scratch a) n = false →
        let bs := readView s cid (.scratch a) n
        let u := useBanks s (.scratch a) n
        exec (.ldScratch d b p o z c) s = .next (land u 4 (.s d.toNat) ⟨BitVec.ofNat 64 (leNat bs), none⟩) ∧
        exec (.ldxScratch d b p o z c) s = .next (land u 4 (.s d.toNat) ⟨(BitVec.ofNat (8 * n) (leNat bs)).signExtend 64, none⟩)) ∧
      (a % n = 0 → stateError s (curCore s) a n = false → free (.state (curCore s) a) →
        let u := touchBanks s (curCore s) a n
        badView u cid (.state (curCore s) a) n = false →
        exec (.ldState d b p o z c) s = .next (land (useBanks u (.state (curCore s) a) n) 5 (.s d.toNat)
          ⟨BitVec.ofNat 64 (leNat (readView u cid (.state (curCore s) a) n)), none⟩)) ∧
      (∀ q : BitVec 6, let r := ringOf s (curCore s) q.toNat
        let ra := r.base.toNat + x.toNat % (r.count.toNat * 2 ^ r.ssz.toNat)
        r.kind ≠ 0#2 → ra % n = 0 → scratchError s s.cur.g ra n = none → free (.scratch ra) → badView s cid (.scratch ra) n = false →
        exec (.ldb d q b z c) s = .next (land (useBanks s (.scratch ra) n) 4 (.s d.toNat) ⟨BitVec.ofNat 64 (leNat (readView s cid (.scratch ra) n)), none⟩))) ∧
  (
    (∀ (d b : BitVec 6) (p : BitVec 1) (o : BitVec 5) (z : BitVec 2) (c : BitVec 4) (s : State) (x : Word) (n a : Nat),
      rdS (curCtx s) b.toNat = ⟨x, none⟩ → n = 2 ^ z.toNat → a = (x.toNat + o.toNat * n) % 2 ^ 64 → a % n = 0 →
      scratchError s s.cur.g a n = none → isLocal (curCore s) (.scratch a) = false → noCredit s (curCore s) (.scratch a) = false →
      ∀ signed : Bool, ∃ t q l, exec (if signed then .ldxScratch d b p o z c else .ldScratch d b p o z c) s = .next t ∧
        q ∈ t.accs ∧ q.kind = .load signed ∧ q.loc = .scratch a ∧ q.size = n ∧ q.cls = c.toNat ∧ q.cid = (curCtx s).cid ∧
        (∀ y, y ∈ s.accs → y.cid = q.cid → y.cls = q.cls → y.isRed = false → y.id ∈ q.after) ∧
        (curEng t).pipe = (curEng s).pipe ++ [l] ∧ l.left = 4 ∧ l.dest = .s d.toNat ∧ l.awaits = some q.id ∧
        SameMemory s t ∧ SameContext s t ∧ SameEngines s t) ∧
    (∀ (s s0 : State) (q : Access) (signed : Bool) (v : Val) (s1 : State), q.kind = .load signed → q.token = none →
      s.accs.find? (fun y => y.id == q.id && y.isRed == false) = some q → canPerform s q = true →
      (∀ pa, q.loc ≠ .phys pa) → askBanks s q.need = (true, s0) →
      loadNow { s0 with accs := s0.accs.filter (·.id != q.id) } q.cid q.loc q.size signed = (v, s1) →
      ∃ t, exec (.packetApplied q.id) s = .next t ∧ SameMemory s t ∧ (∀ y ∈ t.accs, y.id ≠ q.id) ∧
        let arrived : Landing → Landing := fun l =>
          if l.awaits = some q.id then { l with val := .word v.w, poison := v.p, awaits := none } else l
        (isLocal (coreNo q.g) q.loc = true →
          t.subs = (modCid s1 q.cid fun c => modEng c 0 fun x => { x with pipe := x.pipe.map arrived }).subs) ∧
        (isLocal (coreNo q.g) q.loc = false → t.subs = s.subs ∧
          ∃ p, t.mesh = s.mesh ++ [p] ∧ p.kind = .response ∧ p.job = .fill q.cid q.id q.cls v.w v.p ∧ p.dest = coreNo q.g) ∧
        (∀ p : Packet, p.kind = .response → p.job = .fill q.cid q.id q.cls v.w v.p → (takeReply s1 p).subs =
          (modCid s1 q.cid fun c => modEng c 0 fun x => { x with pipe := x.pipe.map arrived }).subs)))

/-- Stores (R121, R260, R301, R303). One whose checks pass goes in flight with its address, size and data, behind the accesses of its context
and class; neither memory nor any context changes before it performs. It performs as one act: its bytes, the least significant at the
least address, are at its home, and every other byte of memory is as before; one to an output range of the step writes the step's shadow
lines instead, and one to a region that the step holds goes to half NOT ACT of its line, which becomes DIRTY, with the rest of a clean line
copied from its active half (R273). The banks of its home serve it (R238), and the host's completer does not refuse it (R323). No order log records, for a log writes entries of its own (R364). -/
def Obligations.Stores : Prop :=
  (
    ∀ (d b : BitVec 6) (o : BitVec 5) (z : BitVec 2) (c : BitVec 4) (s : State) (x w : Word) (n : Nat),
      rdS (curCtx s) b.toNat = ⟨x, none⟩ → rdS (curCtx s) d.toNat = ⟨w, none⟩ → n = 2 ^ z.toNat →
      let a := (x.toNat + o.toNat * n) % 2 ^ 64
      let fits : Nat → Prop := fun a => a % n = 0 ∧ scratchError s s.cur.g a n = none ∧
        shadowOver s (curCtx s).cid [(a, n)] = false ∧ noCredit s (curCore s) (.scratch a) = false
      let issued : Loc → State → Prop := fun l t => ∃ q, q ∈ t.accs ∧ q.kind = .store ∧ q.loc = l ∧ q.size = n ∧ q.data = w ∧
        q.cls = c.toNat ∧ q.cid = (curCtx s).cid ∧ q.token = none ∧
        (∀ y, y ∈ s.accs → y.cid = q.cid → y.cls = q.cls → y.isRed = false → y.id ∈ q.after) ∧
        t.subs = s.subs ∧ SameMemory s t ∧ t.fens = s.fens ∧ t.clock = s.clock ∧ t.raises = s.raises
      (fits a → ∃ t, exec (.stScratch d b o z c) s = .next t ∧ issued (.scratch a) t) ∧
      (a % n = 0 → stateError s (curCore s) a n = false →
        ∃ t, exec (.stState d b o z c) s = .next t ∧ issued (.state (curCore s) a) t) ∧
      (∀ q : BitVec 6, let r := ringOf s (curCore s) q.toNat
        let ra := r.base.toNat + x.toNat % (r.count.toNat * 2 ^ r.ssz.toNat)
        r.kind ≠ 0#2 → fits ra → ∃ t, exec (.stb d q b z c) s = .next t ∧ issued (.scratch ra) t)) ∧
  (
    ∀ (s : State) (q : Access), Memory.wf s.mem → (∀ l, (launchOf s l).olmode ≠ 1#2) → q.kind = .store →
      s.accs.find? (fun y => y.id == q.id && y.isRed == false) = some q → canPerform s q = true →
      (askBanks s q.need).1 = true → hostRefuses s q.loc q.size = false →
      let st := (ctxOfCid s q.cid).step
      let out : Nat → Prop := fun a => ∃ i, i < q.size ∧ inRanges (stepRanges s st) (a + i) = true
      ((match q.loc with
        | .scratch a => ¬ out a
        | .state k _ => (coreOf s k).regions = []
        | _ => True) →
        ∃ t, exec (.packetApplied q.id) s = .next t ∧ readHome t q.loc q.size = leBytes q.size q.data.toNat ∧
          SameMemoryBut q.loc.key q.size s t ∧ ∀ y ∈ t.accs, y.id ≠ q.id) ∧
      (∀ a st', q.loc = .scratch a → st = some st' → (∀ i, i < q.size → inRanges (stepRanges s st) (a + i) = true) → 0 < q.size →
        shadowCount { st' with shadow := ((leBytes q.size q.data.toNat).zipIdx a).foldl (fun t (b, i) => tset t i b) st'.shadow } ≤ 1024 →
        ∃ t, exec (.packetApplied q.id) s = .next t ∧ SameMemory s t ∧ (∀ y ∈ t.accs, y.id ≠ q.id) ∧
          (ctxOfCid t q.cid).step.map (·.shadow) =
            some (((leBytes q.size q.data.toNat).zipIdx a).foldl (fun t (b, i) => tset t i b) st'.shadow)) ∧
      (∀ k o r, q.loc = .state k o → regionAt (coreOf s k) o = some r → holds st r = true → r.off % 64 = 0 → o % 64 + q.size ≤ 64 → 0 < q.size →
        let i := (o - r.off) / 64
        let half : Bool → Nat → Loc := fun h x => .state k (if h then x + 64 * r.lines else x)
        let line := (half (!r.act.contains i) (r.off + 64 * i)).key
        ∃ t, exec (.packetApplied q.id) s = .next t ∧ readHome t (half (!r.act.contains i) o) q.size = leBytes q.size q.data.toNat ∧
          SameMemoryBut line 64 s t ∧ (∀ y ∈ t.accs, y.id ≠ q.id) ∧
          regionAt (coreOf t k) o = some { r with dirty := if r.dirty.contains i then r.dirty else r.dirty ++ [i] } ∧
          ∀ j, j < 64 → j < o % 64 ∨ o % 64 + q.size ≤ j → byteAt t (line + j) =
            byteAt s (if r.dirty.contains i then line + j else (half (r.act.contains i) (r.off + 64 * i)).key + j)))

/-- What an access checks before it goes out (R121, R122): ALIGN, STOFF (past the store, or in half 1 of a live region: R28, R272) and RINGERR trap at the group, a poisoned or pending operand,
a store's data among them, traps with its cause (the register's word is TVAL), and a load marked speculative lands poisoned with the cause
instead and makes no access. A load does not read its destination. -/
def Obligations.AccessTraps : Prop :=
  ∀ (d b : BitVec 6) (o : BitVec 5) (z : BitVec 2) (c : BitVec 4) (s : State) (x : Word) (n a : Nat),
    n = 2 ^ z.toNat → a = (x.toNat + o.toNat * n) % 2 ^ 64 →
    let off : Prop := 0x30_0000 < a + n ∨
      ∃ r ∈ (coreOf s (curCore s)).regions, a < r.off + 128 * r.lines ∧ r.off + 64 * r.lines < a + n
    (rdS (curCtx s) b.toNat = ⟨x, none⟩ →
      (a % n ≠ 0 → exec (.ldScratch d b 0#1 o z c) s = .next (trapWith s .align) ∧
        exec (.ldxScratch d b 0#1 o z c) s = .next (trapWith s .align) ∧
        exec (.ldScratch d b 1#1 o z c) s = .next (landPoison 4 (.s d.toNat) s .align) ∧
        exec (.ldxScratch d b 1#1 o z c) s = .next (landPoison 4 (.s d.toNat) s .align)) ∧
      (off → exec (.ldState d b 0#1 o z c) s = .next (trapWith s .stoff) ∧
        exec (.ldState d b 1#1 o z c) s = .next (landPoison 5 (.s d.toNat) s .stoff)) ∧
      (∀ q : BitVec 6, (ringOf s (curCore s) q.toNat).kind = 0#2 → exec (.ldb d q b z c) s = .next (trapWith s .ringerr)) ∧
      (∀ k e, a % n = 0 → scratchError s s.cur.g a n = some e → ∃ t, exec (.ldScratch d b k o z c) s = .next t ∧
        (∃ v, (curEng t).pipe = (curEng s).pipe ++ [v] ∧ v.left = 4 ∧ v.dest = .s d.toNat ∧ v.poison = some .memerr) ∧
        (fenOf t (curFen s)).xlogn = (fenOf s (curFen s)).xlogn + 1 ∧ SameMemory s t ∧ t.accs = s.accs) ∧
      (∀ w, rdS (curCtx s) d.toNat = ⟨w, none⟩ →
        (a % n ≠ 0 → exec (.stScratch d b o z c) s = .next (trapWith s .align)) ∧
        (off → exec (.stState d b o z c) s = .next (trapWith s .stoff)) ∧
        (∀ q : BitVec 6, (ringOf s (curCore s) q.toNat).kind = 0#2 → exec (.stb d q b z c) s = .next (trapWith s .ringerr))) ∧
      (∀ w p, rdS (curCtx s) d.toNat = ⟨w, some p⟩ →
        (a % n = 0 → exec (.stScratch d b o z c) s = .next (trapWith s p w)) ∧
        (a % n = 0 → stateError s (curCore s) a n = false → exec (.stState d b o z c) s = .next (trapWith s p w)) ∧
        (∀ q : BitVec 6, (ringOf s (curCore s) q.toNat).kind ≠ 0#2 →
          ((ringOf s (curCore s) q.toNat).base.toNat +
            x.toNat % ((ringOf s (curCore s) q.toNat).count.toNat * 2 ^ (ringOf s (curCore s) q.toNat).ssz.toNat)) % n = 0 →
          exec (.stb d q b z c) s = .next (trapWith s p w)))) ∧
    (∀ p, rdS (curCtx s) b.toNat = ⟨x, some p⟩ →
      exec (.ldScratch d b 0#1 o z c) s = .next (trapWith s p x) ∧ exec (.ldxScratch d b 0#1 o z c) s = .next (trapWith s p x) ∧
      exec (.ldState d b 0#1 o z c) s = .next (trapWith s p x) ∧
      (∀ q : BitVec 6, exec (.ldb d q b z c) s = .next (trapWith s p x)) ∧
      exec (.ldScratch d b 1#1 o z c) s = .next (landPoison 4 (.s d.toNat) s p) ∧
      exec (.ldxScratch d b 1#1 o z c) s = .next (landPoison 4 (.s d.toNat) s p) ∧
      exec (.ldState d b 1#1 o z c) s = .next (landPoison 5 (.s d.toNat) s p) ∧
      (∀ w, rdS (curCtx s) d.toNat = ⟨w, none⟩ →
        exec (.stScratch d b o z c) s = .next (trapWith s p x) ∧ exec (.stState d b o z c) s = .next (trapWith s p x)))

/-- Accesses through handles (R121, R125, R321): the check, with the REASONs of Table 18.5 in their order, a not-present entry, or the physical
address; an access that passes goes in flight to that address, and a load makes its destination pending on the token of its prefix. ST
raises its token only with a token prefix. When a load performs, its destination receives the bytes that its home holds then, least address
in the least significant byte, sign-extended for LDX, and its token rises with status 0 as the result lands (R301); an uncorrected error
poisons the result, and so does an error response of the host's completer, which sets the error bit of the status and writes a violation
record (R323). A store with a token raises it with its status; a refused one leaves its home as it was and a pending store error. -/
def Obligations.HandleAccesses : Prop :=
  (
    ∀ (s : State) (f x n kind : Nat) (hv : Word) (m : Bool), kind ≤ 2 →
      let h := Handle.ofWord hv
      let e := hentry s f h.index
      let names : Prop := h.index ≠ 0 ∧ e.alloc = true ∧ e.bad = false ∧ e.gen = h.gen
      let kinds : Prop := (kind ≠ 1 → (h.acc = 0 ∨ h.acc = 2) ∧ e.r = true) ∧
        (kind ≠ 0 → (h.acc = 1 ∨ h.acc = 2) ∧ e.w = true ∧ (m = true ∨ e.fo = false))
      let inside : Prop := h.off + x < 2 ^ 64 ∧ e.lo ≤ h.off + x ∧ h.off + x + n ≤ e.hi
      (h.fen ≠ f → checkHandle s f hv x n kind m = .fail 4) ∧
      (h.fen = f → ¬ names → checkHandle s f hv x n kind m = .fail 5) ∧
      (h.fen = f → names → ¬ kinds → checkHandle s f hv x n kind m = .fail 6) ∧
      (h.fen = f → names → kinds → ¬ inside → checkHandle s f hv x n kind m = .fail 7) ∧
      (h.fen = f → names → kinds → inside → e.present = false → checkHandle s f hv x n kind m = .absent) ∧
      (h.fen = f → names → kinds → inside → e.present = true → checkHandle s f hv x n kind m = .pass (e.pa + (h.off + x)))) ∧
  (
    ∀ (d : BitVec 6) (h : BitVec 4) (x : BitVec 6) (p : BitVec 1) (z : BitVec 2) (c : BitVec 4) (s : State) (hv i w : Word) (n pa : Nat),
      rdH (curCtx s) h.toNat = ⟨hv, none⟩ → rdS (curCtx s) x.toNat = ⟨i, none⟩ → n = 2 ^ z.toNat →
      ((Handle.ofWord hv).off + i.toNat) % n = 0 → noCredit s (curCore s) (.phys pa) = false →
      let issued : AccKind → Word → Option Nat → State → Prop := fun k w tok t => ∃ q, q ∈ t.accs ∧ q.kind = k ∧ q.loc = .phys pa ∧
        q.size = n ∧ q.data = w ∧ q.cls = c.toNat ∧ q.cid = (curCtx s).cid ∧ q.token = tok ∧ q.held = none ∧
        (∀ y, y ∈ s.accs → y.cid = q.cid → y.cls = q.cls → y.isRed = false → y.id ∈ q.after) ∧ SameMemory s t
      (checkHandle s (curFen s) hv i.toNat n 0 (atM s) = .pass pa →
        ∃ t u, exec (.ldHandle d h x p z c) s = .next t ∧ exec (.ldxHandle d h x p z c) s = .next u ∧
          issued (.load false) 0#64 (some s.cur.pfx.token) t ∧ issued (.load true) 0#64 (some s.cur.pfx.token) u ∧
          (d ≠ 0#6 → pendingOf (curCtx t) (.s d.toNat) = some s.cur.pfx.token ∧ pendingOf (curCtx u) (.s d.toNat) = some s.cur.pfx.token) ∧
          (∀ m, m ≠ d.toNat → rdS (curCtx t) m = rdS (curCtx s) m ∧ rdS (curCtx u) m = rdS (curCtx s) m)) ∧
      (rdS (curCtx s) d.toNat = ⟨w, none⟩ → checkHandle s (curFen s) hv i.toNat n 1 (atM s) = .pass pa →
        ∃ t, exec (.stHandle d h x z c) s = .next t ∧ issued .store w (if s.cur.pfx.t then some s.cur.pfx.token else none) t ∧
          t.subs = s.subs)) ∧
  (
    ∀ (s : State) (q : Access) (pa : Nat), q.loc = .phys pa →
      s.accs.find? (fun y => y.id == q.id && y.isRed == false) = some q → canPerform s q = true →
      let bs := readHome s q.loc q.size
      let refused := hostRefuses s q.loc q.size
      let brings : State → Posted → Prop := fun t p => p ∈ results t ∧ p.id = q.id ∧ p.cid = q.cid ∧ p.dest = q.dest ∧ p.token = q.token
      ∃ t, exec (.packetApplied q.id) s = .next t ∧ (∀ y ∈ t.accs, y.id ≠ q.id) ∧
        (refused = true → SameMemory s t ∧ (fenOf t (q.fen s)).xlogn = (fenOf s (q.fen s)).xlogn + 1) ∧
        (∀ signed k, q.kind = .load signed → q.token = some k → SameMemory s t ∧ ∃ p, brings t p ∧
          (refused = true → p.poison = some .memerr ∧ p.status = stErr) ∧
          (refused = false → p.status = 0#32 ∧
            (poisoned s q.loc q.size = true → p.poison = some .memerr) ∧
            (poisoned s q.loc q.size = false → p.poison = none ∧
              p.val = if signed then (BitVec.ofNat (8 * q.size) (leNat bs)).signExtend 64 else BitVec.ofNat 64 (leNat bs)))) ∧
        (∀ k, q.kind = .store → q.token = some k → ∃ p, brings t p ∧ p.poison = none ∧ p.status = if refused then stErr else 0#32) ∧
        (q.kind = .store → q.cls < 16 → (findCtx s q.cid).isSome = true → refused = true → (pendingErrors (ctxOfCid t q.cid)).getLsbD q.cls = true))

/-! ### Atomics, reductions, FENCE and PUBL (R128 to R133) -/

/-- The operations of atomics and reductions on 4- and 8-byte values (R48, R128): wrapping addition, bitwise operations, signed and unsigned
minimum and maximum, exchange, and compare and exchange. An atomic or a flushed reduction performs as one read and one write (R128,
R129): its home holds the operation's result, no other byte of memory differs, and an atomic's old value is on its way to its register
with its token. The banks of the home serve it (R238), and the host's completer does not refuse it (R323). FADD is the f32 sum rounded once
to nearest even (R88). That a 4-byte CAS compares the low 4 bytes of the expected register is the model's choice (log 94). -/
def Obligations.AtomicsPerform : Prop :=
  (
    ∀ (n : Nat) (o v e : BitVec (8 * n)), n = 4 ∨ n = 8 →
      let new : Nat → Nat := fun op => amoNew op n o.toNat v.toNat e.toNat
      new 0 = (o + v).toNat ∧ new 1 = (o &&& v).toNat ∧ new 2 = (o ||| v).toNat ∧ new 3 = (o ^^^ v).toNat ∧
      new 4 = (if v.toInt < o.toInt then v else o).toNat ∧ new 5 = (if o.toInt < v.toInt then v else o).toNat ∧
      new 6 = (if v.toNat < o.toNat then v else o).toNat ∧ new 7 = (if o.toNat < v.toNat then v else o).toNat ∧
      new 8 = v.toNat ∧ new 9 = (if o = e then v else o).toNat ∧
      (n = 4 → new 10 = rne32 (FV.add 0 (decodeF f32 o.toNat) (decodeF f32 v.toNat)))) ∧
  (
    ∀ (s : State) (q : Access) (op : Nat), Memory.wf s.mem → (∀ l, (launchOf s l).olmode ≠ 1#2) →
      canPerform s q = true → poisoned s q.loc q.size = false → (askBanks s q.need).1 = true → hostRefuses s q.loc q.size = false →
      let old := leNat (readHome s q.loc q.size)
      let new := amoNew op q.size old (q.data.toNat % 2 ^ (8 * q.size)) (q.expect.toNat % 2 ^ (8 * q.size))
      let wrote : State → Prop := fun t => readHome t q.loc q.size = leBytes q.size new ∧ SameMemoryBut q.loc.key q.size s t ∧
        ∀ y ∈ t.accs, y.id ≠ q.id
      (q.kind = .amo op → s.accs.find? (fun y => y.id == q.id && y.isRed == false) = some q →
        ∃ t p, exec (.packetApplied q.id) s = .next t ∧ wrote t ∧
          (∀ k, q.token = some k → p ∈ results t ∧ p.dest = q.dest ∧ p.val = BitVec.ofNat 64 old ∧ p.poison = none ∧ p.cid = q.cid ∧
            p.token = some k ∧ p.status = 0#32)) ∧
      (q.kind = .red op → s.accs.find? (fun y => y.id == q.id && y.isRed == true) = some q →
        ∃ t, exec (.reductionApplied q.id) s = .next t ∧ wrote t ∧ t.posted = s.posted))

/-- Atomics and reductions issue (R128, R129): an atomic whose checks pass goes in flight with its operands and makes its register pending on
the token of its prefix; for CAS the expected value is the register after v. A reduction rests in its core's combining buffer, its
operand kept to its size. One whose size, operation, address and class a resting entry has merges into it; any other one allocates an
entry, and the entries that share a byte with it, or with 64 entries the oldest, leave first, each as one reduction on its way to its
home. A load or a store that shares a byte with entries makes them leave and performs after them, and a release or full FENCE that waits
makes those leave that its context contributed to in the named classes. Memory does not change before either performs. -/
def Obligations.AtomicsIssue : Prop :=
  (
    ∀ (v : BitVec 6) (b : BitVec 4) (x : BitVec 6) (o c : BitVec 4) (s : State) (y i w e : Word),
      rdS (curCtx s) x.toNat = ⟨i, none⟩ → rdS (curCtx s) v.toNat = ⟨w, none⟩ →
      (o = 9#4 → rdS (curCtx s) (v.toNat + 1) = ⟨e, none⟩) → (o ≠ 9#4 → e = 0#64) →
      let issued : Loc → Nat → State → Prop := fun l n t => ∃ q, q ∈ t.accs ∧ q.kind = .amo o.toNat ∧ q.loc = l ∧ q.size = n ∧ q.data = w ∧
        q.expect = e ∧ q.cls = c.toNat ∧ q.cid = (curCtx s).cid ∧ q.dest = .s v.toNat ∧ q.token = some s.cur.pfx.token ∧
        (v ≠ 0#6 → pendingOf (curCtx t) (.s v.toNat) = some s.cur.pfx.token) ∧ SameMemory s t
      (rdA (curCtx s) 0 b.toNat = ⟨y, none⟩ → ∀ a n, a = (y + i).toNat → a % n = 0 → scratchError s s.cur.g a n = none →
        noCredit s (curCore s) (.scratch a) = false →
        (n = 4 → ∃ t, exec (.amo32 v b x o c) s = .next t ∧ issued (.scratch a) 4 t) ∧
        (n = 8 → ∃ t, exec (.amo64 v b x o c) s = .next t ∧ issued (.scratch a) 8 t)) ∧
      (rdH (curCtx s) b.toNat = ⟨y, none⟩ → ∀ pa n, ((Handle.ofWord y).off + i.toNat) % n = 0 →
        checkHandle s (curFen s) y i.toNat n 2 (atM s) = .pass pa → noCredit s (curCore s) (.phys pa) = false →
        (n = 4 → ∃ t, exec (.amoh32 v b x o c) s = .next t ∧ issued (.phys pa) 4 t) ∧
        (n = 8 → ∃ t, exec (.amoh64 v b x o c) s = .next t ∧ issued (.phys pa) 8 t))) ∧
  (
    ∀ (v : BitVec 6) (b : BitVec 4) (x : BitVec 6) (o c : BitVec 4) (s : State) (y i w : Word),
      rdS (curCtx s) x.toNat = ⟨i, none⟩ → rdS (curCtx s) v.toNat = ⟨w, none⟩ → (coreOf s (curCore s)).comb = [] →
      (∀ l, (launchOf s l).olmode = 0#2) →
      let rests : Loc → Nat → State → Prop := fun l n t => SameMemory s t ∧ t.subs = s.subs ∧ t.accs = s.accs ∧
        ∃ e, (coreOf t (curCore s)).comb = [e] ∧ e.op = o.toNat ∧ e.loc = l ∧ e.size = n ∧ e.cls = c.toNat ∧
          e.operand.toNat = w.toNat % 2 ^ (8 * n) ∧ e.contributors = [(curCtx s).cid]
      (rdA (curCtx s) 0 b.toNat = ⟨y, none⟩ → ∀ a n, a = (y + i).toNat → a % n = 0 → scratchError s s.cur.g a n = none →
        (n = 4 → ∃ t, exec (.red32 v b x o c) s = .next t ∧ rests (.scratch a) 4 t) ∧
        (n = 8 → ∃ t, exec (.red64 v b x o c) s = .next t ∧ rests (.scratch a) 8 t)) ∧
      (rdH (curCtx s) b.toNat = ⟨y, none⟩ → ∀ pa n, ((Handle.ofWord y).off + i.toNat) % n = 0 →
        checkHandle s (curFen s) y i.toNat n 2 (atM s) = .pass pa →
        (n = 4 → ∃ t, exec (.redh32 v b x o c) s = .next t ∧ rests (.phys pa) 4 t) ∧
        (n = 8 → ∃ t, exec (.redh64 v b x o c) s = .next t ∧ rests (.phys pa) 8 t))) ∧
  (
    ∀ (s : State), (∀ l, (launchOf s l).olmode = 0#2) →
      let buf := (coreOf s (curCore s)).comb
      let cid := (curCtx s).cid
      let sent : State → CombEntry → Prop := fun t e => ∃ q ∈ t.accs, q.id = e.id ∧ q.kind = .red e.op ∧ q.loc = e.loc ∧ q.size = e.size ∧
        q.data = e.operand ∧ q.cls = e.cls ∧ q.contrib = e.contributors
      (∀ e ∈ buf, flushable s (curCore s) e = true) →
      (∀ (v : BitVec 6) (b : BitVec 4) (x : BitVec 6) (o c : BitVec 4) (y i w : Word) (n a : Nat),
        rdS (curCtx s) x.toNat = ⟨i, none⟩ → rdS (curCtx s) v.toNat = ⟨w, none⟩ → rdA (curCtx s) 0 b.toNat = ⟨y, none⟩ →
        a = (y + i).toNat → n = 4 ∨ n = 8 → a % n = 0 → scratchError s s.cur.g a n = none →
        let twin : CombEntry → Prop := fun e => e.size = n ∧ e.op = o.toNat ∧ e.loc = .scratch a ∧ e.cls = c.toNat
        let shares : CombEntry → Bool := fun e => overlaps e.loc e.size (.scratch a) n
        let mine : CombEntry → Prop := fun e => twin e ∧ e.operand.toNat = w.toNat % 2 ^ (8 * n) ∧ e.contributors = [cid]
        ∃ t, exec (if n = 4 then .red32 v b x o c else .red64 v b x o c) s = .next t ∧ SameMemory s t ∧ t.subs = s.subs ∧
          ((∃ e ∈ buf, twin e) → t.accs = s.accs ∧ (coreOf t (curCore s)).comb.length = buf.length ∧
            ∀ (j : Nat) (e : CombEntry), buf[j]? = some e → ∃ r, (coreOf t (curCore s)).comb[j]? = some r ∧ (¬ twin e → r = e) ∧
              (twin e → twin r ∧ r.id = e.id ∧ r.operand = BitVec.ofNat 64 (amoNew e.op n e.operand.toNat (w.toNat % 2 ^ (8 * n)) 0) ∧
                r.contributors = if e.contributors.contains cid then e.contributors else e.contributors ++ [cid])) ∧
          ((∀ e ∈ buf, ¬ twin e) → buf.length < 64 ∨ (∃ e ∈ buf, shares e = true) → ∃ r, mine r ∧
            (coreOf t (curCore s)).comb = (buf.filter fun e => !shares e) ++ [r] ∧ ∀ e ∈ buf, shares e = true → sent t e ∧ e.id ∈ r.after) ∧
          (∀ e r', (∀ e ∈ buf, ¬ twin e ∧ shares e = false) → 64 ≤ buf.length → buf = e :: r' → sent t e ∧ ∃ r, mine r ∧
            (coreOf t (curCore s)).comb = (buf.filter fun x => !(x == e)) ++ [r])) ∧
      (∀ (d b : BitVec 6) (p : BitVec 1) (o : BitVec 5) (z : BitVec 2) (c : BitVec 4) (x w : Word) (n a : Nat),
        rdS (curCtx s) b.toNat = ⟨x, none⟩ → n = 2 ^ z.toNat → a = (x.toNat + o.toNat * n) % 2 ^ 64 → a % n = 0 →
        scratchError s s.cur.g a n = none → noCredit s (curCore s) (.scratch a) = false →
        (∃ e ∈ buf, overlaps e.loc e.size (.scratch a) n = true) →
        let after : Instr → AccKind → Prop := fun i k => ∃ t q, exec i s = .next t ∧ q ∈ t.accs ∧ q.kind = k ∧ q.loc = .scratch a ∧
          q.size = n ∧ (coreOf t (curCore s)).comb = (buf.filter fun e => !overlaps e.loc e.size (.scratch a) n) ∧
          (∀ e ∈ buf, overlaps e.loc e.size (.scratch a) n = true → sent t e ∧ e.id ∈ q.after) ∧ SameMemory s t
        after (.ldScratch d b p o z c) (.load false) ∧
        (rdS (curCtx s) d.toNat = ⟨w, none⟩ → shadowOver s cid [(a, n)] = false → after (.stScratch d b o z c) .store)) ∧
      (∀ (k : BitVec 2) (p : BitVec 3) (m : BitVec 16), k ≠ 0#2 → pendingErrors (curCtx s) &&& m = 0#16 →
        waitMet (beforeGroup s) s.cur.g s.cur.e (.fence k.toNat p.toNat m) = false →
        let named : CombEntry → Bool := fun e => m.getLsbD e.cls && e.contributors.contains cid
        ∃ t, exec (.fence k p m) s = .next t ∧ t.cur.hold = .wait (.fence k.toNat p.toNat m) ∧ SameMemory s t ∧
          (coreOf t (curCore s)).comb = (buf.filter fun e => !named e) ∧ ∀ e ∈ buf, named e = true → sent t e))

/-- FENCE and PUBL (R123, R130, R133): a pending store error of a named class traps; else FENCE issues when its condition holds and changes
nothing. PUBL publishes the selected destinations once they may be, PUBL s0 every one, and raises its token if it has one. Publishing is
one act: every byte that the step wrote to a selected output range goes to its home, where its slice still answers the fen (the model's
choice, log 99), and no other byte of memory differs. -/
def Obligations.FenceAndPubl : Prop :=
  (
    ∀ (k : BitVec 2) (p : BitVec 3) (m : BitVec 16) (a : BitVec 6) (s : State) (x : Word),
      (pendingErrors (curCtx s) &&& m = 0#16 → waitMet (beforeGroup s) s.cur.g s.cur.e (.fence k.toNat p.toNat m) = true →
        exec (.fence k p m) s = .next s) ∧
      (pendingErrors (curCtx s) &&& m ≠ 0#16 → exec (.fence k p m) s = .next (trapWith s .memerr)) ∧
      (rdS (curCtx s) a.toNat = ⟨x, none⟩ → heldWord s = none →
        let sel := if a = 0#6 then BitVec.allOnes 64 else x
        waitMet (beforeGroup (holdWord s sel)) s.cur.g s.cur.e (.publ sel) = true →
        let u := publish (holdWord s sel) s.cur.g (curCtx s).cid sel.toNat
        exec (.publ a) s = .next (if s.cur.pfx.t then raiseTok u (curCtx s).cid s.cur.pfx.token 1 0#32 else u))) ∧
  (
    ∀ (s : State) (g cid mask : Nat) (st : StepCtx), Memory.wf s.mem → (∀ l, (launchOf s l).olmode ≠ 1#2) →
      (ctxOfCid s cid).step = some st → st.shadow.Pairwise (fun a b => a.1 < b.1) →
      let l := launchOf s st.lid
      let chosen : Nat → Prop := fun k => inFen s l.fen (k / 0x80_0000) = true ∧ ∃ i, i < fieldLE l.lnr 0x0C 1 ∧ bitAt mask i = true ∧
        (outRange l i).1 ≤ k ∧ k < (outRange l i).1 + (outRange l i).2
      let t := publish s g cid mask
      (∀ k b, (k, b) ∈ st.shadow → chosen k → byteAt t k = b) ∧
      (∀ k, (∀ b, (k, b) ∈ st.shadow → ¬ chosen k) → byteAt t k = byteAt s k))

/-! ### Events of accesses in flight -/

/-- A completion brings its result to its destination, where the end of the clock writes it in issue order, and its token rises in the same
clock (R21, R228, R242, R245); a credit goes back to its core (R352); the detector of a packet that has not moved for 2,048 clocks fires
(R354); the Wisp, at a router with a fired detector and a free Slough buffer, drains a packet, which counts event 14 (R355, R382), and at a
router without one passes on; and the drained packet arrives unaltered at its own router, whose Slough buffer is free again (R356). -/
def Obligations.PacketEvents : Prop :=
  (∀ (s : State) (p : Posted) (k : Nat), s.posted.find? (·.id == p.id) = some p → p.token = some k →
    ∃ t, exec (.operationCompletes p.id) s = .next t ∧ t.raises = s.raises ++ [⟨p.cid, k, 1, p.status, false⟩] ∧
      t.posted = s.posted.filter (·.id != p.id) ∧ SameMemory s t ∧
      t.subs = (arriveAt s p.cid { left := 0, dest := p.dest, val := .word p.val, poison := p.poison, grp := p.grp }).subs) ∧
  (∀ (s : State) (g b : Nat), b ≤ 2 → (ctxAt s g b).arrive ≠ [] →
    ctxAt (landArrivals s g b) g b = (issueOrder (ctxAt s g b).arrive).foldl writeDest { ctxAt s g b with arrive := [] } ∧
    (issueOrder (ctxAt s g b).arrive).Perm (ctxAt s g b).arrive ∧ (issueOrder (ctxAt s g b).arrive).Pairwise (fun x y => x.grp ≤ y.grp)) ∧
  (∀ (s : State) (k g : Nat), k < 96 → ∃ t, exec (.creditReturn k g) s = .next t ∧
    tget 0 (coreOf t k).spent g = tget 0 (coreOf s k).spent g - 1 ∧ (∀ j, j ≠ g → tget 0 (coreOf t k).spent j = tget 0 (coreOf s k).spent j) ∧
    t = { s with cores := t.cores }) ∧
  (∀ (s : State) (id : Nat), ∃ t, exec (.timeoutFires id) s = .next t ∧ t = { s with mesh := t.mesh } ∧
    t.mesh = s.mesh.map fun a => match a.place with
      | .lane r p l m f => if a.id = id ∧ m + 2048 ≤ s.clock then { a with place := .lane r p l m true } else { a with place := .lane r p l m f }
      | _ => a) ∧
  (∀ (s : State) (d : Nat) (a : Packet) (r : List Packet), d < 2 → (dieOf s d).wisp < 48 → firedAt s (d * 48 + (dieOf s d).wisp) = a :: r →
    tget 0 (dieOf s d).sloughs (d * 48 + (dieOf s d).wisp) = 0 →
    ∃ t, exec (.wispCapture d) s = .next t ∧ (dieOf t d).wisp = (dieOf s d).wisp ∧
      tget 0 (dieOf t d).sloughs (d * 48 + (dieOf s d).wisp) = a.id ∧
      (∀ q ∈ t.mesh, q.id = a.id → q.place = .slough (d * 48 + (dieOf s d).wisp)) ∧
      t.fens = (countEv s (coreOf s a.k).fen a.k 14 1).fens ∧ SameMemory s t ∧ t.subs = s.subs) ∧
  (∀ (s : State) (d : Nat), firedAt s (d * 48 + (dieOf s d).wisp) = [] →
    (dieOf (wispClock s d) d).wisp = ((dieOf s d).wisp + 1) % 48) ∧
  (∀ (s : State) (a : Packet) (r : Nat), s.mesh.find? (·.id == a.id) = some a → a.place = .slough r → a.due ≤ s.clock → r = a.dest →
    ∃ t, exec (.sloughArrival a.id) s = .next t ∧ { a with place := .arrived } ∈ t.mesh ∧ tget 0 (dieOf t (dieNo r)).sloughs r = 0 ∧
      SameMemory s t ∧ t.subs = s.subs)

/-! ### Handles and translation (R134, R135, R314 to R322) -/

/-- The handle functions of Table 5.8 (R135). HMOV, HRD and HWR move a value with its tags. HNARROW takes the least free entry for the
narrower window and answers a handle of the entry's generation; a window that leaves the old one gives MEMERR and a violation record.
HREV is of S and M only (R56): it frees the entry and raises its generation, once the wait is met. -/
def Obligations.HandleFunctions : Prop :=
  (∀ (d a : BitVec 4) (x : BitVec 6) (s : State),
    exec (.hmov d a) s = .next (land s 1 (.h d.toNat) (rdH (curCtx s) a.toNat)) ∧
    exec (.hrd x a) s = .next (land s 1 (.s x.toNat) (rdH (curCtx s) a.toNat)) ∧
    exec (.hwr d x) s = .next (land s 1 (.h d.toNat) (rdS (curCtx s) x.toNat))) ∧
  (∀ (d a : BitVec 4) (b : BitVec 6) (s : State) (hv r : Word) (i lo hi : Nat),
    rdH (curCtx s) a.toNat = ⟨hv, none⟩ → rdS (curCtx s) b.toNat = ⟨r, none⟩ →
    let h := Handle.ofWord hv
    let e := hentry s (curFen s) h.index
    handleNames s (curFen s) h = none → lo = h.off + r.toNat % 2 ^ 32 → hi = lo + r.toNat / 2 ^ 32 →
    (e.lo ≤ lo → hi ≤ e.hi → freeEntry (fenOf s (curFen s)) = some i → i < 2 ^ 13 → lo < 2 ^ 35 → (hentry s (curFen s) i).gen < 2 ^ 10 →
      ∃ t w, exec (.hnarrow d a b) s = .next t ∧
        (∃ l, (curEng t).pipe = (curEng s).pipe ++ [l] ∧ l.left = 2 ∧ l.dest = .h d.toNat ∧ l.val = .word w ∧ l.poison = none) ∧
        Handle.ofWord w = ⟨h.fen, h.acc, (hentry s (curFen s) i).gen, i, lo⟩ ∧
        hentry t (curFen s) i = { e with lo, hi, alloc := true, retired := false, gen := (hentry s (curFen s) i).gen } ∧
        (∀ j, j ≠ i → hentry t (curFen s) j = hentry s (curFen s) j) ∧ SameMemory s t) ∧
    (lo < e.lo ∨ e.hi < hi → ∃ t l, exec (.hnarrow d a b) s = .next t ∧ (curEng t).pipe = (curEng s).pipe ++ [l] ∧ l.left = 2 ∧
      l.dest = .h d.toNat ∧ l.poison = some .memerr ∧ (fenOf t (curFen s)).xlogn = (fenOf s (curFen s)).xlogn + 1 ∧
      (fenOf t (curFen s)).ht = (fenOf s (curFen s)).ht ∧ SameMemory s t)) ∧
  (∀ (a : BitVec 4) (s : State) (hv : Word), rdH (curCtx s) a.toNat = ⟨hv, none⟩ →
    let h := Handle.ofWord hv
    ((curCtx s).pl = 0#2 → exec (.hrev a) s = .next (trapWith s .priv)) ∧
    ((curCtx s).pl ≠ 0#2 → handleNames s (curFen s) h = none → waitMet (beforeGroup s) s.cur.g s.cur.e (.hrev h.index) = true →
      ∃ t, exec (.hrev a) s = .next t ∧ (hentry t (curFen s) h.index).alloc = false ∧
        (hentry t (curFen s) h.index).gen = (hentry s (curFen s) h.index).gen + 1 ∧
        (∀ j, j ≠ h.index → hentry t (curFen s) j = hentry s (curFen s) j) ∧ t = { s with fens := t.fens }))

/-- TRN and the walk (Table 5.7, R134, R317, R318). Without a token prefix a result lands at latency 10, and a miss answers XLATE and
starts a walk; with one the register is pending, and the token rises in the clock in which the result arrives, which the end of the clock
writes. A walk that no regulator holds completes (R380). A walk that finds a page answers a handle whose
origin is the address, with WALK set; one that finds none answers NOTPRESENT, and its poison says whether it met a malformed entry (the
model's choice, log 44). A poisoned handle holds the address. -/
def Obligations.TrnAndWalk : Prop :=
  (∀ (d : BitVec 4) (a : BitVec 6) (p : BitVec 1) (k : BitVec 2) (s : State) (va : Word), rdS (curCtx s) a.toNat = ⟨va, none⟩ →
    let gives : Word → Option Cause → State → Prop := fun w q t => SameMemory s t ∧
      (s.cur.pfx.t = false → t = land s 10 (.h d.toNat) ⟨w, q⟩) ∧
      (s.cur.pfx.t = true → pendingOf (curCtx t) (.h d.toNat) = some s.cur.pfx.token ∧ ∃ r, r ∈ t.posted ∧ r.cid = (curCtx s).cid ∧
        r.dest = .h d.toNat ∧ r.val = w ∧ r.poison = q ∧ r.token = some s.cur.pfx.token ∧ r.status = 0#32)
    (2 ^ 56 ≤ va.toNat → ∃ t, exec (.trn d a p k) s = .next t ∧ gives (BitVec.ofNat 64 (va.toNat % 2 ^ 56)) (some .badva) t) ∧
    (∀ b : Tlb, va.toNat < 2 ^ 56 → (coreOf s (curCore s)).l1.find? (fun b => b.serves s (curFen s) va.toNat) = some b →
      (b.allows k.toNat (atM s) = true → ∃ t, exec (.trn d a p k) s = .next t ∧
        gives (Handle.mk b.fen k.toNat (hentry s b.fen b.index).gen b.index (va.toNat - b.base)).word none t) ∧
      (b.allows k.toNat (atM s) = false → ∃ t, exec (.trn d a p k) s = .next t ∧ gives va (some .perm) t)) ∧
    (va.toNat < 2 ^ 56 → (coreOf s (curCore s)).l1.find? (fun b => b.serves s (curFen s) va.toNat) = none →
      ∃ t w, exec (.trn d a p k) s = .next t ∧ w ∈ t.walks ∧ w.va = va ∧ w.acc = k.toNat ∧ w.fen = curFen s ∧ w.cid = (curCtx s).cid ∧
        SameMemory s t ∧
        (s.cur.pfx.t = false → w.token = none ∧ ∃ l, (curEng t).pipe = (curEng s).pipe ++ [l] ∧ l.left = 10 ∧ l.dest = .h d.toNat ∧
          l.val = .word va ∧ l.poison = some .xlate) ∧
        (s.cur.pfx.t = true → w.token = some s.cur.pfx.token ∧ w.dest = .h d.toNat ∧
          pendingOf (curCtx t) (.h d.toNat) = some s.cur.pfx.token ∧ (curEng t).pipe = (curEng s).pipe))) ∧
  (∀ (s : State) (w : WalkOp) (k : Nat), s.walks.find? (·.id == w.id) = some w → w.token = some k →
    walkHeld s w = false → ((dieOf s (dieNo (coreNo w.g))).l2.find? fun t => t.serves s w.fen w.va.toNat) = none →
    let lands : State → Word → Option Cause → BitVec 32 → Prop := fun t v q st =>
      t.raises = s.raises ++ [⟨w.cid, k, 1, st, false⟩] ∧ t.walks = s.walks.filter (·.id != w.id) ∧ SameMemory s t ∧
      t.subs = (arriveAt s w.cid { left := 0, dest := w.dest, val := .word v, poison := q, grp := w.grp }).subs
    (∀ mal, walkVa s w.fen w.va.toNat = .none mal → ∃ t, exec (.walk w.id) s = .next t ∧
      lands t (BitVec.ofNat 64 (w.va.toNat % 2 ^ 56)) (some (if mal then .notpresentMal else .notpresent)) (stWalk ||| stNotpresent)) ∧
    (∀ base size pa r wr fo i, walkVa s w.fen w.va.toNat = .page base size pa r wr fo →
      pageEntry (fenOf s w.fen) base size = none → freeEntry (fenOf s w.fen) = some i →
      0 < size → (w.acc = 1 ∨ r = true) → (w.acc = 0 ∨ wr = true ∧ (w.atM = true ∨ fo = false)) →
      ∃ t, exec (.walk w.id) s = .next t ∧
        lands t (Handle.mk w.fen w.acc (hentry s w.fen i).gen i (w.va.toNat - base)).word none stWalk ∧
        hentry t w.fen i = { alloc := true, base, size, pa, r, w := wr, fo, lo := 0, hi := size, gen := (hentry s w.fen i).gen,
                             present := true } ∧
        ((coreOf t (coreNo w.g)).l1.find? fun b => b.covers w.fen base) = some { fen := w.fen, base, size, index := i, r, w := wr, fo }))

/-- The four effects of XINV on a page of a fen (R319): every cached translation of the page goes in FLUSH, REVOKE and SUSPEND; REVOKE
also frees the page's handle-table entries, with their generations raised (R322), and SUSPEND marks them not present; RESUME marks
them present as the page tables now give the page. Entries of other pages, other fens and all bytes of memory stay. -/
def Obligations.XinvEffects : Prop :=
  ∀ (f : Nat) (va : BitVec 56) (s : State), f < 16 →
    let of : HEntry → Prop := fun e => e.alloc = true ∧ e.base ≤ va.toNat ∧ va.toNat < e.base + e.size
    let others : State → Prop := fun t => SameMemory s t ∧ t.subs = s.subs ∧ (∀ j, j ≠ f → fenOf t j = fenOf s j) ∧
      ∀ i, ¬ of (hentry s f i) → hentry t f i = hentry s f i
    let flushed : State → Prop := fun t =>
      (∀ k b, b ∈ (coreOf t k).l1 ↔ b ∈ (coreOf s k).l1 ∧ b.covers f va.toNat = false) ∧
      (∀ k b, b ∈ (dieOf t k).l2 ↔ b ∈ (dieOf s k).l2 ∧ b.covers f va.toNat = false)
    (∃ t, exec (.xinvFlush f va) s = .next t ∧ flushed t ∧ t.fens = s.fens ∧ others t) ∧
    (∃ t, exec (.xinvRevoke f va) s = .next t ∧ flushed t ∧ others t ∧ ∀ i, of (hentry s f i) →
      (hentry t f i).alloc = false ∧ (hentry t f i).gen = (hentry s f i).gen + 1 ∧
      ((hentry t f i).retired = true ↔ 1023 ≤ (hentry t f i).gen)) ∧
    (∃ t, exec (.xinvSuspend f va) s = .next t ∧ flushed t ∧ others t ∧ ∀ i, of (hentry s f i) →
      hentry t f i = { hentry s f i with present := false }) ∧
    (∃ t, exec (.xinvResume f va) s = .next t ∧ others t ∧ t.cores = s.cores ∧ ∀ i, of (hentry s f i) →
      (∀ mal, walkVa s f va.toNat = .none mal → (hentry t f i).alloc = false) ∧
      (∀ base size pa r w fo, walkVa s f va.toNat = .page base size pa r w fo → (hentry s f i).size = size →
        hentry t f i = { hentry s f i with pa, r, w, fo, present := true }))

/-! ### Rings, queues, parking and leases (R136 to R140) -/

/-- The ring functions (Table 5.9, R136), on a program ring that they accept, with no order log; one of b0–b15, a descriptor that is no
program ring, positions out of order (R291), and a count or position outside the limits trap with RINGERR, and a wait whose ring's positions
come out of order ends, so that its word traps. RCOMMIT of a position below head or tail, at or past claimed, or committed before traps;
any other moves the tail over every position committed in order and no further. A ring wait on a position 32,768 or more below head sets
STALE (R292). -/
def Obligations.RingFunctions : Prop :=
  ∀ (d b x : BitVec 6) (s : State) (n : Word) (r : Ring), rdS (curCtx s) x.toNat = ⟨n, none⟩ → r = ringOf s (curCore s) b.toNat →
    heldWord s = none → (∀ l, (launchOf s l).olmode = 0#2) →
    let met : Wait → Prop := fun w => waitMet (beforeGroup (holdWord s n)) s.cur.g s.cur.e w = true
    let waited : State → Prop := fun t =>
      t = (if n.toNat + 32768 ≤ r.head.toNat then setRing (holdWord s n) (curCore s) b.toNat { r with stale := true } else holdWord s n)
    (ringOk b r = true →
      (n.toNat ≤ r.count.toNat → met (.rclaim b.toNat n) → exec (.rclaim d b x) s =
        .next (land (setRing (holdWord s n) (curCore s) b.toNat { r with claim := r.claim + n }) 2 (.s d.toNat) ⟨r.claim, none⟩)) ∧
      (r.count.toNat < n.toNat → exec (.rclaim d b x) s = .next (trapWith (holdWord s n) .ringerr)) ∧
      (phaseOk (curCore s) r = true → met (.rwaitf b.toNat n) → ∃ t, exec (.rwaitf b x) s = .next t ∧ waited t) ∧
      (met (.rwaite b.toNat n) → ∃ t, exec (.rwaite b x) s = .next t ∧ waited t) ∧
      (n ≠ 0#64 → r.head.toNat + n.toNat ≤ r.tail.toNat → ∃ t, exec (.rrel b x) s = .next t ∧ t = { s with cores := t.cores } ∧
        ringOf t (curCore s) b.toNat = { r with head := r.head + n, rel := (ringOf t (curCore s) b.toNat).rel } ∧
        ∀ a ∈ s.accs, a.cid = (curCtx s).cid → a.id ∈ (ringOf t (curCore s) b.toNat).rel) ∧
      (n = 0#64 ∨ r.tail.toNat < r.head.toNat + n.toNat → exec (.rrel b x) s = .next (trapWith s .ringerr)) ∧
      exec (.rtail d b) s = .next (land s 2 (.s d.toNat) ⟨r.tail, none⟩) ∧
      (Memory.wf s.mem → phaseOk (curCore s) r = true → r.tail.toNat ≤ n.toNat → n.toNat < r.claim.toNat →
        phaseByte s r n.toNat ≠ phaseOf r n.toNat → ∃ t, exec (.rcommit b x) s = .next t ∧
          phaseByte t r n.toNat = BitVec.ofNat 8 (n.toNat / r.count.toNat + 1) ∧
          SameMemoryBut (r.phase.toNat + n.toNat % r.count.toNat) 1 s t ∧
          let r' := ringOf t (curCore s) b.toNat
          r' = { r with tail := r'.tail, rel := r'.rel } ∧ r.tail.toNat ≤ r'.tail.toNat ∧ r'.tail.toNat ≤ r.claim.toNat ∧
          (∀ p, r.tail.toNat ≤ p → p < r'.tail.toNat → phaseByte t r p = phaseOf r p) ∧
          (r'.tail.toNat < r.claim.toNat → phaseByte t r r'.tail.toNat ≠ phaseOf r r'.tail.toNat)) ∧
      (n.toNat < r.head.toNat ∨ n.toNat < r.tail.toNat ∨ r.claim.toNat ≤ n.toNat ∨ phaseByte s r n.toNat = phaseOf r n.toNat →
        exec (.rcommit b x) s = .next (trapWith s .ringerr))) ∧
    (∀ g e p, let q := ringOf s (coreNo g) b.toNat
      ¬ (q.head.toNat ≤ q.tail.toNat ∧ q.tail.toNat ≤ q.claim.toNat ∧ q.claim.toNat ≤ q.head.toNat + q.count.toNat) →
      waitMet s g e (.rclaim b.toNat p) = true ∧ waitMet s g e (.rwaitf b.toNat p) = true ∧ waitMet s g e (.rwaite b.toNat p) = true) ∧
    (b.toNat < 16 ∨ r.kind ≠ 1#2 ∨
        ¬ (r.head.toNat ≤ r.tail.toNat ∧ r.tail.toNat ≤ r.claim.toNat ∧ r.claim.toNat ≤ r.head.toNat + r.count.toNat) →
      exec (.rclaim d b x) s = .next (trapWith (holdWord s n) .ringerr) ∧ exec (.rwaitf b x) s = .next (trapWith (holdWord s n) .ringerr) ∧
      exec (.rwaite b x) s = .next (trapWith (holdWord s n) .ringerr) ∧ exec (.rcommit b x) s = .next (trapWith s .ringerr) ∧
      exec (.rrel b x) s = .next (trapWith s .ringerr) ∧ exec (.rtail d b) s = .next (trapWith s .ringerr))

/-- Pushes and pops (R23, R137, R138, R232). CPUSH writes a slot at the tail of a fed ring, low register first, and advances the tail;
another descriptor traps with RINGERR. QPUSH and BQPUSH append an entry that can be popped two clocks on, poisoned as its register; QPOP
takes the oldest. A full or empty queue freezes the engine. -/
def Obligations.FedRingsAndQueues : Prop :=
  (∀ (b x : BitVec 6) (s : State) (u v : Word) (r : Ring), rdS (curCtx s) x.toNat = ⟨u, none⟩ →
    rdS (curCtx s) (x.toNat + 1) = ⟨v, none⟩ → r = ringOf s (curCore s) b.toNat →
    (r.kind ≠ 3#2 → exec (.cpush b x) s = .next (trapWith s .ringerr)) ∧
    (r.kind = 3#2 → fedCap r ≤ r.tail.toNat - r.head.toNat → exec (.cpush b x) s = .next (freezeOn s (10 + b.toNat))) ∧
    (r.kind = 3#2 → r.tail.toNat - r.head.toNat < r.count.toNat → Memory.wf s.mem → (∀ l, (launchOf s l).olmode ≠ 1#2) →
      let a := r.base.toNat + 16 * (r.tail.toNat % r.count.toNat)
      (∀ i, i < 16 → inRanges (stepRanges s (ctxOfCid s (curCtx s).cid).step) (a + i) = false) →
      ∃ t, exec (.cpush b x) s = .next t ∧ SameMemoryBut a 16 s t ∧
        readHome t (.scratch a) 16 = leBytes 8 u.toNat ++ leBytes 8 v.toNat ∧
        (ringOf t (curCore s) b.toNat).tail = r.tail + 1#64 ∧ (ringOf t (curCore s) b.toNat).head = r.head ∧
        (ringOf t (curCore s) b.toNat).base = r.base ∧ (ringOf t (curCore s) b.toNat).count = r.count)) ∧
  (∀ (a d : BitVec 6) (q : BitVec 3) (s : State),
    let c := curCtx s
    let pushed : Nat → Val → State → Prop := fun n v t => t = modCur s fun c => { c with q := tset c.q n (queueOfCtx c n ++
      [{ val := v.w, poison := v.p, ready := s.clock + 2 }]) }
    ((queueOfCtx c q.toNat).length < queueCap c q.toNat →
      ∃ t, exec (.qpush a q) s = .next t ∧ pushed q.toNat (rdS c a.toNat) t) ∧
    (queueCap c q.toNat ≤ (queueOfCtx c q.toNat).length → exec (.qpush a q) s = .next (freezeOn s q.toNat)) ∧
    ((queueOfCtx c 6).length < queueCap c 6 → ∃ t, exec (.bqpush a) s = .next t ∧
      pushed 6 ⟨if (rdS c a.toNat).w = 0#64 then 0#64 else 1#64, (rdS c a.toNat).p⟩ t) ∧
    (queueCap c 6 ≤ (queueOfCtx c 6).length → exec (.bqpush a) s = .next (freezeOn s 6)) ∧
    (∀ e r, queueOfCtx c q.toNat = e :: r → e.ready ≤ s.clock → exec (.qpop d q) s =
      .next (land (modCur s fun c => { c with q := tset c.q q.toNat r }) 1 (.s d.toNat) ⟨e.val, e.poison⟩)) ∧
    (queueOfCtx c q.toNat = [] → exec (.qpop d q) s = .next (freeze s)))

/-- PARK (R139): it goes on when the word differs from the register or the wait table is full; else it enters the table and stops
issuing. A misaligned address traps with ALIGN, one outside the core's slice with MEMERR, and with a violation record where the address
gives an error response (the record's KIND is the model's choice, log 105). Leases (R14, R140): a lease word requests a
unit with a run length, a release withdraws the request and ends the grant, and a free unit goes to the first requester after its last
holder, with that run length. -/
def Obligations.ParkAndLeases : Prop :=
  (∀ (a b : BitVec 6) (c : BitVec 4) (s : State) (x v : Word), rdS (curCtx s) a.toNat = ⟨x, none⟩ → rdS (curCtx s) b.toNat = ⟨v, none⟩ →
    let home : Prop := x.toNat / 0x80_0000 = curCore s ∧ scratchError s s.cur.g x.toNat 8 = none
    let logged : State := match scratchError s s.cur.g x.toNat 8 with
      | some r => logViolation s (curFen s) 0 x.toNat r s.cur.e 0 s.cur.g
      | none => s
    (¬ home → exec (.park a b c) s = .next (trapWith logged .memerr)) ∧
    (home → x.toNat % 8 ≠ 0 → exec (.park a b c) s = .next (trapWith s .align)) ∧
    (home → x.toNat % 8 = 0 → parkBlocked (beforeGroup s) s.cur.g c.toNat x.toNat = false → badView s (curCtx s).cid (.scratch x.toNat) 8 = false →
      let w := BitVec.ofNat 64 (leNat (readView s (curCtx s).cid (.scratch x.toNat) 8))
      (w ≠ v ∨ 32 ≤ (coreOf s (curCore s)).waits.length → exec (.park a b c) s = .next (useBanks s (.scratch x.toNat) 8)) ∧
      (w = v → (coreOf s (curCore s)).waits.length < 32 → ∃ t, exec (.park a b c) s = .next t ∧ SameMemory s t ∧
        (coreOf t (curCore s)).waits = (coreOf s (curCore s)).waits ++ [{ addr := x.toNat, g := s.cur.g, cid := (curCtx s).cid }] ∧
        (curEng t).wait = some .parked ∧ SameContext s t ∧ SameEngines s t))) ∧
  (∀ (n : BitVec 7) (s : State),
    exec (.mlease n) s = .next (modCur s fun c => { c with mreq := some { run := n.toNat } }) ∧
    exec (.slease n) s = .next (modCur s fun c => { c with sreq := some { run := n.toNat } }) ∧
    (∃ t, exec .mrel s = .next t ∧ (curCtx t).mreq = none ∧ (coreOf t (curCore s)).mlease.holder ≠ some (s.cur.g % 4) ∧
      (coreOf t (curCore s)).slease = (coreOf s (curCore s)).slease ∧ SameMemory s t) ∧
    (∃ t, exec .srel s = .next t ∧ (curCtx t).sreq = none ∧ (coreOf t (curCore s)).slease.holder ≠ some (s.cur.g % 4) ∧
      (coreOf t (curCore s)).mlease = (coreOf s (curCore s)).mlease ∧ SameMemory s t)) ∧
  (∀ (s : State) (k u m : Nat), k < 96 → u < 2 → m < 4 → (leaseOf (coreOf s k) u).holder = none → requests s (4 * k + m) u = true →
    (∀ j, j < 4 → requests s (4 * k + j) u = true → (m + 3 - (leaseOf (coreOf s k) u).last) % 4 ≤ (j + 3 - (leaseOf (coreOf s k) u).last) % 4) →
    (leaseOf (coreOf s k) u).last < 4 →
    ∃ t, exec (.leaseGrant k u) s = .next t ∧ leaseOf (coreOf t k) u =
      { holder := some m, left := (match requestOf (ctxOf s (4 * k + m)) u with | some r => r.run | none => 0), last := m } ∧
      t = { s with cores := t.cores })

/-! ### System registers, counters and random numbers (R32, R33, R141, R224, R225) -/

/-- CSRR and CSRW (R32, R224): a register above the level, or one that nothing may write, traps with PRIV; else CSRR lands the
register's value at latency 2, as it stood before the clock where a view of that is kept (R224), and CSRW of a plain register stores the bits that the register has and changes no other register that it
does not select. CNTR reads a counter.
RAND (R141): ten rounds of Philox4x32 keyed by RNDSEED on RNDCTR and the stream; the result lands at latency 6 with the stream's
poison, and RNDCTR advances in every case. -/
def Obligations.SystemRegisters : Prop :=
  (
    (∀ (d : BitVec 6) (n : BitVec 12) (s : State), exec (.cntr d n) s = .next (land s 2 (.s d.toNat)
      ⟨if n.toNat = 0 then BitVec.ofNat 64 s.clock
        else if n.toNat = 6 then BitVec.ofNat 64 (mereUse (asSeen s) (curFen (asSeen s)))
        else tget 0#64 (fenOf (asSeen s) (curFen (asSeen s))).counters n.toNat, none⟩)) ∧
    (∀ s : State, (s.seen = none → asSeen s = s) ∧ (∀ x, s.seen = some x → (asSeen s).cores = x.cores ∧ (asSeen s).subs = x.subs ∧
      (asSeen s).fens = x.fens ∧ (asSeen s).queues = x.queues ∧ (asSeen s).clock = s.clock ∧ (asSeen s).cur = s.cur)) ∧
    ∀ (d a : BitVec 6) (n : BitVec 12) (s : State) (r l : Nat) (v : Word), sysReg n.toNat = some (r, l) →
      ((curCtx s).pl.toNat < r → exec (.csrr d n) s = .next (trapWith s .priv)) ∧
      (r ≤ (curCtx s).pl.toNat → exec (.csrr d n) s = .next (land s 2 (.s d.toNat) ⟨readReg (asSeen s) n.toNat, none⟩)) ∧
      (l = 4 ∨ (curCtx s).pl.toNat < l → exec (.csrw a n) s = .next (trapWith s .priv)) ∧
      (∀ m w, (n.toNat, m, w) ∈ ([(0x000, 3#64, []), (0x002, BitVec.allOnes 64, []), (0x003, BitVec.allOnes 64, []),
          (0x100, 0xFFFFF7FF#64, []), (0x101, 0xFFFFFFFC#64, []), (0x103, 0xFFFFFFFC#64, []), (0x104, BitVec.allOnes 64, []),
          (0x105, 0xFFFFFFFC#64, []), (0x106, 0x3F#64, [0x107, 0x108, 0x109, 0x10A]), (0x110, 0xFF#64, [0x111, 0x112]),
          (0x120, 0xFF#64, [0x121]), (0x128, 0xFF#64, [0x129]), (0x140, 0xFFFFFFFFFF800#64, []), (0x145, 0xF#64, [0x146, 0x147]),
          (0x161, 0xFFFFFFFFFFFFC0#64, []), (0x162, 0xFFFFFFC0#64, []), (0x200, 0xFFFFFFFC#64, []), (0x201, 0xFFFFF7FF#64, []),
          (0x202, 0xFFFFFFFC#64, []), (0x204, BitVec.allOnes 64, []), (0x208, 0xFFFFFFFFC0000#64, [])] : List (Nat × Word × List Nat)) →
        l ≤ (curCtx s).pl.toNat → rdS (curCtx s) a.toNat = ⟨v, none⟩ →
        ∃ t, exec (.csrw a n) s = .next t ∧ readReg t n.toNat = v &&& m ∧ SameMemory s t ∧
          (∀ k, k ≠ n.toNat → k ∉ w → readReg t k = readReg s k) ∧
          (∀ k, rdS (curCtx t) k = rdS (curCtx s) k ∧ rdH (curCtx t) k = rdH (curCtx s) k ∧ vregOf (curCtx t) k = vregOf (curCtx s) k) ∧
          (curCtx t).t = (curCtx s).t ∧ SameEngines s t)) ∧
  (
    ∀ (d a : BitVec 6) (s : State) (x : Word) (p : Option Cause), rdS (curCtx s) a.toNat = ⟨x, p⟩ →
      let c := curCtx s
      let lo : Word → Nat := fun w => w.toNat % 2 ^ 32
      let hi : Word → Nat := fun w => w.toNat / 2 ^ 32
      let round : Nat × Nat × Nat × Nat × Nat × Nat → Nat × Nat × Nat × Nat × Nat × Nat := fun (c0, c1, c2, c3, k0, k1) =>
        let p := 0xD2511F53 * c0
        let q := 0xCD9E8D57 * c2
        (q / 2 ^ 32 ^^^ c1 ^^^ k0, q % 2 ^ 32, p / 2 ^ 32 ^^^ c3 ^^^ k1, p % 2 ^ 32, (k0 + 0x9E3779B9) % 2 ^ 32, (k1 + 0xBB67AE85) % 2 ^ 32)
      let out := Nat.repeat round 10 (lo c.rndctr, hi c.rndctr, lo x, hi x, lo c.rndseed, hi c.rndseed)
      ∃ t w, exec (.rand d a) s = .next t ∧ w.toNat = out.2.1 * 2 ^ 32 + out.1 ∧
        curCtx t = { c with rndctr := c.rndctr + 1#64, eng := (curCtx t).eng } ∧
        curEng t = curEng (land s 6 (.s d.toNat) ⟨w, p⟩) ∧ SameEngines s t ∧ SameMemory s t ∧
        (x = 0#64 → c.rndseed = 0#64 → c.rndctr = 0#64 → w = 0xE169C58D6627E8D5#64))

/-- The CSRW rows that act (R31, R85, R86, R290, R377, R378, R381, R382, R363), at a level that may write them and with an unpoisoned
operand; below it they trap with PRIV. A regulator takes the values of a write in the clock after it, its buckets cut to the new bursts. STATUS takes a level that exists and is not above the writer's; an all-ones exponent of a fade
floor stores the greatest finite magnitude; RDCFG takes a program ring in the core's own slice or clears the descriptor; a counter
configured reads 0, and does not count the write's own clock; PRIO and BUDGET are held to PFLOOR and WDMAX; OLCTL zeroes OLPOS. -/
def Obligations.RegisterWritesThatAct : Prop :=
  (∀ (a : BitVec 6) (s : State),
    ((curCtx s).pl = 0#2 → ∀ i ∈ [Instr.statusWrite a, .fadedefWrite a, .rdcfgWrite a, .cntcfgWrite a, .qcfgWrite a, .fencfgWrite a,
      .regrateWrite a, .olctlWrite a], exec i s = .next (trapWith s .priv)) ∧
    ((curCtx s).pl ≠ 3#2 → exec (.fencfgWrite a) s = .next (trapWith s .priv) ∧ exec (.regrateWrite a) s = .next (trapWith s .priv))) ∧
  (∀ (a : BitVec 6) (s : State) (v : Word), rdS (curCtx s) a.toNat = ⟨v, none⟩ →
    let f := fenOf s (curFen s)
    let x := v.toNat
    let floor := if x / 2 ^ 23 % 2 ^ 8 = 0xFF then 0x7F7FFFFF#31 else v.setWidth 31
    exec (.fadeflWrite a) s = .next (modCur s fun c => { c with fadefl := floor }) ∧
    ((curCtx s).pl ≠ 0#2 →
      exec (.statusWrite a) s = .next (if x % 4 = 2 ∨ (x % 4 = 3 ∧ (curCtx s).pl ≠ 3#2) then trapWith s .priv
        else modCur s fun c => { c with pl := v.setWidth 2 }) ∧
      exec (.fadedefWrite a) s = .next (modFen s (curFen s) fun f => { f with fadedef := floor }) ∧
      (16 ≤ (curCtx s).rdsel.toNat ∨ (curCtx s).pl = 3#2 → let b := (curCtx s).rdsel.toNat
        let fits : Prop := x % 64 = 0 ∧ 4 ≤ x / 2 ^ 52 % 16 ∧ 1 ≤ x / 2 ^ 32 % 2 ^ 16 ∧ x / 2 ^ 32 % 2 ^ 16 ≤ 4096 ∧
          curCore s * 0x80_0000 ≤ x % 2 ^ 32 ∧ x % 2 ^ 32 + x / 2 ^ 32 % 2 ^ 16 * 2 ^ (x / 2 ^ 52 % 16) ≤ curCore s * 0x80_0000 + 0x59_0000
        (x / 2 ^ 62 = 0 ∨ x / 2 ^ 62 = 1 ∧ fits → exec (.rdcfgWrite a) s = .next (setRing s (curCore s) b
          { ringOf s (curCore s) b with kind := BitVec.ofNat 2 (x / 2 ^ 62), ssz := BitVec.ofNat 4 (x / 2 ^ 52),
                                        count := BitVec.ofNat 16 (x / 2 ^ 32), base := BitVec.ofNat 32 x })) ∧
        (2 ≤ x / 2 ^ 62 ∨ x / 2 ^ 62 = 1 ∧ ¬ fits → exec (.rdcfgWrite a) s = .next (trapWith s .ringerr))) ∧
      ((curCtx s).rdsel.toNat < 16 → (curCtx s).pl ≠ 3#2 → exec (.rdcfgWrite a) s = .next (trapWith s .priv)) ∧
      (32 ≤ f.cntsel.toNat → ∃ t, exec (.cntcfgWrite a) s = .next t ∧ tget 0#64 (fenOf t (curFen s)).counters f.cntsel.toNat = 0#64 ∧
        tget {} (fenOf t (curFen s)).cntcfg f.cntsel.toNat =
          { en := decide (x / 2 ^ 63 = 1), core := BitVec.ofNat 8 (x / 2 ^ 48), event := BitVec.ofNat 16 x, since := some s.clock } ∧
        (∀ i, i ≠ f.cntsel.toNat → tget 0#64 (fenOf t (curFen s)).counters i = tget 0#64 f.counters i) ∧ t = { s with fens := t.fens }) ∧
      (f.cntsel.toNat < 32 → exec (.cntcfgWrite a) s = .next (modFen s (curFen s) fun f => f)) ∧
      ((queueOf s f.qsel.toNat).owner = some (curFen s) → exec (.qcfgWrite a) s = .next (modQueue s f.qsel.toNat fun q =>
        { q with prio := max (x % 8) f.pfloor, thresh := x / 2 ^ 8 % 8,
                 budget := if x / 2 ^ 32 = 0 ∨ f.wdmax < x / 2 ^ 32 then f.wdmax else x / 2 ^ 32 })) ∧
      ((queueOf s f.qsel.toNat).owner ≠ some (curFen s) → exec (.qcfgWrite a) s = .next s) ∧
      (∃ t, exec (.olctlWrite a) s = .next t ∧ t = { s with fens := t.fens } ∧
        (fenOf t (curFen s)).ol.mode.toNat = (if x % 4 = 3 then 0 else x % 4) ∧ (fenOf t (curFen s)).ol.pos = 0#32)) ∧
    ((curCtx s).pl = 3#2 →
      (∃ t, exec (.fencfgWrite a) s = .next t ∧
        (fenOf t (curFen s)).wdmax = max 1 (x / 2 ^ 32) ∧ (fenOf t (curFen s)).weight = max 1 (x / 2 ^ 8 % 2 ^ 8) ∧
        (fenOf t (curFen s)).pfloor = x % 8 ∧
        (∀ q, (queueOf s q).owner = some (curFen s) → (queueOf t q).prio = max (queueOf s q).prio (x % 8) ∧
          (queueOf t q).budget = min (queueOf s q).budget (max 1 (x / 2 ^ 32))) ∧
        (∀ q, (queueOf s q).owner ≠ some (curFen s) → queueOf t q = queueOf s q) ∧ t = { s with fens := t.fens, queues := t.queues }) ∧
      (∀ i, regPlace f.regsel = some i →
        let cr := x / 2 ^ 16 % 2 ^ 16
        let set := fun (r : Regul) => { r with next := some (cr, x % 2 ^ 16, x / 2 ^ 48 % 2 ^ 16, x / 2 ^ 32 % 2 ^ 16) }
        (crSum s (curFen s) i { cr } ≤ 32768 → exec (.regrateWrite a) s =
          .next (modFen s (curFen s) fun f => { f with regul := tmod {} f.regul i set })) ∧
        (32768 < crSum s (curFen s) i { cr } → exec (.regrateWrite a) s = .next s)))) ∧
  (∀ (r : Regul) (cr cb pr pb : Nat), r.next = some (cr, cb, pr, pb) → r.tick.cr = cr ∧ r.tick.cb = cb ∧ r.tick.pr = pr ∧ r.tick.pb = pb ∧
    r.tick.next = none ∧ r.tick.c ≤ 64000 * max cb 4 ∧ r.tick.p ≤ 64000 * max pb 4 ∧ r.tick.queue = r.queue) ∧
  (∀ (f : Nat) (s : State), f < 16 → ∃ t, exec (.held f) s = .next t ∧ (fenOf t f).ol.stat = (fenOf s f).ol.stat ||| 1#4 ∧
    t = { s with fens := t.fens } ∧ ∀ j, j ≠ f → fenOf t j = fenOf s j)

/-! ### Frame words, gangs and launches from a step (R208, R215 to R220) -/

/-- An FRM word (R208) goes in flight and makes its register pending on its token. A command that fails leaves the frame store as it was,
answers 0, and sets FRMERR, NOSPACE, or FRMERR with ERR for an unreachable page (R215, R268). FRM.LD writes the frame's blocks to the region
as its step sees it; a block that fails its CRC or that a poisoned line gave poisons its lines, and the result counts such blocks, with
CRCERR. FIND and FINDV change nothing and answer the newest cached snapshot under the key (with an equal token record), or 0. With the
frame area well placed, FORK and SNAP take the free entry of least index, which shares every page, whose counts rise; a SNAP under a key
whose insertion evicts nothing is cached. RBK gives the frame the snapshot's pages, and the counts follow. ST writes the region as its step
sees it (R210; log 123) into pages of the frame's own, with fresh CRCs: a shared page is copied first; lines with an uncorrectable error
(log 6) are left out. What is not named stays as it was (R209 to R214, R269 to R271, R276).
WGET, WSTEAL, WBAR, WDONE and LNCH (R216 to R220), with no order log: WGET takes the next index of a resident step's range, or answers all
ones; WSTEAL answers 0 for an id above 383, and a reply when it is there; a split leaves a victim of m indices ceil(m / 2). WBAR traps with
BADWBAR for a level that is not a gang's, and passes when its episode is met. WDONE traps on a pending store error; else it publishes
everything and reports the step, whose registers stay. The model's choices: it issues again while work that its own group began is not done
(log 59), in a service context it only waits (log 31), LNCH waits as a FENCE of every class does (log 60), and a poisoned argument line
keeps its tags (log 82). -/
def Obligations.FrameAndGangWords : Prop :=
  (
    (∀ (d a b : BitVec 6) (s : State) (u v : Word), rdS (curCtx s) a.toNat = ⟨u, none⟩ → rdS (curCtx s) b.toNat = ⟨v, none⟩ →
      let sent : Nat → Word → State → Prop := fun n w t => ∃ o, t.frms = s.frms ++ [o] ∧ o.fn = n ∧ o.a = u ∧ o.b = w ∧
        o.dest = .s d.toNat ∧ o.token = s.cur.pfx.token ∧ o.cid = (curCtx s).cid ∧ o.fen = curFen s ∧ SameMemory s t ∧
        (d ≠ 0#6 → pendingOf (curCtx t) (.s d.toNat) = some s.cur.pfx.token) ∧
        (∀ k, k ≠ d.toNat → rdS (curCtx t) k = rdS (curCtx s) k) ∧ SameEngines s t ∧ t.fens = s.fens ∧ t.accs = s.accs
      (∃ t, exec (.frmLd d a b) s = .next t ∧ sent 0 v t) ∧ (∃ t, exec (.frmSt d a b) s = .next t ∧ sent 1 v t) ∧
      (∃ t, exec (.frmSnap d a b) s = .next t ∧ sent 2 v t) ∧ (∃ t, exec (.frmFork d a) s = .next t ∧ sent 3 0#64 t) ∧
      (∃ t, exec (.frmRbk d a b) s = .next t ∧ sent 4 v t) ∧ (∃ t, exec (.frmFind d a) s = .next t ∧ sent 5 0#64 t) ∧
      (∃ t, exec (.frmFindv d a b) s = .next t ∧ sent 6 v t)) ∧
    (∀ (s : State) (o : FrmOp) (e : FErr), frmEffect s o = .error e →
      let t := frmPerform s o
      SameMemory s t ∧ ∃ p, t.posted = s.posted ++ [p] ∧ p.val = 0#64 ∧ p.poison = none ∧ p.dest = o.dest ∧ p.token = some o.token ∧
        p.status = (match e with | .frm => stFrmerr | .noSpace => stNospace | .page _ _ | .scratch _ _ => stFrmerr ||| stErr))) ∧
  (
    ∀ (s : State) (o : FrmOp), Memory.wf s.mem → o.g < 384 →
      let f := o.fen
      let k := coreNo o.g
      let st := (ctxOfCid s o.cid).step
      let fits : Region → FEntry → Prop := fun r e => heldRegion s k st o.b e = .ok r ∧ r.off % 64 = 0 ∧ r.off + 128 * r.lines ≤ 0x30_0000 ∧
        ∀ x ∈ (coreOf s k).regions, x ≠ r → r.off + 128 * r.lines ≤ x.off ∨ x.off + 128 * x.lines ≤ r.off
      let found : List (Nat × FEntry) → (Nat × FEntry → Prop) → Prop := fun es hit =>
        ∃ w, frmEffect s o = .ok (w, 0#32, s) ∧ ((∀ x ∈ es, ¬ hit x) → w = 0#64) ∧
          ((∃ x ∈ es, hit x) → ∃ x ∈ es, hit x ∧ w = frameHandle f 2 x.2.gen x.1 ∧ ∀ y ∈ es, hit y → y.2.iseq ≤ x.2.iseq)
      (o.fn = 0 → ∀ i e r ps (bs crc : Nat → List Byte), frameCheck s f o.a [1] = .ok (i, e) → fits r e → pageList s f e = .ok ps →
        let page : Nat → Nat := fun j => nth 0 ps (j / 16) + 4096 * (j % 16)
        (∀ j, j < 16 * e.npages → frameRead s f (page j) 4096 = .ok (bs j) ∧
          frameRead s f (sidecar s f (nth 0 ps (j / 16)) + 8 * (j % 16)) 8 = .ok (crc j)) →
        let fails : Nat → Bool := fun j => leNat (crc j) ≠ (crc64 (bs j)).toNat || frameBad s f (page j) 4096
        let n := ((List.range (16 * e.npages)).filter fails).length
        ∃ u, frmEffect s o = .ok (BitVec.ofNat 64 n, if n = 0 then 0#32 else stCrcerr, u) ∧
          (∀ j, j < 16 * e.npages → readState u k st (r.off + 4096 * j) 4096 = bs j ∧
            ∀ x, x < 64 → poisoned u (.state k (viewOff (coreOf u k) st (r.off + 4096 * j + 64 * x))) 64 = fails j) ∧
          (∀ st' x m, holds st' r = false → x + m ≤ r.off + 64 * r.lines ∨ r.off + 128 * r.lines ≤ x →
            readState u k st' x m = readState s k st' x m)) ∧
      (o.fn = 5 ∨ o.fn = 6 → ∀ es, scratchError s o.g o.a.toNat 16 = none → poisoned s (.scratch o.a.toNat) 16 = false → allEntries s f = .ok es →
        let held : Nat × FEntry → Prop := fun x => x.2.st = 2 ∧ bitAt x.2.hold 1 = true ∧
          x.2.key = leNat (readView s o.cid (.scratch o.a.toNat) 16)
        (o.fn = 5 → found es held) ∧
        (o.fn = 6 → ∀ rec : Nat → List Byte,
          let n := leNat (readView s o.cid (.scratch o.b.toNat) 4)
          let mine := readView s o.cid (.scratch o.b.toNat) (4 + 4 * n)
          (∀ m, m = 4 ∨ m = 4 + 4 * n → scratchError s o.g o.b.toNat m = none ∧ poisoned s (.scratch o.b.toNat) m = false) → 0 < n → n ≤ 4096 →
          (∀ x ∈ es, held x → frameRead s f x.2.trec (4 + 4 * n) = .ok (rec x.1)) →
          found es fun x => held x ∧ rec x.1 = mine)) ∧
      (∀ (pa ref : Nat → Nat), AreaPlaced s f pa → (∀ p, PoolPage s f p → refOf s f p = .ok (ref p)) →
        let kept : List Nat → List Nat → State → Prop := fun idx pages u => SameOutsideArea f pa s u ∧
          (∀ j, j < ftCount s f → j ∉ idx → entryAt u f j = entryAt s f j) ∧
          (∀ p, PoolPage s f p → p ∉ pages → frameRead u f p 0x1_0000 = frameRead s f p 0x1_0000)
        let lists : FEntry → List Nat → Prop := fun e ps => pageList s f e = .ok ps ∧ e.npages ≤ 4096 ∧ PoolPage s f e.plist ∧ 0 < ref e.plist ∧
          e.plist ∉ ps ∧ ∀ p ∈ ps, PoolPage s f p ∧ 0 < ref p
        (o.fn = 2 ∨ o.fn = 3 → ∀ j e i old list ps, frameCheck s f o.a (if o.fn = 3 then [1, 2] else [1]) = .ok (j, e) →
          allocFEntry s f = .ok (i, old) → findPage s f (poolPages s f) (poolBase s f) = .ok list → lists e ps →
          (∀ p ∈ ps, ref p + ps.count p ≤ 65535) →
          let kind := if o.fn = 3 then 1 else 2
          let plain : FEntry := { st := kind, hold := if kind = 2 then 1 else 0, gen := old.gen, npages := e.npages, plist := list, trec := 0,
                                  key := 0, iseq := 0 }
          let shared : FEntry → List Nat → State → Prop := fun e' new u => entryAt u f i = .ok e' ∧ pageList u f e' = .ok ps ∧
            pageList u f e = .ok ps ∧ (∀ p ∈ new, refOf u f p = .ok 1) ∧
            (∀ p, PoolPage s f p → p ∉ new → refOf u f p = .ok (ref p + ps.count p)) ∧ kept [i] new u
          (o.fn = 3 ∨ o.b = 0#64 → ∃ u, frmEffect s o = .ok (frameHandle f kind old.gen i, 0#32, u) ∧ shared plain [list] u) ∧
          (o.fn = 2 → o.b ≠ 0#64 → o.b.toNat % 64 = 0 → (sessOf s f).iseq + 1 < 2 ^ 64 →
            (∃ q, PoolPage s f q ∧ q ≠ list ∧ ref q = 0) →
            let key := leNat (readView s o.cid (.scratch o.b.toNat) 16)
            let at_ := (o.b + 16#64).toNat
            let n := leNat (readView s o.cid (.scratch at_) 4)
            (∀ a m, (a = o.b.toNat ∧ m = 16) ∨ (a = at_ ∧ (m = 4 ∨ m = 4 + 4 * n)) → scratchError s o.g a m = none ∧
              poisoned s (.scratch a) m = false) → 0 < n → n ≤ 4096 →
            (∀ l, cached s f = .ok l → evictions key l = []) → (∃ l, cached s f = .ok l) →
            ∃ u q, frmEffect s o = .ok (frameHandle f kind old.gen i, 0#32, u) ∧ PoolPage s f q ∧ q ≠ list ∧ ref q = 0 ∧
              shared { plain with hold := 3, trec := q, key, iseq := (sessOf s f).iseq + 1 } [list, q] u ∧
              frameRead u f q (4 + 4 * n) = .ok (readView s o.cid (.scratch at_) (4 + 4 * n)) ∧
              (sessOf u f).iseq = (sessOf s f).iseq + 1)) ∧
        (o.fn = 4 → ∀ i j e g old new, frameCheck s f o.a [1] = .ok (i, e) → frameCheck s f o.b [2] = .ok (j, g) → e.npages = g.npages →
          lists e old → lists g new → e.plist ≠ g.plist → e.plist ∉ new → g.plist ∉ old → (∀ p ∈ new, ref p + new.count p ≤ 65535) →
          ∃ u, frmEffect s o = .ok (0#64, 0#32, u) ∧ pageList u f e = .ok new ∧ pageList u f g = .ok new ∧
            (∀ p, PoolPage s f p → refOf u f p = .ok (ref p + new.count p - old.count p)) ∧ kept [] [e.plist] u) ∧
        (o.fn = 1 → ∀ i e r ps, frameCheck s f o.a [1] = .ok (i, e) → fits r e → lists e ps → ps.Nodup →
          (∀ x, x < 1024 * e.npages → poisoned s (.state k (viewOff (coreOf s k) st (r.off + 64 * x))) 64 = false) →
          let many := (ps.filter fun p => 1 < ref p).length
          many ≤ ((List.range (poolPages s f)).filter fun x => ref (poolBase s f + 0x1_0000 * x) == 0).length →
          ∃ u ps', frmEffect s o = .ok (BitVec.ofNat 64 many, 0#32, u) ∧ pageList u f e = .ok ps' ∧ ps'.length = ps.length ∧ ps'.Nodup ∧
            (∀ x p q : Nat, ps[x]? = some p → ps'[x]? = some q → (ref p ≤ 1 → q = p ∧ refOf u f p = .ok (ref p)) ∧
              (1 < ref p → PoolPage s f q ∧ ref q = 0 ∧ refOf u f q = .ok 1 ∧ refOf u f p = .ok (ref p - 1))) ∧
            (∀ b q : Nat, b < 16 * e.npages → ps'[b / 16]? = some q →
              let bs := readState s k st (r.off + 4096 * b) 4096
              frameRead u f (q + 4096 * (b % 16)) 4096 = .ok bs ∧
              frameRead u f (sidecar s f q + 8 * (b % 16)) 8 = .ok (leBytes 8 (crc64 bs).toNat)) ∧
            kept [] (e.plist :: ps') u))) ∧
  (
    ∀ (d a b : BitVec 6) (s : State), (∀ l, (launchOf s l).olmode = 0#2) →
      let c := curCtx s
      (∀ st, c.step = some st → st.resident = true → st.lo < st.hi → exec (.wget d) s =
        .next (land (modCur s fun c => { c with step := some { st with lo := st.lo + 1 } }) 2 (.s d.toNat) ⟨BitVec.ofNat 64 st.lo, none⟩)) ∧
      ((∀ st, c.step = some st → st.resident = true → st.hi ≤ st.lo) → exec (.wget d) s =
        .next (land s 2 (.s d.toNat) ⟨BitVec.allOnes 64, none⟩)) ∧
      (∀ v, rdS c a.toNat = ⟨v, none⟩ →
        (383 < v.toNat → exec (.wsteal d a) s = .next (land s 1 (.s d.toNat) ⟨0#64, none⟩)) ∧
        (∀ r, v.toNat ≤ 383 → heldWord s = some r → exec (.wsteal d a) s = .next (land s 1 (.s d.toNat) ⟨r, none⟩)) ∧
        (v.toNat ≤ 383 → heldWord s = none → ∃ t u, exec (.wsteal d a) s = .next t ∧ (curEng t).wait = some (.steal v u) ∧
          s.clock < u ∧ heldWord t = some (splitRange s v).1)) ∧
      (∀ (v : Word) (me st : StepCtx) (g bank : Nat) (k : Ctx), c.step = some me → me.resident = true → me.hi ≤ me.lo → v.toNat ≤ 383 →
        (contextsOf s me.lid).find? (fun (g, _, c) => g == v.toNat &&
          (match c.step with | some st => st.resident && !st.ended | none => false)) = some (g, bank, k) →
        k.step = some st → 2 ≤ st.hi - st.lo → ¬ (g = s.cur.g ∧ bank = 0) → bank ≤ 1 →
        let t := (splitRange s v).2
        (splitRange s v).1 = BitVec.ofNat 64 ((st.hi - st.lo) / 2) ∧
        ((ctxAt t g bank).step.map fun x => (x.lo, x.hi)) = some (st.lo, st.lo + (st.hi - st.lo + 1) / 2) ∧
        ((curCtx t).step.map fun x => (x.lo, x.hi)) = some (st.lo + (st.hi - st.lo + 1) / 2, st.hi)) ∧
      (∀ n : BitVec 6, isGangLevel (launchOf s (lidOf c)) n.toNat = false → exec (.wbar n) s = .next (trapWith s .badwbar)) ∧
      (∀ (n : BitVec 6) (st : StepCtx), c.step = some st → isGangLevel (launchOf s st.lid) n.toNat = true →
        wbarMet (beforeGroup s) s.cur.g n.toNat = true → exec (.wbar n) s = .next (modCur s fun c =>
          { c with step := some { st with arrived := none, episodes := tmod 0 st.episodes n.toNat (· + 1) } })) ∧
      (c.step.any (·.ended) = false → c.step.isSome = true ∨ c.svc = true → pendingErrors c = 0#16 →
        waitMet (beforeGroup s) s.cur.g s.cur.e .wdone = true → workDone s s.cur.g c.cid = false →
        exec .wdone s = .next { s with cur := { s.cur with next := s.cur.addr, again := true } }) ∧
      (∀ st q l, c.step = some st → st.ended = false → pendingErrors c = 0#16 → waitMet (beforeGroup s) s.cur.g s.cur.e .wdone = true →
        workDone s s.cur.g c.cid = true → findLaunch s st.lid = some (q, l) → ∃ t, exec .wdone s = .next t ∧
          (let x := ctxOf t s.cur.g
           x.step = none ∧ x.s = c.s ∧ x.lr = c.lr ∧ x.h = c.h ∧ x.k = c.k ∧ x.v = c.v ∧ x.t = c.t ∧ x.q = [] ∧ x.mf = [] ∧ x.sq = [] ∧
             x.ingress = [] ∧ x.mreq = none ∧ x.sreq = none) ∧
          (launchOf t st.lid).steps = l.steps + 1 ∧ (launchOf t st.lid).live = l.live - 1 ∧
          t.mem = (publish s s.cur.g c.cid publishAll).mem) ∧
      (∀ st, c.step = some st → st.ended = false → pendingErrors c ≠ 0#16 → exec .wdone s = .next (trapWith s .memerr)) ∧
      (c.step = none → c.svc = false → exec .wdone s = .next s) ∧
      (c.step = none → c.svc = true → pendingErrors c ≠ 0#16 → exec .wdone s = .next (trapWith s .memerr)) ∧
      (c.step = none → c.svc = true → pendingErrors c = 0#16 → waitMet (beforeGroup s) s.cur.g s.cur.e .wdone = true →
        workDone s s.cur.g c.cid = true → exec .wdone s = .next s) ∧
      (∀ u v, rdS c a.toNat = ⟨u, none⟩ → rdS c b.toNat = ⟨v, none⟩ → scratchError s s.cur.g u.toNat 256 = none →
        badView s c.cid (.scratch u.toNat) 256 = false →
        (u.toNat % 64 ≠ 0 → exec (.lnch a b) s = .next (trapWith s .align)) ∧
        (u.toNat % 64 = 0 → 255 < v.toNat ∨ (queueOf s v.toNat).owner ≠ some (curFen s) → exec (.lnch a b) s = .next (trapWith s .badq)) ∧
        (u.toNat % 64 = 0 → v.toNat ≤ 255 → (queueOf s v.toNat).owner = some (curFen s) →
          waitMet (beforeGroup s) s.cur.g s.cur.e (.lnch v.toNat) = true →
          ∃ t l, exec (.lnch a b) s = .next t ∧ (queueOf t v.toNat).launches = (queueOf s v.toNat).launches ++ [l] ∧
            l.lnr = readView s c.cid (.scratch u.toNat) 256 ∧ l.fen = curFen s ∧ l.queue = v.toNat ∧ l.st = .queued ∧
            l.waiter = (if s.cur.pfx.t then some (c.cid, s.cur.pfx.token) else none) ∧
            (∀ q, q ≠ v.toNat → queueOf t q = queueOf s q) ∧ t = { s with queues := t.queues, fresh := t.fresh })))

/-! ### The life of a launch (R252 to R267, R298, R379, R389, R403) -/

/-- A queue starts its head launch when its record has passed its checks, its dependences are met, the launch before it lets it, and its
regions can be made (R259): it takes a tag, its budget starts, and its regions stand, beside those that the session sequencer has made for
it (R282). A record that fails its checks ends with BADLNR once the launch before has completed (R254). A launch whose steps have all
reported ends normally; one that has ended has its steps ended (R266). A budget that has run out ends it with WATCHDOG, and its steps in
the same clock (R379). A withdrawal
takes an unpublished step off a leaving core and its item goes back to be placed (R261). No byte of memory changes. -/
def Obligations.LaunchLife : Prop :=
  (∀ (s : State) (q : Nat) (l : Launch), q < 256 → headLaunch s q = some l → findLaunch s l.lid = some (q, l) → l.checked = true →
    (startable s q = some l → (fenOf s l.fen).ol.mode ≠ 2#2 → ∃ t l', exec (.launchStart q) s = .next t ∧
      findLaunch t l.lid = some (q, l') ∧ l'.st = .started ∧ l'.lnr = l.lnr ∧ l'.tag = (fenOf s l.fen).ol.tags % 65536 ∧
      (l.budget = none → l'.budget = some (s.clock, (queueOf s l.queue).budget)) ∧
      (fenOf t l.fen).ol.tags = (fenOf s l.fen).ol.tags + 1 ∧
      (∀ p ∈ l.startRegs, ∃ x ∈ (coreOf t p.1.core).regions, x.off = p.1.off ∧ x.lines = p.1.lines ∧
        x.holder = p.1.holder ∧ x.j = p.2 ∧ x.lid = l.lid ∧ x.act = [] ∧ x.dirty = []) ∧ SameMemory s t ∧ t.subs = s.subs) ∧
    (startable s q = none → exec (.launchStart q) s = .next s) ∧
    (l.st = .refused → prevCompleted s l = true → ∃ t l', exec (.refusedLaunch q) s = .next t ∧ findLaunch t l.lid = some (q, l') ∧
      l'.st = .ending 1 0x20 0#64 ∧ t = { s with queues := t.queues })) ∧
  (∀ (s : State) (q : Nat) (l : Launch), headLaunch s q = some l → findLaunch s l.lid = some (q, l) → l.checked = false →
    (launchOf (checkHead s q) l.lid).st = (if recordOk s l then .queued else .refused)) ∧
  (∀ (s : State) (q : Nat) (l : Launch), findLaunch s l.lid = some (q, l) →
    (l.st = .started → finished l = true → ∃ t l', exec (.launchEnd l.lid) s = .next t ∧ findLaunch t l.lid = some (q, l') ∧
      l'.st = .ending 0 0 0#64 ∧ t = { s with queues := t.queues }) ∧
    (∀ a b c, l.st = .ending a b c → ∃ t, exec (.launchEnd l.lid) s = .next t ∧ SameMemory s t ∧ t.clock = s.clock) ∧
    (∀ t0 b, l.budget = some (t0, b) → (∀ x y z, l.st ≠ .ending x y z) → t0 + 1000 * b < s.clock → finished l = false →
      ∃ t l', exec (.watchdogExpiry l.lid) s = .next t ∧ findLaunch t l.lid = some (q, l') ∧ l'.st = .ending 2 0x21 0#64 ∧
        SameMemory s t ∧ ∀ x ∈ contextsOf s l.lid, ∃ st, (ctxAt t x.1 x.2.1).step = some st ∧ st.ended = true)) ∧
  (∀ (s : State) (g q : Nat) (st : StepCtx) (l : Launch), g < 384 → withdrawable s g 0 = true → (ctxOf s g).step = some st →
    findLaunch s st.lid = some (q, l) → ∃ t l', exec (.withdrawal g 0) s = .next t ∧ findLaunch t st.lid = some (q, l') ∧
      l'.live = l.live - 1 ∧ l'.redo = l.redo ++ [(st.item, st.base, st.hi)] ∧ SameMemory s t ∧
      ∃ st', (ctxOf t g).step = some st' ∧ st'.ended = true)

/-- What a launch leaves (R267, R389): an ended launch of a queue without a completion ring leaves the queue and QDONE rises by one; with
one, its 32-byte record stands at CBASE + 32 × (CTAIL mod CSIZE), its first half the stamp, status, cause, QDONE and item, and CTAIL
rises. The banks that the digest's reads take are free (R238). A copy record moves one line at a time to its home, past the regulators and
with the banks of its ends; a poisoned source, or an error response of the host's completer, ends it with MEMERR and a violation record
(R323, R380, R401, R403). The Mere lends one extension of the smallest full queue to a core
stalled for 256 clocks (R298). -/
def Obligations.LaunchResults : Prop :=
  (∀ (s : State) (q : Nat) (l : Launch) (status cause : Nat) (item : Word), q < 256 → completable s q = some l →
    l.st = .ending status cause item → l.olmode = 0#2 → (fenOf s l.fen).ol.out.any (·.1.tag == l.tag) = false →
    status ≠ 0 ∨ (askBanks s (digestNeeds l)).1 = true → ∃ t, exec (.completionRecord q) s = .next t ∧
      (queueOf t q).qdone = (queueOf s q).qdone + 1#32 ∧
      (queueOf t q).launches = (queueOf s q).launches.filter (fun x => x.lid != l.lid) ∧
      ((queueOf s q).csize = 0#13 → (queueOf t q).ctail = (queueOf s q).ctail) ∧
      ((queueOf s q).csize ≠ 0#13 → Memory.wf s.mem → (queueOf t q).ctail = (queueOf s q).ctail + 1#32 ∧
        (readHome t (hostLoc ((queueOf s q).cbase.toNat + 32 * ((queueOf s q).ctail.toNat % (queueOf s q).csize.toNat))) 32).take 16 =
          leBytes 2 l.stamp.toNat ++ leBytes 1 status ++ leBytes 1 cause ++ leBytes 4 ((queueOf s q).qdone + 1#32).toNat ++
          leBytes 8 item.toNat) ∧
      (∀ c k, l.waiter = some (c, k) → ∃ r ∈ t.raises, r.cid = c ∧ r.token = k ∧ r.n = 1 ∧
        r.status = (if status = 0 then 0#32 else stFaulted))) ∧
  (∀ (s : State) (q : Nat) (l : Launch) (i j : Nat) (a b : Loc) (c : CopyLine), findLaunch s l.lid = some (q, l) → l.isCopy = true →
    l.st = .started → l.copied = false → (∀ l, (launchOf s l).olmode ≠ 1#2) →
    (copyCursor l l.ncopy l.copyAt = none → ∃ t l', exec (.copyRecord l.lid) s = .next t ∧ findLaunch t l.lid = some (q, l') ∧
      l'.copied = true ∧ t = { s with queues := t.queues }) ∧
    (copyCursor l l.ncopy l.copyAt = some (i, j) → copyLineOf s l = some c → Memory.wf s.mem →
      (askBanks s (c.needs l)).1 = true → (copyPays (askBanks s (c.needs l)).2 l c).isSome = true →
      copyPlace s l (bitAt (l.copyOf i).2.2.2 0) ((l.copyOf i).1 + 64 * j) false = .ok a →
      copyPlace s l (bitAt (l.copyOf i).2.2.2 1) ((l.copyOf i).2.1 + 64 * j) true = .ok b →
      (poisoned s a 64 = false → hostRefuses s a 64 = false → hostRefuses s b 64 = false →
        ∃ t l', exec (.copyRecord l.lid) s = .next t ∧ findLaunch t l.lid = some (q, l') ∧ l'.copyAt = l.copyAt + 1 ∧
          readHome t b 64 = readHome s a 64 ∧ SameMemoryBut b.key 64 s t) ∧
      (poisoned s a 64 = true ∨ hostRefuses s a 64 = true ∨ hostRefuses s b 64 = true →
        ∃ t l', exec (.copyRecord l.lid) s = .next t ∧ findLaunch t l.lid = some (q, l') ∧ l'.st = .ending 1 (causeCode .memerr) 0#64 ∧
          (fenOf t l.fen).xlogn = (fenOf s l.fen).xlogn + 1 ∧ SameMemory s t))) ∧
  (∀ (s : State) (k : Nat) (x : Stuck) (r : List Stuck), k < 96 → 256 ≤ (coreOf s k).stall →
    sortBy stuckLe (((List.range 4).map (4 * k + ·)).flatMap fun g => [0, 1, 2, 3, 4].flatMap fun e => stuckOf s g e) = x :: r →
    let fen := (coreOf s k).fen
    let die := dieNo (coreNo x.dest.1)
    let n := extBytes x.dest.2.2
    ((dieOf s die).mere.foldl (fun a (_, b) => a + b) 0 + n ≤ 65536 → tget 0 (dieOf s die).mere fen + n ≤ 16384 →
      x.dest.2.2 < 10 → x.dest.2.1 ≤ 1 → ∃ t, exec (.mereExtension k) s = .next t ∧ (coreOf t k).stall = 0 ∧
        tget 0 (dieOf t die).mere fen = tget 0 (dieOf s die).mere fen + n ∧
        tget 0 (ctxAt t x.dest.1 x.dest.2.1).qext x.dest.2.2 = tget 0 (ctxAt s x.dest.1 x.dest.2.1).qext x.dest.2.2 + 1 ∧ SameMemory s t))

/-! ### Traps (R221, R329 to R346) -/

/-- Taking a trap. A resumable one of the sequencer at U enters the handler at S (R331, R334): the S frame holds the cause, the level U and
the address, the results in flight are captured, a DLY's remainder is saved, and the handler's first group issues two clocks on at TVEC.
SWTRAP at S or M enters firmware (R334, R346): the M frame alone is written, and the S frame, TRAPPED and the in-flight queue stay. Every
other trap is terminal (R330, R344): the frame is written, the step ends with the clock, and the launch ends with status 1 and the cause, if nothing
has ended it before. Registers, tokens, queues and memory stay. TRAP raises SWTRAP for the group after it (R221). -/
def Obligations.TakingTraps : Prop :=
  (∀ (s : State) (g tpc : Nat) (c : Cause) (tval : Word) (sw : BitVec 16), causeResumable c = true → (ctxOf s g).pl = 0#2 →
    (ctxOf s g).svc = false →
    let x := ctxOf s g
    let t := takeTrap s g 0 c tpc tval sw
    let y := ctxOf t g
    y.tr = { x.tr with tcause := BitVec.ofNat 64 (sw.toNat * 2 ^ 16 + 2 ^ 8 + causeCode c), tpc := BitVec.ofNat 64 tpc, tval } ∧
    y.pl = 1#2 ∧ y.trapped = true ∧ y.ifqS = x.ifqS ++ (engOf x 0).pipe ∧ (engOf y 0).pipe = [] ∧
    (engOf y 0).pc = (fenOf s (coreOf s (coreNo g)).fen).tvec.toNat % 2 ^ 32 / 4 * 4 ∧ (engOf y 0).idle = 2 ∧
    (engOf y 0).dlySave = (engOf x 0).dly ∧ (engOf y 0).dly = 0 ∧ (engOf y 0).l = (engOf x 0).l ∧
    y = { x with tr := y.tr, pl := 1#2, trapped := true, ifqS := y.ifqS, eng := y.eng } ∧ (∀ e, e ≠ 0 → engOf y e = engOf x e) ∧
    SameMemory s t ∧ ∀ h, h ≠ g → subOf t h = subOf s h) ∧
  (∀ (s : State) (g tpc : Nat) (sw : BitVec 16), (ctxOf s g).pl ≠ 0#2 →
    let x := ctxOf s g
    let t := takeTrap s g 0 .swtrap tpc 0#64 sw
    let y := ctxOf t g
    y.tr = { x.tr with mtcause := BitVec.ofNat 64 (sw.toNat * 2 ^ 16 + x.pl.toNat * 2 ^ 9 + 2 ^ 8 + 0x1A),
                       mtpc := BitVec.ofNat 64 tpc, mtval := 0#64 } ∧
    y.pl = 3#2 ∧ (engOf y 0).pc = s.svc.mtvec.toNat % 2 ^ 32 / 4 * 4 ∧ (engOf y 0).idle = 2 ∧ (engOf y 0).pipe = (engOf x 0).pipe ∧
    y = { x with tr := y.tr, pl := 3#2, eng := y.eng } ∧ (∀ e, e ≠ 0 → engOf y e = engOf x e) ∧ SameMemory s t ∧
    ∀ h, h ≠ g → subOf t h = subOf s h) ∧
  (∀ (s : State) (g e tpc q : Nat) (c : Cause) (tval : Word) (sw : BitVec 16) (st : StepCtx) (l : Launch),
    e ≠ 0 ∨ causeResumable c = false ∨ ((ctxOf s g).pl ≠ 0#2 ∧ c ≠ .swtrap) → (ctxOf s g).svc = false → (ctxOf s g).step = some st →
    findLaunch s st.lid = some (q, l) →
    let x := ctxOf s g
    let t := takeTrap s g e c tpc tval sw
    let y := ctxOf t g
    y = { x with tr := y.tr, step := some { st with ended := true, endAt := s.clock + 1 } } ∧
    y.tr = { x.tr with tcause := BitVec.ofNat 64 (sw.toNat * 2 ^ 16 + e * 2 ^ 12 + x.pl.toNat * 2 ^ 9 + causeCode c),
                       tpc := BitVec.ofNat 64 tpc, tval } ∧
    (l.st = .started → ∃ item, (launchOf t st.lid).st = .ending 1 (causeCode c) item) ∧ SameMemory s t ∧
    ∀ h, h ≠ g → subOf t h = subOf s h) ∧
  (∀ (n : BitVec 16) (s : State),
    ((curCtx s).pl = 0#2 ∨ undrained s = false → exec (.trap n) s = .next (trapWith s .swtrap 0#64 n) ∧
      ctxOf (trapWith s .swtrap 0#64 n) s.cur.g = ctxOf (takeTrap s s.cur.g s.cur.e .swtrap s.cur.next 0#64 n) s.cur.g) ∧
    ((curCtx s).pl ≠ 0#2 → undrained s = true → ∃ t, exec (.trap n) s = .next t ∧ (curEng t).wait = some .drain ∧
      (curCtx t).tr = (curCtx s).tr ∧ (curCtx t).pl = (curCtx s).pl ∧ SameMemory s t)) ∧
  (∀ (s : State) (g e : Nat) (c : Cause) (tval : Word) (sw : BitVec 16), g < 384 → e < 5 →
    exec (.trapTaken g e c tval sw) s = .next (takeTrap s g e c (engOf (ctxOf s g) e).pc tval sw))

/-- Landing (R227, R228, R235): in one unfrozen clock of the sequencer, the fetch or store engine or the array port every result is a clock
nearer, and those at their last clock are written in issue order, the sequencer's with the results by token of that clock; a frozen engine, or one whose sub-core is being swapped, stands still.
ERET (R222, R334, R336). At U it traps with PRIV, and so it does when its frame holds level 2. With nothing of its own in flight, at S
it restores the level and the pc of the S frame, clears TRAPPED and puts the captured results back in flight; at M it restores those of the
M frame and nothing else. Memory, registers, tokens and queues stay. -/
def Obligations.TrapReturns : Prop :=
  (
    ∀ (s : State) (g e : Nat), g < 384 → e < 5 → e ≠ 1 →
      let c := ctxOf s g
      let x := engOf c e
      (x.frozen = true ∨ (subOf s g).swapLeft ≠ 0 → exec (.resultLands g e) s = .next s) ∧
      (x.frozen = false → (subOf s g).swapLeft = 0 →
        let adv := x.pipe.map fun l => { l with left := l.left - 1 }
        let late := if e = 0 then c.arrive else []
        ∃ t, exec (.resultLands g e) s = .next t ∧
          ctxOf t g = (issueOrder ((adv.filter fun l => l.left = 0) ++ late)).foldl writeDest
            (setEng { c with arrive := if e = 0 then [] else c.arrive } e { x with pipe := adv.filter fun l => l.left ≠ 0 }) ∧
          SameMemory s t ∧ ∀ h, h ≠ g → subOf t h = subOf s h)) ∧
  (
    ∀ (s : State),
      let c := curCtx s
      (c.pl = 0#2 → exec .eret s = .next (trapWith s .priv)) ∧
      (c.pl = 3#2 → c.tr.mtcause.toNat / 2 ^ 9 % 4 = 2 → exec .eret s = .next (trapWith s .priv)) ∧
      (c.pl ≠ 0#2 → c.pl ≠ 3#2 → c.tr.tcause.toNat / 2 ^ 9 % 4 = 2 → exec .eret s = .next (trapWith s .priv)) ∧
      (c.pl = 3#2 → c.tr.mtcause.toNat / 2 ^ 9 % 4 ≠ 2 → undrained s = false → s.cur.e = 0 → ∃ t, exec .eret s = .next t ∧
        curCtx t = { c with pl := BitVec.ofNat 2 (c.tr.mtcause.toNat / 2 ^ 9), eng := (curCtx t).eng } ∧
        curEng t = { curEng s with idle := 2, jumped := true, pc := c.tr.mtpc.toNat % 2 ^ 32 / 4 * 4 } ∧ SameEngines s t ∧
        t.cur.next = c.tr.mtpc.toNat % 2 ^ 32 / 4 * 4 ∧ SameMemory s t) ∧
      (c.pl ≠ 0#2 → c.pl ≠ 3#2 → c.tr.tcause.toNat / 2 ^ 9 % 4 ≠ 2 → undrained s = false → s.cur.e = 0 → s.accs = [] → s.xfers = [] →
        ∃ t, exec .eret s = .next t ∧
        curCtx t = { c with pl := BitVec.ofNat 2 (c.tr.tcause.toNat / 2 ^ 9), trapped := false, ifqS := [], eng := (curCtx t).eng } ∧
        (curEng t).pipe = c.ifqS.map (fun l => { l with left := l.left + 2 }) ∧ (curEng t).dly = (curEng s).dlySave ∧
        (curEng t).idle = 2 ∧ (curEng t).pc = c.tr.tpc.toNat % 2 ^ 32 / 4 * 4 ∧ t.cur.next = c.tr.tpc.toNat % 2 ^ 32 / 4 * 4 ∧
        SameMemory s t))

/-- The shadow swap (R223, R338 to R343). SWAPX at U traps with PRIV; above, it asks for a swap once it may. At a boundary a SWAPX of a
step's context brings in a service context at S, at SVEC, with SVC set and s8 the caller's TSCR, and the caller stands in the bank, its
results captured, while it is spilled; one of a service context brings the caller back. A step placed by pre-emption is brought in the same
way. For 24 clocks no engine issues. A finished spill leaves the bank LIVE, and so does a finished fill, with the spilled
context in it, as its image in the spill area gives it: a context whose image nothing has written since comes back as it was. The places of
the words in the image, and what a fill brings back of an image that a store has edited, are the model's choice (log 41; R341 says only
that a fill reads the same image back); that a return waits for no spill is log 16, and that a context which pre-emption was still building
leaves the bank FREE when it comes back is log 121. -/
def Obligations.ShadowSwaps : Prop :=
  (∀ (s : State),
    ((curCtx s).pl = 0#2 → exec .swapx s = .next (trapWith s .priv)) ∧
    ((curCtx s).pl ≠ 0#2 → swapxMet s s.cur.g = true → exec .swapx s = .next (modSub s s.cur.g fun b => { b with swapAsk := true, askAt := s.clock }))) ∧
  (∀ (s : State) (g : Nat), g < 384 →
    let b := subOf s g
    (b.swapAsk = true → swapBoundary s g = true → b.act.svc = false → b.shb = 0#2 → b.shd.step = none → ∃ t, exec (.shadowSwap g) s = .next t ∧
      let n := subOf t g
      n.act.pl = 1#2 ∧ n.act.svc = true ∧ (engOf n.act 0).pc = (fenOf s (coreOf s (coreNo g)).fen).svec.toNat % 2 ^ 32 / 4 * 4 ∧
      (rdS n.act 8).w = b.act.tr.tscr ∧ (rdS n.act 8).p = none ∧ n.swapLeft = 24 ∧ n.swapAsk = false ∧ n.shb = 2#2 ∧
      n.shd.s = b.act.s ∧ n.shd.h = b.act.h ∧ n.shd.v = b.act.v ∧ n.shd.t = b.act.t ∧ n.shd.q = b.act.q ∧ n.shd.tr = b.act.tr ∧
      n.shd.cid = b.act.cid ∧ n.shd.step = b.act.step ∧ (engOf n.shd 0).pc = (engOf b.act 0).pc ∧
      (b.act.trapped = false → n.shd.ifqS = b.act.ifqS ++ (engOf b.act 0).pipe ∧ (engOf n.shd 0).pipe = []) ∧ SameMemory s t) ∧
    (b.swapAsk = true → swapBoundary s g = true → b.act.svc = true → b.spilled = none → ∃ t, exec (.shadowSwap g) s = .next t ∧
      let n := subOf t g
      n.act.s = b.shd.s ∧ n.act.tr = b.shd.tr ∧ n.act.cid = b.shd.cid ∧ n.act.step = b.shd.step ∧ n.shd = {} ∧ n.shb = 0#2 ∧
      n.swapLeft = 24 ∧ (b.shd.trapped = false → (engOf n.act 0).pipe = (engOf b.shd 0).pipe ++ b.shd.ifqS ∧ n.act.ifqS = []) ∧
      SameMemory s t) ∧
    (b.swapAsk = false → preemptReady b = true → swapAllowed s g = true → ∃ t, exec (.shadowSwap g) s = .next t ∧
      let n := subOf t g
      n.act.s = b.shd.s ∧ n.act.cid = b.shd.cid ∧ n.act.step = b.shd.step ∧ n.shd.s = b.act.s ∧ n.shd.cid = b.act.cid ∧
      n.shd.step = (b.act.step.map fun st => { st with displaced := true }) ∧ n.shb = 2#2 ∧ n.swapLeft = 24 ∧ SameMemory s t) ∧
    (b.swapAsk = false → preemptReady b = false → returnReady b = true → b.swapLeft = 0 → ∃ t, exec (.shadowSwap g) s = .next t ∧
      let n := subOf t g
      n.act.s = b.shd.s ∧ n.act.cid = b.shd.cid ∧ n.act.step = b.shd.step ∧ n.shd = {} ∧ n.shb = 0#2 ∧ n.swapLeft = 24 ∧ SameMemory s t) ∧
    (b.shb = 2#2 → exec (.spillDone g) s = .next (modSub s g fun b => { b with shb := 1#2, spillLeft := 0 })) ∧
    (b.shb ≠ 2#2 → exec (.spillDone g) s = .next s) ∧
    (∀ c, b.shb = 3#2 → b.spilled = some c →
      let back := match b.image with | some old => readImage s g old c | none => c
      let built : Bool := match back.step with | some st => st.preempting && !st.ended | none => false
      exec (.contextFill g) s = .next (setSub s g { b with shd := back, spilled := none, image := none,
                                                           shb := if built then 0#2 else 1#2, spillLeft := 0 })) ∧
    (∀ old c, (∀ i, i < 4096 → readHome s (.phys (spillArea s g + 64 * i)) 64 = imageLine s g old i) → readImage s g old c = c) ∧
    (b.shb ≠ 3#2 → exec (.contextFill g) s = .next s))

/-! ### The vector engine (R143 to R168) -/

/-- Predicates and landing (R143, R144, R146, R20): the element masks of a predicate; what a landing vector result does to its register,
which keeps the bits outside the mask and merges its tag with the old one if it keeps any; and a poisoned k register, which traps every
predicated word before any effect. -/
def Obligations.VectorPredicates : Prop :=
  (∀ (t : BitVec 4) (k : Option Word) (j : Nat), t ≠ 15#4 → j < 16384 / typeBits t.toNat →
    elemAt (typeBits t.toNat) (viewMask t k) j =
      (if k.isSome && clipped (extent k (128 / typeBits t.toNat)) j then 0 else 2 ^ typeBits t.toNat - 1)) ∧
  (∀ (w : Nat) (k : Option Word) (j : Nat), w = 1 ∨ w = 2 ∨ w = 4 ∨ w = 8 → j < 2048 / w →
    elemAt (8 * w) (tileMask w k) j = (if k.isSome && clipped (extent k (16 / w)) j then 0 else 2 ^ (8 * w) - 1)) ∧
  (∀ (c : Ctx) (l : Landing) (n : Nat) (w : VWord), l.dest = .v n → l.val = .vec w →
    (∀ i, (vregOf (writeDest c l) n).val.getLsbD i =
      (if l.mask.getLsbD i then w.getLsbD i else (vregOf c n).val.getLsbD i)) ∧
    (vregOf (writeDest c l) n).poison = (if l.whole then l.poison else meet l.poison (vregOf c n).poison) ∧
    (∀ m, m ≠ n → vregOf (writeDest c l) m = vregOf c m) ∧
    (∀ d, (∀ m, d ≠ .v m) → readDest (writeDest c l) d = readDest c d)) ∧
  (∀ (s : State) (lat : Nat) (d : BitVec 6) (v mask : VWord) (p : Option Cause), OneResult s (vland s lat d v mask p)) ∧
  (∀ (i : Instr) (s : State) (k : Cause) (w : Word), predicate s = some ⟨w, some k⟩ → hasCopies s = false →
    (match i with
     | .vadd .. | .vsub .. | .vmul .. | .vfma .. | .vfms .. | .vfnma .. | .vmin .. | .vmax .. | .vabs .. | .vneg .. | .vexp2 .. |
       .vlog2 .. | .vrcp .. | .vrsq .. | .vsqrt .. | .vfloor .. | .vceil .. | .vrint .. | .vcmp .. | .vsel .. | .viadd .. | .visub .. |
       .vimul .. | .vimulh .. | .vimulhu .. | .vand .. | .vor .. | .vxor .. | .vandn .. | .vshl .. | .vshr .. | .vsra .. | .vimin .. |
       .vimax .. | .viminu .. | .vimaxu .. | .vcvt .. | .vqblk .. | .vdqblk .. | .vpsum .. | .vpsumx .. | .vpmax .. | .vpxor .. |
       .vredsum .. | .vredmax .. | .vredmin .. | .vredsq .. | .vtopk .. | .vperm .. | .vrot .. | .vwin .. | .vsmax .. | .vsplat .. |
       .vmov .. => True
     | _ => False) → exec i s = .next (trapWith s k w))

/-- Floating arithmetic (R149, R150, R66, R87): each element is the exact value of its function of the source elements, rounded once in
the word's mode; a fused word rounds once; VMIN and VMAX copy an operand, VABS and VNEG change the sign bit alone. VEXP2 and VLOG2 alone are
not computed exactly: their series are summed in fixed point with 384 fraction bits and a sticky mark before the one rounding, which is the
model's choice and unsafe (log 5). -/
def Obligations.VectorFloats : Prop :=
  ∀ (d a b : BitVec 6) (t : BitVec 4) (s : State) (x y z : VReg), t.toNat < 5 → VecClean s [a, b, d] →
    vregOf (curCtx s) a.toNat = x → vregOf (curCtx s) b.toNat = y → vregOf (curCtx s) d.toNat = z →
    let f := fmtOf t.toNat
    let n := f.width
    let mode := roundMode s
    let mask := tileMask (n / 8) ((predicate s).map (·.w))
    let X : Nat → FV := fun j => decodeF f (elemAt n x.val j)
    let Y : Nat → FV := fun j => decodeF f (elemAt n y.val j)
    let Z : Nat → FV := fun j => decodeF f (elemAt n z.val j)
    let two : Instr → (Nat → FV) → Prop := fun i g => VecOut s (exec i s) 4 d n mask (meet x.poison y.poison) fun j => roundF f mode (g j)
    let three : Instr → (Nat → FV) → Prop := fun i g =>
      VecOut s (exec i s) 4 d n mask (meet (meet x.poison y.poison) z.poison) fun j => roundF f mode (g j)
    let one : Instr → Nat → (Nat → Nat) → Prop := fun i lat g => VecOut s (exec i s) lat d n mask x.poison g
    two (.vadd d a b t) (fun j => FV.add mode (X j) (Y j)) ∧
    two (.vsub d a b t) (fun j => FV.add mode (X j) (Y j).neg) ∧
    two (.vmul d a b t) (fun j => (X j).mul (Y j)) ∧
    three (.vfma d a b t) (fun j => FV.add mode ((X j).mul (Y j)) (Z j)) ∧
    three (.vfms d a b t) (fun j => FV.add mode ((X j).mul (Y j)) (Z j).neg) ∧
    three (.vfnma d a b t) (fun j => FV.add mode (Z j) ((X j).mul (Y j)).neg) ∧
    VecOut s (exec (.vmin d a b t) s) 2 d n mask (meet x.poison y.poison) (fun j =>
      if (X j).isNan || (Y j).isNan then f.nan else if (Y j).below (X j) then elemAt n y.val j else elemAt n x.val j) ∧
    VecOut s (exec (.vmax d a b t) s) 2 d n mask (meet x.poison y.poison) (fun j =>
      if (X j).isNan || (Y j).isNan then f.nan else if (X j).below (Y j) then elemAt n y.val j else elemAt n x.val j) ∧
    one (.vabs d a t) 2 (fun j => elemAt n x.val j % 2 ^ (n - 1)) ∧
    one (.vneg d a t) 2 (fun j => (elemAt n x.val j + 2 ^ (n - 1)) % 2 ^ n) ∧
    one (.vfloor d a t) 3 (fun j => integral f 3 (elemAt n x.val j)) ∧
    one (.vceil d a t) 3 (fun j => integral f 2 (elemAt n x.val j)) ∧
    one (.vrint d a t) 3 (fun j => integral f mode (elemAt n x.val j)) ∧
    one (.vsqrt d a t) 8 (fun j => roundS f mode false (vSqrt (X j)).1 (vSqrt (X j)).2) ∧
    (t = 0#4 →
      one (.vexp2 d a t) 8 (fun j => roundS f mode false (vExp2 (X j)).1 (vExp2 (X j)).2) ∧
      one (.vlog2 d a t) 8 (fun j => roundS f mode false (vLog2 (X j)).1 (vLog2 (X j)).2) ∧
      one (.vrcp d a t) 8 (fun j => roundS f mode false (vRcp (X j)).1 (vRcp (X j)).2) ∧
      one (.vrsq d a t) 8 (fun j => roundS f mode false (vRsq (X j)).1 (vRsq (X j)).2))

/-- Integer and bit words (R153), compares and selects (R151, R152): each element of `n` bits is the function of Table 6.5; wrapping, or
clamped with sat; a shift by `n` or more gives 0, or the sign from VSRA; a compare gives all ones or zero. -/
def Obligations.VectorIntegers : Prop :=
  ∀ (d a b : BitVec 6) (t : BitVec 4) (s : State) (x y z : VReg) (n : Nat), typeBits t.toNat = n → VecClean s [d, a, b] →
    vregOf (curCtx s) a.toNat = x → vregOf (curCtx s) b.toNat = y → vregOf (curCtx s) d.toNat = z →
    let mask := viewMask t ((predicate s).map (·.w))
    let p := meet x.poison y.poison
    let X : Nat → Nat := fun j => elemAt n x.val j
    let Y : Nat → Nat := fun j => elemAt n y.val j
    let SX : Nat → Int := fun j => toSigned n (X j)
    let SY : Nat → Int := fun j => toSigned n (Y j)
    let clamp : Int → Int := fun i => max (-(2 ^ (n - 1))) (min (2 ^ (n - 1) - 1) i)
    let wrap : Int → Nat := fun i => (i % 2 ^ n).toNat
    let is : Instr → Nat → (Nat → Nat) → Prop := fun i lat g => VecOut s (exec i s) lat d n mask p g
    (8 ≤ n →
      is (.viadd d a b t 0#2) 2 (fun j => (X j + Y j) % 2 ^ n) ∧
      is (.viadd d a b t 1#2) 2 (fun j => wrap (clamp (SX j + SY j))) ∧
      is (.visub d a b t 0#2) 2 (fun j => wrap ((X j : Int) - Y j)) ∧
      is (.visub d a b t 1#2) 2 (fun j => wrap (clamp (SX j - SY j))) ∧
      is (.vimul d a b t) 4 (fun j => X j * Y j % 2 ^ n) ∧
      is (.vimulh d a b t) 4 (fun j => wrap (SX j * SY j / 2 ^ n)) ∧
      is (.vimulhu d a b t) 4 (fun j => X j * Y j / 2 ^ n) ∧
      is (.vand d a b t) 2 (fun j => X j &&& Y j) ∧
      is (.vor d a b t) 2 (fun j => X j ||| Y j) ∧
      is (.vxor d a b t) 2 (fun j => X j ^^^ Y j) ∧
      is (.vandn d a b t) 2 (fun j => X j &&& (2 ^ n - 1 - Y j)) ∧
      is (.vshl d a b t) 2 (fun j => X j * 2 ^ Y j % 2 ^ n) ∧
      is (.vshr d a b t) 2 (fun j => X j / 2 ^ Y j) ∧
      is (.vsra d a b t) 2 (fun j => wrap (SX j / 2 ^ Y j)) ∧
      is (.vimin d a b t) 2 (fun j => wrap (min (SX j) (SY j))) ∧
      is (.vimax d a b t) 2 (fun j => wrap (max (SX j) (SY j))) ∧
      is (.viminu d a b t) 2 (fun j => min (X j) (Y j)) ∧
      is (.vimaxu d a b t) 2 (fun j => max (X j) (Y j)) ∧
      (isFloat t.toNat = false →
        is (.vcmp d a b t 0#2) 2 (fun j => if X j = Y j then 2 ^ n - 1 else 0) ∧
        is (.vcmp d a b t 1#2) 2 (fun j => if SX j < SY j then 2 ^ n - 1 else 0) ∧
        is (.vcmp d a b t 2#2) 2 (fun j => if SX j ≤ SY j then 2 ^ n - 1 else 0)) ∧
      (isFloat t.toNat = true →
        let A : Nat → FV := fun j => decodeF (fmtOf t.toNat) (X j)
        let B : Nat → FV := fun j => decodeF (fmtOf t.toNat) (Y j)
        let un : Nat → Bool := fun j => (A j).isNan || (B j).isNan
        is (.vcmp d a b t 0#2) 2 (fun j => if !un j && (A j).cmp (B j) == 0 then 2 ^ n - 1 else 0) ∧
        is (.vcmp d a b t 1#2) 2 (fun j => if !un j && (A j).cmp (B j) < 0 then 2 ^ n - 1 else 0) ∧
        is (.vcmp d a b t 2#2) 2 (fun j => if !un j && (A j).cmp (B j) ≤ 0 then 2 ^ n - 1 else 0) ∧
        is (.vcmp d a b t 3#2) 2 (fun j => if un j then 2 ^ n - 1 else 0))) ∧
    VecOut s (exec (.vsel d a b t) s) 2 d n mask (meet (meet z.poison x.poison) y.poison)
      (fun j => if elemAt n z.val j ≠ 0 then X j else Y j) ∧
    (∀ e, headQ (curCtx s) 6 s.clock = some e → e.poison = none →
      let r := if e.val ≠ 0#64 then x else y
      exec (.vselc d a b t) s = .next (vland (modCur s fun c => popQ c 6) 2 d r.val mask r.poison)) ∧
    (headQ (curCtx s) 6 s.clock = none → exec (.vselc d a b t) s = .next (freeze s)) ∧
    exec (.vmov d a t) s = .next (vland s 2 d x.val mask x.poison) ∧
    (∀ i : BitVec 16,
      VecOut s (exec (.vsplat d 0#2 i) s) 2 d 16 (tileMask 2 ((predicate s).map (·.w))) none (fun _ => i.toNat) ∧
      VecOut s (exec (.vsplat d 1#2 i) s) 2 d 32 (tileMask 4 ((predicate s).map (·.w))) none (fun _ => i.toNat * 2 ^ 16) ∧
      VecOut s (exec (.vsplat d 2#2 i) s) 2 d 32 (tileMask 4 ((predicate s).map (·.w))) none (fun _ => (i.toInt % 2 ^ 32).toNat))

/-- Row operations, permutation, rotation and windows (R144, R157, R159, R160, R161): an element of a row operation is a function of the
unclipped elements of its row of the 4-byte tile view, up to its column, below it, or all of them; VPERM takes elements of its row by their
numbers; VROT and VWIN move bytes of the register, whatever the view, and elements that the tile clips in the result stay out as R144 says.
That clipped source bytes of VROT read as zero is the model's choice (log 18). -/
def Obligations.VectorRows : Prop :=
  ∀ (d a b : BitVec 6) (t : BitVec 4) (s : State) (x y z : VReg), VecClean s [a, b, d] →
    vregOf (curCtx s) a.toNat = x → vregOf (curCtx s) b.toNat = y → vregOf (curCtx s) d.toNat = z →
    let k := (predicate s).map (·.w)
    let mode := roundMode s
    let terms : (Nat → Nat → Bool) → Nat → List Nat := fun keep j =>
      ((List.range 128).filter fun c => keep c (j % 128) && !(k.isSome && clipped (extent k 4) (j / 128 * 128 + c))).map
        fun c => elemAt 32 x.val (j / 128 * 128 + c)
    let le : Nat → Nat → Bool := fun c j => c ≤ j
    let lt : Nat → Nat → Bool := fun c j => c < j
    let all : Nat → Nat → Bool := fun _ _ => true
    let row : Instr → (Nat → Nat) → Prop := fun i g => VecOut s (exec i s) 6 d 32 (tileMask 4 k) x.poison g
    row (.vpsum d a t) (fun j => sumTerms t.toNat mode (terms le j)) ∧
    row (.vpsumx d a t) (fun j => sumTerms t.toNat mode (terms lt j)) ∧
    row (.vpmax d a t) (fun j => maxTerms t.toNat (terms le j)) ∧
    row (.vpxor d a t) (fun j => (terms le j).foldl (· ^^^ ·) 0) ∧
    row (.vredsum d a t) (fun j => sumTerms t.toNat mode (terms all j)) ∧
    row (.vredmax d a t) (fun j => maxTerms t.toNat (terms all j)) ∧
    row (.vredmin d a t) (fun j => minTerms t.toNat (terms all j)) ∧
    row (.vredsq d a t) (fun j => sumSquares t.toNat mode (terms all j)) ∧
    (t ≠ 6#4 → t ≠ 15#4 →
      let n := typeBits t.toNat
      VecOut s (exec (.vperm d a b t) s) 3 d n (tileMask (n / 8) k) (meet x.poison y.poison) fun j =>
        let q := elemAt n y.val j
        let c := j / 128 * 128 + q % 128
        if q / 128 % 2 = 1 ∨ (k.isSome && clipped (extent k (128 / n)) c) = true then 0 else elemAt n x.val c) ∧
    (∀ r : BitVec 12, r.toNat < 2048 →
      VecOut s (exec (.vrot d a r) s) 3 d 8 (tileMask 1 k) x.poison fun j =>
        let c := (j + r.toNat) % 2048
        if k.isSome && clipped (extent k 16) c then 0 else elemAt 8 x.val c) ∧
    (∀ (p l : BitVec 4) (ap al : Val), rdA (curCtx s) 1 p.toNat = ap → rdA (curCtx s) 1 l.toNat = al →
      (hasCopies s = true → ap.p = none ∧ al.p = none) →
      VecOut s (exec (.vwin d p l) s) 3 d 32 (tileMask 4 k) (meet (meet z.poison ap.p) al.p) fun j =>
        let dist : BitVec 32 := BitVec.ofNat 32 (ap.w.toNat + j / 128) - BitVec.ofNat 32 (ap.w.toNat / 2 ^ 32 + j % 128)
        if 0 ≤ dist.toInt ∧ dist.toInt < (al.w.toNat % 2 ^ 32 : Nat) then elemAt 32 z.val j else 0xFF800000)

/-- Conversions, block scales, ranking and the online soft-maximum (R154, R155, R156, R158, R162, R163): the elements that each gives, and
the second destinations, which a predicate does not mask in VQBLK and VTOPK. The k candidates of a row are a permutation of its
unclipped columns. -/
def Obligations.VectorBlocks : Prop :=
  (∀ (d a b : BitVec 6) (t i : BitVec 4) (u : BitVec 1) (h : BitVec 2) (s : State) (x y : VReg), VecClean s [a, b] →
    vregOf (curCtx s) a.toNat = x → vregOf (curCtx s) b.toNat = y →
    let k := (predicate s).map (·.w)
    let mode := roundMode s
    (i ≠ 6#4 → t ≠ 6#4 →
      let wi := typeBits i.toNat
      let wo := typeBits t.toNat
      VecOut s (exec (.vcvt d a t u i) s) 3 d wo (tileMask (wo / 8) k ||| tailMask (16384 / max wi wo * (wo / 8))) x.poison fun j =>
        if j < 16384 / max wi wo then vconvert i.toNat t.toNat mode (u == 1#1) (elemAt wi x.val j) % 2 ^ wo else 0) ∧
    (let blk : Nat → Nat × List Nat := fun n => quantBlock t.toNat mode ((List.range 32).map fun c =>
        if k.isSome && clipped (extent k 4) (32 * n + c) then 0 else elemAt 32 x.val (32 * n + c))
      ∃ v z keep, exec (.vqblk d a b t) s = .next (vland2 (vland s 6 d v keep x.poison) 6 b.toNat z fullMask x.poison) ∧
        (∀ j, j < 512 → elemAt 8 v j = nth 0 (blk (j / 32)).2 (j % 32) % 256) ∧ (∀ j, 512 ≤ j → j < 2048 → elemAt 8 v j = 0) ∧
        (∀ j, j < 16 → elemAt 8 z j = (blk j).1 % 256) ∧ (∀ j, 16 ≤ j → j < 2048 → elemAt 8 z j = 0) ∧
        (∀ j, j < 512 → elemAt 8 keep j = if k.isSome && clipped (extent k 4) j then 0 else 255) ∧
        (∀ j, 512 ≤ j → j < 2048 → elemAt 8 keep j = 255)) ∧
    VecOut s (exec (.vdqblk d a b t) s) 6 d 32 (tileMask 4 k) (meet x.poison y.poison) (fun j =>
      dequant t.toNat 0 mode (elemAt 8 y.val (j / 32)) (elemAt 8 x.val j)) ∧
    (t = 0#4 ∨ t = 1#4 →
      let f := fmtOf t.toNat
      let n := f.width
      let e := extent k (128 / n)
      let order : Nat → List (Nat × Nat) := fun r => ranked f ((List.range 128).map fun c => elemAt n x.val (128 * r + c)) e.2
      ∃ v z, exec (.vtopk d a b t h) s = .next (vland2 (vland s 12 d v (rowMask (n / 8) k) x.poison) 12 b.toNat z fullMask x.poison) ∧
        (∀ j, j < 16384 / n → elemAt n v j =
          if j % 128 < 8 * 2 ^ h.toNat then (nth (signBit f true + f.inf.getD 0, 0) (order (j / 128)) (j % 128)).1 else 0) ∧
        (∀ j, j < 16384 / n → elemAt 16 z j =
          if j % 128 < 8 * 2 ^ h.toNat ∧ j / 128 < e.1 then (nth (0, 0xFFFF) (order (j / 128)) (j % 128)).2 else 0) ∧
        (∀ j, 16384 / n ≤ j → j < 1024 → elemAt 16 z j = 0)) ∧
    (let e := extent k 4
      let state : Nat → Nat → Nat := fun r c => elemAt 32 y.val (128 * r + c)
      let row : Nat → SmaxRow := fun r => smaxRow mode ((List.range e.2).map fun c => elemAt 32 x.val (128 * r + c))
        (state r 0) (state r 1) (state r 4)
      ∃ v z al, exec (.vsmax d a b 0#4) s = .next (vland2 (vland2 (vland s 10 d v (tileMask 4 k) (meet x.poison y.poison)) 10 b.toNat z
          (rowMask 4 k) (meet x.poison y.poison)) 10 (b.toNat + 1) al (rowMask 4 k) (meet x.poison y.poison)) ∧
        (∀ j, j < 512 → elemAt 32 v j = nth 0 (row (j / 128)).p (j % 128) % 2 ^ 32 ∧
          elemAt 32 z j = nth 0 (row (j / 128)).st (j % 128) % 2 ^ 32 ∧ elemAt 32 al j = (row (j / 128)).alpha % 2 ^ 32))) ∧
  (∀ (f : Fmt) (xs : List Nat) (n : Nat), (ranked f xs n).Perm (xs.take n).zipIdx) ∧
  (∀ (mode : Nat) (xs : List Nat), (∀ x ∈ xs, x = 0xFF800000) → mode < 4 →
    smaxRow mode xs 0 0 0 = ⟨xs.map fun _ => 0, [0xFF800000, 0, 0, 0xFF800000, 3], 0⟩)

/-- Vector loads, stores and queues (R164 to R168): VLD and VST check their place when they issue, and access memory in the fifth clock;
a load reads then what its step sees, a store to a place outside the step's output ranges writes 2,048 bytes and nothing else.
A queue pop replicates the entry, and a push takes element 0; an empty queue freezes. -/
def Obligations.VectorMemory : Prop :=
  (∀ (v : BitVec 6) (b : BitVec 4) (o : BitVec 10) (c : BitVec 4) (s : State) (y : Word) (x : VReg), rdA (curCtx s) 1 b.toNat = ⟨y, none⟩ →
    (∀ k, predicate s = some k → k.p = none) → vregOf (curCtx s) v.toNat = x →
    let a := (y.toNat + o.toNat * 64) % 2 ^ 64
    let mask := tileMask 4 ((predicate s).map (·.w))
    let gone : Dest → VWord → VAccess → State := fun e w q =>
      landIn s { left := 6, dest := e, val := .vec w, mask := mask, whole := mask == fullMask, access := some q }
    let load : Loc → State := fun l => gone (.v v.toNat) 0#16384 ⟨false, l, c.toNat⟩
    let store : Loc → State := fun l => gone .none x.val ⟨true, l, c.toNat⟩
    (a % 64 = 0 → vscratchError s a = none →
      exec (.vld v b o c) s = .next (load (.scratch a)) ∧
      (x.poison = none →
        shadowOver s (curCtx s).cid ((if mask = fullMask then [(0, 2048)] else maskRuns 0 (vecBytes mask)).map fun (i, n) => (a + i, n)) =
          false → exec (.vst v b o c) s = .next (store (.scratch a)))) ∧
    (a % 64 = 0 → stateError s (curCore s) a 2048 = false →
      exec (.vldState v b o c) s = .next (load (.state (curCore s) a)) ∧
      (x.poison = none → exec (.vstState v b o c) s = .next (store (.state (curCore s) a)))) ∧
    (a % 64 ≠ 0 → vscratchError s a = none → exec (.vld v b o c) s = .next (trapWith s .align)) ∧
    (stateError s (curCore s) a 2048 = true → exec (.vldState v b o c) s = .next (trapWith s .stoff))) ∧
  (∀ (s : State) (cid : Nat) (l : Landing) (v : VAccess) (w : VWord), l.access = some v → l.val = .vec w →
    (v.store = false → badView s cid v.loc 2048 = false →
      performVAccess s cid l = ({ l with access := none, val := .vec (vecOfBytes (readView s cid v.loc 2048)) }, s)) ∧
    (∀ a, v.store = true → l.whole = true → v.loc = .scratch a → Memory.wf s.mem → (∀ l, (launchOf s l).olmode ≠ 1#2) →
      (∀ p, inRanges (stepRanges s (ctxOfCid s cid).step) p = false) →
      (performVAccess s cid l).1 = { l with access := none } ∧
      readHome (performVAccess s cid l).2 v.loc 2048 = vecBytes w ∧ SameMemoryBut v.loc.key 2048 s (performVAccess s cid l).2)) ∧
  (∀ (d : BitVec 6) (q : BitVec 3) (t : BitVec 4) (s : State), t ≠ 6#4 →
    (headQ (curCtx s) q.toNat s.clock = none → exec (.vpopq d q t) s = .next (freeze s)) ∧
    (∀ e, headQ (curCtx s) q.toNat s.clock = some e →
      VecOut (modCur s fun c => popQ c q.toNat) (exec (.vpopq d q t) s) 2 d (typeBits t.toNat) fullMask e.poison
        (fun _ => e.val.toNat % 2 ^ typeBits t.toNat)) ∧
    ((curCtx s).ingress = [] → exec (.vrxpop d) s = .next (freeze s)) ∧
    (∀ e r, (curCtx s).ingress = e :: r →
      exec (.vrxpop d) s = .next (vland (modCur s fun c => { c with ingress := r }) 2 d e.val fullMask e.poison))) ∧
  (∀ (a : BitVec 6) (q : BitVec 3) (t : BitVec 4) (s : State) (x : VReg), vregOf (curCtx s) a.toNat = x →
    t = 0#4 ∨ t = 9#4 ∨ t = 13#4 ∨ t = 14#4 →
    exec (.vpushq a q t) s = .next (pushTo s q.toNat
      ⟨if t = 14#4 then BitVec.ofNat 64 (elemAt 64 x.val 0)
       else if t = 9#4 then (BitVec.ofNat 32 (elemAt 32 x.val 0)).signExtend 64 else BitVec.ofNat 64 (elemAt 32 x.val 0), x.poison⟩))

/-! ### Transfer records (R169, R195 to R207) -/

/-- Records leave their rings (R140, R169, R198). An engine takes a transfer record into its list and counts it: the record's wait is met, fewer
than eight records of the engine have not completed, and for the fetch engine no CBLOAD is before it, or the engine waits or freezes. The
array port forwards a record to its unit while it holds the unit's lease, and spends one command of the lease; without one it freezes. A unit
accepts every command that its holder forwards: that it bounds none is the model's choice (log 46). No byte moves yet. -/
def Obligations.RecordsTaken : Prop :=
  (
    ∀ (r : Record) (s : State),
      let c := curCtx s
      let goes : Prop := r.we = false ∨ (tokenMet (beforeGroup s) s.cur.g s.cur.e r.wtok.toNat r.thr = true ∧
        (threshold (tget {} c.t r.wtok.toNat).count r.thr).2 = false)
      let takes : Instr → Nat → Nat → Nat → Prop := fun i e major bank =>
        (goes → (xfersOf s c.cid e).length < 8 → (e = 2 → waitMet (beforeGroup s) s.cur.g 2 (.cbload bank) = true) →
          ∃ t x, exec i s = .next t ∧ t.xfers = s.xfers ++ [x] ∧ x.r = r ∧ x.eng = e ∧ x.major = major ∧ x.cid = c.cid ∧ x.g = s.cur.g ∧
            x.begun = false ∧ x.num = (if e = 2 then c.recF else c.recS) ∧ t.agenda = s.agenda ++ [.transferRecordBegins s.cur.g e] ∧
            (curCtx t).recF = (if e = 2 then (c.recF + 1) % 2 ^ 32 else c.recF) ∧
            (curCtx t).recS = (if e = 2 then c.recS else (c.recS + 1) % 2 ^ 32) ∧
            SameMemory s t ∧ t.raises = s.raises ∧ (curCtx t).eng = c.eng) ∧
        (goes → 8 ≤ (xfersOf s c.cid e).length → (e = 2 → waitMet (beforeGroup s) s.cur.g 2 (.cbload bank) = true) →
          exec i s = .next (freeze s)) ∧
        (r.we = true → tokenMet (beforeGroup s) s.cur.g s.cur.e r.wtok.toNat r.thr = false →
          exec i s = .next (waitOn s (.token r.wtok.toNat r.thr)))
      takes (.fcopy r) 2 0x40 2 ∧ takes (.fgath r) 2 0x41 2 ∧ takes (.fxfm r) 2 0x42 2 ∧
      takes (.cbload r) 2 0x43 (bits r.variant.toNat 3 1) ∧ takes (.fcrc r) 2 0x44 2 ∧
      takes (.scopy r) 3 0x40 2 ∧ takes (.sscat r) 3 0x41 2 ∧ takes (.sreds r) 3 0x42 2 ∧ takes (.smcast r) 3 0x43 2 ∧ takes (.scrc r) 3 0x44 2) ∧
  (
    ∀ (r : Record) (s : State),
      let k := curCore s
      let goes : Prop := r.we = false ∨ (tokenMet (beforeGroup s) s.cur.g s.cur.e r.wtok.toNat r.thr = true ∧
        (threshold (tget {} (curCtx s).t r.wtok.toNat).count r.thr).2 = false)
      let sends : Instr → Nat → Nat → Nat → Prop := fun i major unit path =>
        let l := leaseOf (coreOf s k) unit
        (goes → l.holder = some (s.cur.g % 4) → l.left ≠ 0 →
          ∃ t q, exec i s = .next t ∧ t = { s with cores := t.cores } ∧ cmdsOf (coreOf t k) path = cmdsOf (coreOf s k) path ++ [q] ∧
            q.major = major ∧ q.r = r ∧ q.cid = (curCtx s).cid ∧ q.g = s.cur.g ∧ q.path = path ∧ q.begun = false ∧
            (leaseOf (coreOf t k) unit).left = l.left - 1 ∧
            (leaseOf (coreOf t k) unit).holder = (if l.left = 1 then none else l.holder)) ∧
        (goes → l.holder ≠ some (s.cur.g % 4) ∨ l.left = 0 → exec i s = .next (freeze s)) ∧
        (r.we = true → tokenMet (beforeGroup s) s.cur.g s.cur.e r.wtok.toNat r.thr = false →
          exec i s = .next (waitOn s (.token r.wtok.toNat r.thr)))
      sends (.mldw r) 0x40 0 0 ∧ sends (.mstrm r) 0x41 0 1 ∧ sends (.mswap r) 0x42 0 2 ∧ sends (.mdrain r) 0x43 0 1 ∧
      sends (.mzero r) 0x44 0 1 ∧ sends (.mcvt r) 0x45 0 1 ∧ sends (.scand r) 0x48 1 3 ∧ sends (.scanm r) 0x49 1 3 ∧
      sends (.semit r) 0x4A 1 3 ∧ sends (.scmpct r) 0x4B 1 3)

/-- A record begins, moves its bytes and completes (R196, R197, R198, R233). It begins in ring order with its operands resolved and
checked, and moves no byte before the tenth clock; a piece of an FCOPY between scratch places writes the bytes read and no others; the
record completes when every byte has moved, never before an earlier one that halts, and raises ptok once with its status; one of zero
extent moves nothing and takes ten clocks too. That one of zero extent begins with its operands' classes and alignment unchecked is the
model's choice (log 104), and so is that bytes move in pieces (log 42) and which banks a record needs when (log 11).
What the pieces of transfer records read, write and leave (R197 to R206, R349). A piece comes from the row of the source that its place
in the stream names: for FGATH the row of its index, zero bytes for an index of all ones, and for a record that reads sq the entry popped;
one that an agent has read for the record is the piece. It goes to the row of the destination, for SSCAT that of its index, none for an
index of all ones: FCOPY, FGATH, SCOPY and SSCAT write the bytes, FXFM the bytes converted, SMCAST the bytes in each core of its set, SREDS
the operation of the element and its home, in each case no other byte; CBLOAD fills its bank; mf takes 2,048 bytes at a time, the last
entry padded with zero bytes; FCRC and SCRC run their CRC on, from the value at opB with CHAIN, and write it at the end. A stream cut in
two and chained has the CRC of the whole. Where source and destination overlap the whole source is read first. That bytes move in pieces
is the model's choice (log 42). No order log records, the homes are outside the step's output ranges, and SREDS runs without an order log. -/
def Obligations.TransferRecordsRun : Prop :=
  (
    (∀ (s : State) (g e : Nat) (x : Xfer), g < 384 → e = 2 ∨ e = 3 →
      (xfersOf s (ctxOf s g).cid e).find? (fun y => !y.begun && y.fault.isNone) = some x → haltedBehind s x = false →
      listBehind s x = false → (wholeNeeds s x).any (bankLost s) = false →
      let c := ctxOfCid s x.cid
      let named := x.isGather || x.isScatter || x.isMcast
      exec (.transferRecordBegins g e) s = .next (beginXfer s x) ∧
      (∀ p w, named = false → worst [errVal (resolveOperand c x.eng x.r.opA), errVal (resolveOperand c x.eng x.r.opB),
          errVal (recordShape c x.eng x.r)] = some (p, w) →
        (∀ a, resolveOperand c x.eng x.r.opA = .ok a → operandHandle c a = none) →
        (∀ b, resolveOperand c x.eng x.r.opB = .ok b → operandHandle c b = none) → beginXfer s x = xferTrap s x p w) ∧
      (∀ a b sh, named = false → resolveOperand c x.eng x.r.opA = .ok a → resolveOperand c x.eng x.r.opB = .ok b →
        recordShape c x.eng x.r = .ok sh → sh.rows * sh.len = 0 → operandHandle c a = none → operandHandle c b = none →
        ∃ y, y ∈ (beginXfer s x).xfers ∧ y.id = x.id ∧ y.begun = true ∧ y.total = 0 ∧ s.clock + 10 ≤ y.due ∧
          (beginXfer s x).raises = s.raises ∧ SameMemory s (beginXfer s x)) ∧
      (∀ a b pa pb n, x.major = 0x40 → x.eng = 2 → resolveOperand c 2 x.r.opA = .ok a → resolveOperand c 2 x.r.opB = .ok b →
        recordShape c 2 x.r = .ok ⟨1, n, 0, 0, false⟩ → Operand.ofWord a = .scratch pa → Operand.ofWord b = .scratch pb → 0 < n →
        pa % 64 = 0 → pb % 64 = 0 → pb / 0x80_0000 = coreNo x.g → scratchError s x.g pa n = none → scratchError s x.g pb n = none →
        ∃ y, y ∈ (beginXfer s x).xfers ∧ y.id = x.id ∧ y.begun = true ∧ y.opA = a ∧ y.opB = b ∧ y.rows = 1 ∧ y.len = n ∧ y.pos = x.pos ∧
          s.clock + 10 ≤ y.start ∧ y.start + (n + 255) / 256 ≤ y.due ∧ SameMemory s (beginXfer s x))) ∧
    (∀ (s : State) (x : Xfer) (a b : Nat), Memory.wf s.mem → (∀ l, (launchOf s l).olmode ≠ 1#2) → x.eng = 2 → x.major = 0x40 →
      Operand.ofWord x.opA = .scratch a → Operand.ofWord x.opB = .scratch b → x.buf = [] → x.inbox = [] →
      behind s x (pieceRuns s x x.piece) = false → queueBusy s x = false → farReached s x = true →
      (x.needs (pieceRuns s x x.piece)).any (bankLost s) = false →
      (∀ p, inRanges (stepRanges s (ctxOfCid s x.cid).step) p = false) →
      let n := x.piece
      let ra := a + (x.pos / x.len * x.strideA + x.pos % x.len)
      let rb := b + (x.pos / x.len * x.strideB + x.pos % x.len)
      scratchError s x.g ra n = none → scratchError s x.g rb n = none → badView s x.cid (.scratch ra) n = false →
      ∃ y t, movePiece s x = some (y, t) ∧ readHome t (.scratch rb) n = readView s x.cid (.scratch ra) n ∧
        SameMemoryBut (Loc.scratch rb).key n s t ∧ y.pos = x.pos + n ∧ y.status = x.status) ∧
    (∀ (s : State) (x : Xfer), s.xfers.find? (·.id == x.id) = some x →
      (x.begun = false ∨ haltedBehind s x = true ∨ x.pos < x.total ∨ s.clock < x.due →
        exec (.transferRecordCompletes x.id) s = .next s) ∧
      (x.begun = true → haltedBehind s x = false → x.total = 0 → x.due ≤ s.clock →
        exec (.transferRecordCompletes x.id) s = .next (finishXfer s x)) ∧
      (x.begun = true → haltedBehind s x = false → x.total ≠ 0 → x.total ≤ x.pos → x.due ≤ s.clock →
        (x.isCrc = false → x.fill = [] → lastWrite s x = some s) ∧
        (lastWrite s x = none → exec (.transferRecordCompletes x.id) s = .next s) ∧
        (∀ u, lastWrite s x = some u → ∃ t, exec (.transferRecordCompletes x.id) s = .next t ∧
          t.raises = u.raises ++ [⟨x.cid, x.r.ptok.toNat, 1, x.status, false⟩] ∧ t.xfers = u.xfers.filter (·.id != x.id) ∧ SameMemory u t)))) ∧
  (
    (∀ (s u : State) (x x1 x2 : Xfer) (s1 s2 : State) (bs : List Byte) (bad : Bool),
      let n := x.piece
      behind s x (pieceRuns s x n) = false → queueBusy s x = false → farReached s x = true → hostBehind s x (pieceRuns s x n) = false →
      (x.needs (pieceRuns s x n)).any (bankLost s) = false → pieceRegul s x n = some u →
      readPiece ((x.needs (pieceRuns s x n)).foldl takeBanks u) x n = (.data bs bad, x1, s1) → lostIndex x = false →
      writePiece s1 x1 n bs bad = (.done, x2, s2) → ∃ y, movePiece s x = some (y, s2) ∧ y.pos = x.pos + n ∧ y.done = x2.done ∧
        y.crc = x2.crc ∧ y.fill = x2.fill ∧ y.status = if bad then x2.status ||| stDerr else x2.status) ∧
    (∀ (x : Xfer) (i : Nat), (x.isGather = false → x.srcRow i = some (i * x.strideA)) ∧ (x.isScatter = false → x.dstRow i = some (i * x.strideB)) ∧
      (∀ k, nth none x.idx i = some k →
        (x.isGather = true → x.srcRow i = if k = 2 ^ (8 * x.w) - 1 then none else some (k * x.strideA)) ∧
        (x.isScatter = true → x.dstRow i = if k = 2 ^ (8 * x.w) - 1 then none else some (k * x.strideB)))) ∧
    (∀ (s : State) (x : Xfer) (n : Nat), x.buf = [] →
      (∀ f, x.inbox.find? (·.pos == x.pos) = some f → f.refused = false → readPiece s x n = (.data f.bytes f.bad, x, s)) ∧
      (x.inbox = [] →
        (∀ a o, Operand.ofWord x.opA = .scratch a → x.srcRow (x.pos / x.len) = some o →
          scratchError s x.g (a + o + x.pos % x.len) n = none → badView s x.cid (.scratch (a + o + x.pos % x.len)) n = false →
          readPiece s x n = (.data (readView s x.cid (.scratch (a + o + x.pos % x.len)) n) false, x, s)) ∧
        (∀ a, Operand.ofWord x.opA = .scratch a → x.srcRow (x.pos / x.len) = none → readPiece s x n = (.data (List.replicate n 0#8) false, x, s)) ∧
        (∀ e r, fromSq x = true → x.pos % 2048 = 0 → (ctxOfCid s x.cid).sq = e :: r → (findCtx s x.cid).isSome = true →
          ∃ y t, readPiece s x n = (.data ((vecBytes e.val).take n) e.poison.isSome, y, t) ∧ y.ent = some e ∧ (ctxOfCid t x.cid).sq = r ∧
            SameMemory s t))) ∧
    (∀ (s : State) (x : Xfer) (n b : Nat) (bs : List Byte), Memory.wf s.mem → (∀ l, (launchOf s l).olmode ≠ 1#2) →
      Operand.ofWord x.opB = .scratch b → (∀ p, inRanges (stepRanges s (ctxOfCid s x.cid).step) p = false) →
      let row := x.dstRow (x.pos / x.len)
      let wrote : List Byte → Nat → Prop := fun out d => (row = none → ∃ y, writePiece s x n bs false = (.done, y, s) ∧ y.done = x.done + x.outBytes s n) ∧
        ∀ o, row = some o → let a := b + o + d
          scratchError s x.g a out.length = none → ∃ y t, writePiece s x n bs false = (.done, y, t) ∧
            readHome t (.scratch a) out.length = out ∧ SameMemoryBut (Loc.scratch a).key out.length s t ∧ y.done = x.done + x.outBytes s n
      let el : Nat → List Byte → Nat → Nat := fun w bs i => leNat ((bs.drop (w * i)).take w)
      let t := x.r.typ.toNat
      (x.major = 0x40 ∨ x.major = 0x41 → wrote bs (x.pos % x.len)) ∧
      (x.isFxfm = true → wrote (transform s x bs) (x.outBytes s (x.pos % x.len)) ∧
        (x.xf = 1 → (transform s x bs).length = bs.length / x.w * 4 ∧
          ∀ i, i < bs.length / x.w → el 4 (transform s x bs) i = convert t 0 0 false (el x.w bs i) % 2 ^ 32) ∧
        (x.xf = 2 → (transform s x bs).length = bs.length / 4 * x.w ∧
          ∀ i, i < bs.length / 4 → el x.w (transform s x bs) i = convert 0 t 0 true (el 4 bs i) % 2 ^ (8 * x.w)) ∧
        (x.xf = 0 → let cb := tget {} (ctxOfCid s x.cid).cb x.bank
          let w := typeBytes cb.typ.toNat
          (transform s x bs).length = bs.length * (2 * w) ∧ ∀ i v, bs[i]? = some v →
            el w (transform s x bs) (2 * i) = (nth 0#16 cb.entries (v.toNat % 16)).toNat % 2 ^ (8 * w) ∧
            el w (transform s x bs) (2 * i + 1) = (nth 0#16 cb.entries (v.toNat / 16)).toNat % 2 ^ (8 * w))) ∧
      (x.isMcast = true → ∀ o, row = some o →
        let at_ : Nat → Nat := fun c => c * 0x80_0000 + b % 0x80_0000 + o + x.pos % x.len
        (∀ c, c ∈ x.mcastCores → scratchError s x.g (at_ c) bs.length = none) →
        ∃ y t, writePiece s x n bs false = (.done, y, t) ∧ (∀ c, c ∈ x.mcastCores → readHome t (.scratch (at_ c)) bs.length = bs) ∧
          ∀ p, (∀ c, c ∈ x.mcastCores → p < at_ c ∨ at_ c + bs.length ≤ p) → byteAt t p = byteAt s p) ∧
      (x.isReduce = true → bs.length = x.w → (∀ l, (launchOf s l).olmode = 0#2) → ∀ o, row = some o →
        let l : Loc := .scratch (b + o + x.pos % x.len)
        scratchError s x.g (b + o + x.pos % x.len) x.w = none → redsAhead s (coreNo x.g) l x.w = false → poisoned s l x.w = false →
        ∃ y t, writePiece s x n bs false = (.done, y, t) ∧
          readHome t l x.w = leBytes x.w (amoNew x.r.variant.toNat x.w (leNat (readHome s l x.w)) (leNat bs) 0) ∧ SameMemoryBut l.key x.w s t)) ∧
    (∀ (s : State) (x : Xfer) (n : Nat) (bs : List Byte) (bad : Bool),
      (x.isCrc = true → writePiece s x n bs bad = (.done, { x with crc := crcRun x.crc bs }, s)) ∧
      (x.isCbload = true → (findCtx s x.cid).isSome = true → ∃ y t cb, writePiece s x n bs false = (.done, y, t) ∧
        tget {} (ctxOfCid t x.cid).cb x.bank = cb ∧ cb.typ = x.r.typ ∧ cb.entries.length = 16 ∧ SameMemory s t ∧
        ∀ i, i < 16 → nth 0#16 cb.entries i = BitVec.ofNat 16 (leNat ((bs.drop (x.w * i)).take x.w))) ∧
      (toMf x = true → x.isFxfm = false → x.isCrc = false → x.isCbload = false → x.fill.length + bs.length < 2048 →
        ∃ y, writePiece s x n bs bad = (.done, y, s) ∧ y.fill = x.fill ++ bs) ∧
      (toMf x = true → x.isFxfm = false → x.isCrc = false → x.isCbload = false → 2048 ≤ x.fill.length + bs.length → stepGone s x.cid = false →
        (ctxOfCid s x.cid).mf.length < bigCap (ctxOfCid s x.cid) 7 → (findCtx s x.cid).isSome = true →
        ∃ y t e, writePiece s x n bs bad = (.done, y, t) ∧ (ctxOfCid t x.cid).mf = (ctxOfCid s x.cid).mf ++ [e] ∧
          vecBytes e.val = (x.fill ++ bs).take 2048 ∧ y.fill = (x.fill ++ bs).drop 2048 ∧ e.poison = (if x.fillBad || bad then some .memerr else none) ∧
          SameMemory s t)) ∧
    (∀ (s : State) (x : Xfer), (x.isCrc = false → x.fill ≠ [] → stepGone s x.cid = false → (findCtx s x.cid).isSome = true →
        (ctxOfCid s x.cid).mf.length < bigCap (ctxOfCid s x.cid) 7 → ∃ t e, lastWrite s x = some t ∧
        (ctxOfCid t x.cid).mf = (ctxOfCid s x.cid).mf ++ [e] ∧ e.val.toNat = leNat x.fill % 2 ^ 16384 ∧ SameMemory s t) ∧
      (∀ b, x.isCrc = true → x.begun = true → x.total ≤ x.pos → Operand.ofWord x.opB = .scratch b → behind s x [(.scratch b, 8)] = false →
        (wholeNeeds s x).any (bankLost s) = false → x.fillBad = false → Memory.wf s.mem → (∀ l, (launchOf s l).olmode ≠ 1#2) →
        (∀ p, inRanges (stepRanges s (ctxOfCid s x.cid).step) p = false) →
        ∃ t, lastWrite s x = some t ∧ readHome t (.scratch b) 8 = leBytes 8 (x.crc ^^^ BitVec.allOnes 64).toNat ∧
          SameMemoryBut (Loc.scratch b).key 8 s t) ∧
      (x.ready = false → (wholeNeeds s x).any (bankLost s) = false → behind s x [(operandLoc s (coreNo x.g) x.opB 0, 8)] = false →
        behind s x (srcRuns s x) = false → (readOperand s (coreNo x.g) x.cid x.opB 0 8).2 = false →
        ∃ y, prepared s x = some y ∧ y.ready = true ∧ y.pos = x.pos ∧
          (x.isCrc = true → x.r.variant.getLsbD 3 = true →
            y.crc = BitVec.allOnes 64 ^^^ BitVec.ofNat 64 (leNat (readOperand s (coreNo x.g) x.cid x.opB 0 8).1)) ∧
          (crosses s x = false → y.buf = x.buf) ∧ (x.isCrc = false → crosses s x = true → y.buf = readWhole s x x.total))) ∧
    (∀ (a b : List Byte), crcRun (BitVec.allOnes 64 ^^^ crc64 a) b ^^^ BitVec.allOnes 64 = crc64 (a ++ b)))

/-! ### Matrix and scan commands (R169 to R193) -/

/-- Commands begin and complete (R53, R170, R171, R175, R176, R183, R187): the next command of a path resolves its operands; it completes
no earlier than its duration and raises ptok once with its status. MSWAP exchanges the planes and MZERO zeroes its tile. That a command of
zero extent begins without the checks of R175 is the model's choice (log 104), and so is when a residue check fails, which lies in the
state (log 7).
What commands compute (R171, R178, R179, R182, R184 to R186, R189 to R193), element by element. With no failed check, a command that has
its sources forms the writes and the entries of its results, and writing them performs those writes. `src a off n` are bytes of an operand
in the step's view. MLDW copies K rows of N weights, and with SC the scales of each group, and sets the shadow descriptor. MSTRM adds the
products of row m and column n, group by group with their scales, to the accumulator element or with OVR to 0. MDRAIN and MCVT convert each
element; a drain that sends gives rows of 128 columns, zero from N on; MCVT with BQ writes the block's quantised elements and its scale. A
scan runs each lane through the tree of R189 and leaves h of the last token, with EMIT the readouts; SEMIT reads out a state; SCMPCT
normalises pairs or packs them. No other byte is written. A tile in memory has rows of 128 columns (log 118), the scales that follow it
stand where log 47 has them, and which results a failed check may strike is log 102, how long it keeps them back log 103 (the model's choices). -/
def Obligations.CommandsRun : Prop :=
  (
    (∀ (s : State) (k path : Nat) (c : Cmd), k < 96 → path < 4 → nextCmd (cmdsOf (coreOf s k) path) path = some c →
      let x := ctxOfCid s c.cid
      (∀ p v, worst [errVal (resolveOperand x 4 c.r.opA), errVal (resolveOperand x 4 c.r.opB)] = some (p, v) →
        exec (.commandBegins k path) s =
          .next (faultStep (putCmd (draw s).2 k path c none) c.cid 4 p (recordTpc (draw s).2 c.cid) v)) ∧
      (∀ a b, resolveOperand x 4 c.r.opA = .ok a → resolveOperand x 4 c.r.opB = .ok b →
        let c' : Cmd := { c with begun := true, opA := a, opB := b, floor := x.fadefl, due := s.clock + c.shape.2.2 + (draw s).1 }
        c.zero = true ∨ (cmdFaults (draw s).2 k c').1 = [] →
        ∃ t, exec (.commandBegins k path) s = .next t ∧ cmdsOf (coreOf t k) path = replaceFirst c (some c') (cmdsOf (coreOf s k) path) ∧
          SameMemory s t)) ∧
    (∀ (s : State) (k path : Nat), k < 96 → path < 4 → nextCmd (cmdsOf (coreOf s k) path) path = none →
      exec (.commandBegins k path) s = .next s) ∧
    (∀ (s : State) (k path : Nat) (c : Cmd), k < 96 → path < 4 → runningCmd (cmdsOf (coreOf s k) path) path = some c →
      (s.clock < c.due → c.fromMf = false → exec (.commandCompletes k path) s = .next s) ∧
      (c.due ≤ s.clock → c.zero = true → exec (.commandCompletes k path) s = .next (completeCmd (planeCmd s k c) k path c)) ∧
      (c.due ≤ s.clock → c.zero = false → c.computed = false → c.formed = false → ∀ c1 s1 c2 s2, gather s k path c = (c1, s1) →
        c1.stuck = false → bankLost s1 (cmdNeed s1 k path c1) = false →
        formResults (takeBanks s1 (cmdNeed s1 k path c1)) k path c1 = (c2, s2) →
        (s2.clock < c2.due → exec (.commandCompletes k path) s = .next s2) ∧
        (c2.due ≤ s2.clock → ∀ c3 s3 s4, writeResults s2 k path c2 = (c3, s3) →
          sendAll s3 c3.g c3.cid c3.toMf c3.toSq c3.toRx c3.sends = ([], s4) →
          exec (.commandCompletes k path) s = .next (completeCmd s4 k path c3))) ∧
      (c.due ≤ s.clock → (residueCheck s).1 = 0 → c.major = 0x42 → c.computed = false → c.formed = false → c.stuck = false →
        ∃ t, exec (.commandCompletes k path) s = .next t ∧ (coreOf t k).planeSel = 1 - (coreOf s k).planeSel ∧
          (coreOf t k).actDesc = (coreOf s k).shdDesc ∧ (coreOf t k).shdDesc = (coreOf s k).actDesc ∧ SameMemory s t ∧
          t.raises = s.raises ++ [⟨c.cid, c.r.ptok.toNat, 1, 0#32, false⟩]) ∧
      (∀ o, c.due ≤ s.clock → (residueCheck s).1 = 0 → c.major = 0x44 → c.computed = false → c.formed = false → c.stuck = false →
        bankLost s (cmdNeed s k path c) = false → Operand.ofWord c.opB = .core 0 o → (coreOf s k).regions = [] → Memory.wf s.mem →
        ∃ t, exec (.commandCompletes k path) s = .next t ∧ readHome t (.state k o) 65536 = List.replicate 65536 0#8 ∧
          SameMemoryBut (Loc.state k o).key 65536 s t ∧ t.raises = s.raises ++ [⟨c.cid, c.r.ptok.toNat, 1, 0#32, false⟩])) ∧
    (∀ (s : State) (k path : Nat) (c : Cmd), (completeCmd s k path c).raises = s.raises ++ [⟨c.cid, c.r.ptok.toNat, 1, c.status, false⟩] ∧
      SameMemory s (completeCmd s k path c))) ∧
  (
    (∀ (s : State) (k path : Nat) (c : Cmd), s.residue = [] →
      let r := computeCmd s k c false
      let q := (formResults s k path c).1
      q.writes = r.1 ∧ q.sends = r.2.1 ∧ q.faded = r.2.2.1 ∧ q.due = c.due ∧ q.formed = true ∧ q.retrying = false ∧
      q.status = (if r.2.2.2 then stDerr else 0#32) ||| (if r.2.2.1 = 0 then 0#32 else stFade)) ∧
    (∀ (s : State) (k path : Nat) (c : Cmd), SameMemory (performWrites s k c.cid c.writes) (writeResults s k path c).2 ∧
      (c.major = 0x40 → (coreOf (writeResults s k path c).2 k).shdDesc = ⟨c.r.typ, c.hi, c.lo, c.v3⟩)) ∧
    (∀ (s : State) (k : Nat) (c : Cmd),
      let ws := (computeCmd s k c false).1
      let t := c.r.typ.toNat
      let w := c.w
      let src : BitVec 32 → Nat → Nat → List Byte := fun a off n => (readOperand s k c.cid a off n).1
      let el : Nat → List Byte → Nat → Nat := fun w bs n => leNat ((bs.drop (w * n)).take w)
      let shape : List (BitVec 32 × Nat × Nat) → Prop := fun l => ws.map (fun x => (x.w, x.off, x.bytes.length)) = l
      let puts : BitVec 32 → Nat → List Byte → Prop := fun a off bs => ∃ x ∈ ws, x.w = a ∧ x.off ≤ off ∧
        off + bs.length ≤ x.off + x.bytes.length ∧ (x.bytes.drop (off - x.off)).take bs.length = bs
      let acc : Nat → Nat → Nat := fun m n => el 4 (src c.opA (512 * m) (4 * c.lo)) n
      (c.major = 0x40 → c.v2 = false → c.fromMf = false →
        ws.map (fun x => (x.w, x.off, x.bytes)) =
          ((List.range c.hi).map fun i => (c.opB, 128 * w * i, src c.opA (128 * w * i) (w * c.lo))) ++
          (List.range (if c.v3 then (c.hi + 31) / 32 else 0)).map fun g =>
            (c.opB, 16384 * w + 128 * g, src c.opA (128 * w * c.hi + 128 * g) c.lo)) ∧
      (c.major = 0x40 → c.v2 = true → ws = []) ∧
      (c.major = 0x41 → c.fromMf = false →
        let p := (coreOf s k).actDesc
        let wt := p.typ.toNat
        let ww := typeBytes wt
        let kt := min c.lo p.k
        let plane : Nat → Nat → List Byte := fun off n => readHome s (.plane k (coreOf s k).planeSel off) n
        let a : Nat → Nat → Nat := fun m i => el w (src c.opA (128 * w * m) (kt * w)) i
        let b : Nat → Nat → Nat := fun i n => el ww (plane (128 * ww * i) (p.n * ww)) n
        let old : Nat → Nat → Nat := fun m n => if c.v2 then 0 else el 4 (src c.opB (512 * m) (4 * p.n)) n
        let one : FV := .fin false 1 0
        let scale : Nat → Nat → Nat → FV := fun m n g =>
          (if c.v3 then scaleVal (el 1 (src c.opA (128 * w * c.hi + 4 * m) ((kt + 31) / 32)) g) else one).mul
            (if p.sc then scaleVal (el 1 (plane (16384 * ww + 128 * g) p.n) n) else one)
        shape (if p.n = 0 then [] else (List.range c.hi).map fun m => (c.opB, 512 * m, 4 * p.n)) ∧
        ∀ m n, m < c.hi → n < p.n → puts c.opB (512 * m + 4 * n) (leBytes 4 (
          if t = 7 then dotInt (old m n) ((List.range kt).map fun i => intVal 7 (a m i)) ((List.range kt).map fun i => intVal 7 (b i n))
          else dotFloat (old m n) ((List.range kt).map fun i => decodeF (fmtOf t) (a m i)) ((List.range kt).map fun i => decodeF (fmtOf wt) (b i n))
            ((List.range ((kt + 31) / 32)).map (scale m n))))) ∧
      (c.major = 0x43 → c.path ≠ 3 →
        let out : Nat → Nat → List Byte := fun m n => leBytes w (convert (if isFloat t then 0 else 9) t 0 true (acc m n))
        (c.r.variant.getLsbD 0 = true → ws = []) ∧
        (c.r.variant.getLsbD 0 = false → (shape ((List.range c.hi).map fun m => (c.opB, 128 * w * m, w * c.lo)) ∧
          ∀ m n, m < c.hi → n < c.lo → puts c.opB (128 * w * m + w * n) (out m n))) ∧
        let es := (computeCmd s k c false).2.1
        (c.r.variant.toNat / 2 = 0 → es = []) ∧
        (c.r.variant.toNat / 2 ≠ 0 → es.length = (128 * w * c.hi + 2047) / 2048 ∧ ∀ m n, m < c.hi → n < 128 →
          ((entryBytes es).drop (128 * w * m + w * n)).take w = if n < c.lo then out m n else List.replicate w 0#8)) ∧
      (c.major = 0x45 → c.path ≠ 3 → c.v3 = false → shape ((List.range c.hi).map fun m => (c.opB, 128 * w * m, w * c.lo)) ∧
        ∀ m n, m < c.hi → n < c.lo → puts c.opB (128 * w * m + w * n)
          (leBytes w (convert (if c.v2 then 9 else if isFloat t then 0 else 9) t 0 true (acc m n)))) ∧
      (c.major = 0x45 → c.path ≠ 3 → c.v3 = true →
        let block : Nat → Nat → Nat × List Nat := fun m b => quantBlock t 0 ((List.range 32).map fun j =>
          if 32 * b + j < c.lo then acc m (32 * b + j) else 0)
        shape (((List.range c.hi).map fun m => (c.opB, 128 * m, c.lo)) ++ [(c.opB, 128 * c.hi, 4 * c.hi)]) ∧
        ∀ m b, m < c.hi → b < 4 → puts c.opB (128 * c.hi + 4 * m + b) (leBytes 1 (block m b).1) ∧
          ∀ j, j < 32 → 32 * b + j < c.lo → puts c.opB (128 * m + 32 * b + j) (leBytes 1 (nth 0 (block m b).2 j))) ∧
      (let G := c.lo
       let T := c.hi
       let fl : Nat := c.floor.toNat
       let sOf : List Byte → Nat → Nat × Nat := fun bs i => (el 4 bs (2 * i), el 4 bs (2 * i + 1))
       let sum : Nat × Nat → FV := fun h => FV.add 0 (decodeF f32 h.1) (decodeF f32 h.2)
       let pair : Nat × Nat → List Byte := fun h => leBytes 4 h.1 ++ leBytes 4 h.2
       let tree : (Nat → Nat × (Nat × Nat)) → Nat → Nat × (Nat × Nat) := fun op => [1, 2, 4, 8, 16, 32].foldl (fun op d => if d < T then
         (fun t => if d ≤ t then (f32Mul (op t).1 (op (t - d)).1, (pairAxpy fl (op t).1 (op (t - d)).2 (op t).2).1) else op t) else op) op
       let held : (Nat → Nat × (Nat × Nat)) → Nat × Nat → Nat → Nat × Nat := fun op h t => (pairAxpy fl (tree op t).1 h (tree op t).2).1
       let read : (Nat → Nat) → (Nat → Nat × Nat) → FV := fun q h =>
         sumExact 0 false ((List.range c.dk).map fun i => (decodeF f32 (q i)).mul (sum (h i)))
       (c.major = 0x48 → c.fromMf = false → 0 < T →
         let bs := src c.opA 0 (T * G * 2048)
         let h : Nat → Nat → Nat × Nat := fun i => held (fun t => let r := (t * G + i / 256) * 512 + i % 256; (el 4 bs r, (el 4 bs (r + 256), 0)))
           (sOf (src c.opB 0 (G * 2048)) i)
         shape ((c.opB, 0, 2048 * G) :: if c.v3 then
           (List.range T).flatMap fun t => (List.range G).map fun g => (c.opA, (t * G + g) * 2048 + 1024, 1024) else []) ∧
         ∀ i, i < 256 * G → puts c.opB (8 * i) (pair (h i (T - 1))) ∧
           (c.v3 = true → ∀ t, t < T → puts c.opA ((t * G + i / 256) * 2048 + 1024 + 4 * (i % 256)) (leBytes 4 (f32Add (h i t).1 (h i t).2)))) ∧
       (c.major = 0x49 → c.fromMf = false → 0 < T → c.dk ≤ 128 →
         let bs := src c.opA 0 (T * 2048)
         let h : Nat → Nat → Nat → Nat × Nat := fun i j => held
           (fun t => (el 4 bs (512 * t + 384), twoprod (el 4 bs (512 * t + i)) (el 4 bs (512 * t + 128 + j))))
           (sOf (src c.opB 0 (G * 2048)) (i * c.dv + j))
         shape ((c.opB, 0, 2048 * G) :: if c.v3 then (List.range T).map fun t => (c.opA, 2048 * t + 512, 4 * c.dv) else []) ∧
         ∀ j, j < c.dv → (∀ i, i < c.dk → puts c.opB (8 * (i * c.dv + j)) (pair (h i j (T - 1)))) ∧
           (c.v3 = true → ∀ t, t < T → puts c.opA (2048 * t + 512 + 4 * j) (leBytes 4 (rne32 (
             read (fun i => el 4 bs (512 * t + 256 + i)) (fun i => h i j t)))))) ∧
       (c.major = 0x4A →
         let h : Nat → Nat × Nat := sOf (src c.opA 0 (G * 2048))
         (c.v3 = false → shape ((List.range T).map fun t => (c.opB, G * 1024 * t, 1024 * G)) ∧
           ∀ t i, t < T → i < 256 * G → puts c.opB (G * 1024 * t + 4 * i)
             (leBytes 4 (rne32 ((decodeF f32 (el 4 (src c.opB (G * 1024 * t) (G * 1024)) i)).mul (sum (h i)))))) ∧
         (c.v3 = true → c.dk ≤ 128 → shape ((List.range T).map fun t => (c.opB, 512 * t, 512)) ∧
           ∀ t j, t < T → (j < c.dv → puts c.opB (512 * t + 4 * j) (leBytes 4 (rne32 (
             read (el 4 (src c.opB (512 * t) 512)) (fun i => h (i * c.dv + j)))))) ∧
             (4 * c.dv ≤ j → j < 512 → puts c.opB (512 * t + j) [0#8]))) ∧
       (c.major = 0x4B → c.v3 = true → shape [(c.opB, 0, T * G * 1024)] ∧
         let h : Nat → Nat × Nat := sOf (src c.opA 0 (8 * (T * G * 256)))
         ∀ i, i < T * G * 256 → puts c.opB (4 * i) (leBytes 4 (f32Add (h i).1 (h i).2))) ∧
       (c.major = 0x4B → c.v3 = false → shape [(c.opB, 0, T * G * 2048)] ∧
         let h : Nat → Nat × Nat := sOf (src c.opB 0 (8 * (T * G * 256)))
         ∀ i, i < T * G * 256 → puts c.opB (8 * i) (pair (
           let x := twosum (h i).1 (h i).2
           if f32IsNan x.1 then (0x7FC0_0000, 0) else (fade fl x.1 x.2).1))))
      ))

/-! ### Walkers, waits and links -/

/-- The walkers (R257, R262, R263, R264): the choice of a free sub-core and of a victim, and what a placement leaves: a step of the
launch's next item on the sub-core, or in its shadow bank, ready for the swap, when a victim gives way, a gang in one act, or a
reservation. -/
def Obligations.WalkerPlacements : Prop :=
  (∀ (x g : Nat) (gs : List Nat), gs.Pairwise (· < ·) → pickFree (some x) gs = some g →
    g ∈ gs ∧ (x < g → ∀ y ∈ gs, x < y → g ≤ y) ∧ (g ≤ x → ∀ y ∈ gs, y ≤ x ∧ g ≤ y)) ∧
  (∀ (s : State) (gs : List Nat) (g : Nat), pickVictim s gs = some g →
    g ∈ gs ∧ ∀ y ∈ gs, threshOf s y < threshOf s g ∨ (threshOf s y = threshOf s g ∧ g ≤ y)) ∧
  (∀ (s : State) (die : Nat) (e : Elig) (d : Die), die < 2 → mayPlace (lapse s die) die = true → choose (lapse s die) die = some (e, d) →
    let ours : Ctx → Nat → Prop := fun c n => ∃ st, c.step = some st ∧ st.lid = e.l.lid ∧ st.item = n ∧ st.ended = false ∧
      (engOf c 0).stopped = false ∧ c.trapped = false
    (∀ n g, e.pick = .one n g false →
      ∃ t, exec (.placement die) s = .next t ∧ ours (ctxOf t g) (nextItem e.l).1 ∧ (dieOf t die).placedAt = some s.clock ∧
        (dieOf t die).reserved = [] ∧ (dieOf t die).resFor = none ∧ tget 0 (dieOf t die).lastSub e.fen = g + 1 ∧
        (∀ h, h ≠ g → subOf t h = subOf s h) ∧ SameMemory s t) ∧
    (∀ n g, e.pick = .one n g true →
      ∃ t, exec (.preemption die) s = .next t ∧ ours (subOf t g).shd (nextItem e.l).1 ∧ ctxOf t g = ctxOf s g ∧
        preemptReady (subOf t g) = true ∧ (dieOf t die).placedAt = some s.clock ∧
        (∀ h, h ≠ g → subOf t h = subOf s h) ∧ SameMemory s t) ∧
    (∀ spots, e.pick = .gang spots → (spots.map fun x => x.2.1).Nodup →
      ∃ t, exec (.gangPlacement die) s = .next t ∧
        (∀ n g pre, (n, g, pre) ∈ spots → ours (if pre then (subOf t g).shd else ctxOf t g) n) ∧
        (∀ h, (∀ x ∈ spots, x.2.1 ≠ h) → subOf t h = subOf s h) ∧ (dieOf t die).placedAt = some s.clock ∧ SameMemory s t) ∧
    (∀ gs, e.pick = .reserve gs →
      ∃ t, exec (.gangPlacement die) s = .next t ∧ (dieOf t die).reserved = gs ∧ (dieOf t die).resFor = some e.l.lid ∧
        t = { s with dies := t.dies })) ∧
  (∀ (s : State) (die : Nat), die < 2 → choose (lapse s die) die = none →
    exec (.placement die) s = .next (lapse s die) ∧ exec (.preemption die) s = .next (lapse s die) ∧
    exec (.gangPlacement die) s = .next (lapse s die))

/-- A step takes the next event that is due, and an event is an instruction of the model; with none due the next engine has its turn; with
no turn left the clock advances by one. That the events due in a clock come first, in the order in which the state lists them, and then the
engines in the order of their sub-core and engine numbers, is the model's choice (log 80; R301 leaves it open).
A wait ends when its condition has become true (R237): the engine takes its turn in this clock, and nothing else differs. While the
condition is false nothing happens, and a parked engine's wait never ends so. -/
def Obligations.StepOrder : Prop :=
  (
    (∀ (s : State) (v : Event) (r : List Event), s.agenda = v :: r → step s = runEvent v { s with agenda := r }) ∧
    (∀ v : Event, ∃ i : Instr, i.home = .event ∧ ∀ s, runEvent v s = exec i s) ∧
    (∀ (s : State) (g e : Nat) (r : List (Nat × Nat)), s.agenda = [] → s.turn = (g, e) :: r →
      step s = .next (engineTurn { s with turn := r } g e)) ∧
    (∀ s : State, s.agenda = [] → s.turn = [] → ∃ t, step s = .next t ∧ t.clock = (endClock s).clock + 1 ∧
      ∀ p, p ∈ t.turn → (victimStep (subOf t p.1)).isSome = true)) ∧
  (
    ∀ (s : State) (g e : Nat) (w : Wait), (engOf (ctxOf s g) e).wait = some w →
      (waitMet s g e w = true → ∃ t, exec (.waitEnds g e) s = .next t ∧ t = { s with subs := t.subs, turn := t.turn } ∧
        t.turn = (g, e) :: s.turn.filter (· != (g, e)) ∧ (engOf (ctxOf t g) e).wait = none ∧
        (∀ h, h ≠ g → subOf t h = subOf s h) ∧ ∀ i, i ≠ e → engOf (ctxOf t g) i = engOf (ctxOf s g) i) ∧
      (waitMet s g e w = false → exec (.waitEnds g e) s = .next s) ∧
      waitMet s g e .parked = false)

/-- Links (R358 to R361, R393, R401): an entry of a ring channel reaches the ingress queue of its launch's bank, when it has travelled and
there is room; a failed flit is sent again, and the sixteenth failure in a row posts LINKERR; a peer link trains and goes down, and posts
PEERSTATE. That a clock without a retry ends the row of failed checks is the model's choice (log 8), and so is which arrivals a half-open
ring still delivers (log 117). -/
def Obligations.Links : Prop :=
  (∀ (s : State) (core ch b : Nat) (m : RingMsg), core < 96 → ch < 4 →
    s.ring.find? (fun m => m.core == core && m.ch == ch && !m.peer) = some m → m.due ≤ s.clock →
    (core = 95 → boundElsewhere s core m.fen = false ∧ ∀ n ∈ s.ring, n.core = 95 → n.peer = false) →
    let g := 4 * ((core + 1) % 96) + ch
    bankOfLaunch s g m.lid = some b →
    ((ctxAt s g b).ingress.length < bigCap (ctxAt s g b) 9 → ∃ t, exec (.ringEntryDelivered core ch) s = .next t ∧
      t.ring = s.ring.erase m ∧ t = { s with ring := t.ring, subs := t.subs } ∧
      ctxAt t g b = { ctxAt s g b with ingress := (ctxAt s g b).ingress ++ [m.e] } ∧ ∀ h, h ≠ g → subOf t h = subOf s h) ∧
    (bigCap (ctxAt s g b) 9 ≤ (ctxAt s g b).ingress.length → exec (.ringEntryDelivered core ch) s = .next s)) ∧
  (∀ (s : State) (ch : Nat) (m : RingMsg), ch < 4 → s.ring.find? (fun m => m.core == 95 && m.ch == ch && m.peer) = some m →
    (m.due ≤ s.clock → s.peers.nxtUp = true → leavePackage s ch = { s with ring := s.ring.erase m }) ∧
    (s.peers.nxtUp = false → leavePackage s ch = s)) ∧
  (∀ (s : State) (core port : Nat), core < 96 → port < 6 →
    let i := core * 8 + port
    let n := if s.clock ≤ (tget (0, 0) s.svc.attempts i).2 + 1 then (tget (0, 0) s.svc.attempts i).1 + 1 else 1
    ∃ t, exec (.flitRetry core port) s = .next t ∧ t = { s with svc := t.svc } ∧ t.svc.flits = s.svc.flits + 1 ∧
      tget (0, 0) t.svc.attempts i = (n, s.clock) ∧ t.svc.linkerrs = s.svc.linkerrs + (if n = 16 then 1 else 0) ∧
      (n = 16 → s.svc.evtail - s.svc.evhead ≠ 240#32 → t.svc.evtail = s.svc.evtail + 1#32 ∧
        ∃ v, (s.svc.evtail.toNat % 240, v) ∈ t.svc.evlog ∧ v.code = 1 ∧ v.core = core ∧ v.arg = port) ∧
      (n ≠ 16 → t.svc.evtail = s.svc.evtail)) ∧
  (∀ s : State, s.svc.evtail - s.svc.evhead ≠ 240#32 →
    (s.peers.nxtEn = true → s.peers.nxtReady = true → s.peers.nxtUp = false → ∃ t, exec (.peerLinkUp 0) s = .next t ∧
      t.peers = { s.peers with nxtUp := true } ∧ t.svc.evtail = s.svc.evtail + 1#32 ∧ t = { s with peers := t.peers, svc := t.svc }) ∧
    (s.peers.prvEn = true → s.peers.prvReady = true → s.peers.prvUp = false → ∃ t, exec (.peerLinkUp 1) s = .next t ∧
      t.peers = { s.peers with prvUp := true } ∧ t.svc.evtail = s.svc.evtail + 1#32 ∧ t = { s with peers := t.peers, svc := t.svc }) ∧
    (s.peers.nxtUp = true → ∃ t, exec (.peerLinkDown 0) s = .next t ∧ t.peers = { s.peers with nxtUp := false } ∧ t.ring = s.ring ∧
      t.svc.evtail = s.svc.evtail + 1#32) ∧
    (s.peers.prvUp = true → ∃ t, exec (.peerLinkDown 1) s = .next t ∧ t.peers = { s.peers with prvUp := false } ∧ t.ring = s.ring ∧
      t.svc.evtail = s.svc.evtail + 1#32))

/-! ### What the host reaches (R278, R385 to R390) -/

/-- Host writes to registers of the session ring block and the queue blocks (R278, R385, R386, R390): a value is stored with its alignment
bits clear; the frame area's registers change only while the area is not in use; a ring register of a queue changes only while the queue
is idle, and else sets KERR; a VF without a fen, or an unassigned queue, is not reached. PF0's mailbox takes request bytes, and its doorbell
hands the request to firmware, one at a time (R391). That bases are stored with their alignment bits clear, and QPOLL and CHEAD stored when
the size beside them is refused, is the model's choice (log 62); that a doorbell before READY or while it reads 1 is ignored is log 111.
Kicks, stamps and heads (R386 to R390, R393): a kick more than QSIZE beyond QHEAD sets KERR; an accepted one takes the entries whose
stamps match, and a stamp that does not match is read again every 250 clocks, eight times; a poll tick resumes the taking. -/
def Obligations.HostRings : Prop :=
  (
    (∀ (vf off : Nat) (v : BitVec 64) (s : State), vf < 65 →
      (vf ≠ 0 → vfFen s vf = none → exec (.registerWrite vf off v) s = .next s ∧ exec (.sessionRegisterWrite vf off v) s = .next s) ∧
      (v.getLsbD 0 = true → exec (.registerWrite 0 0x2008 v) s = .next { s with svc := { s.svc with evlost := false } }) ∧
      (∀ k, k < 32 → ∃ t, exec (.registerWrite 0 (0x1000 + 8 * k) v) s = .next t ∧ t = { s with svc := t.svc } ∧
        ∀ j, j < 8 → tget 0#8 t.svc.mbox (8 * k + j) = BitVec.ofNat 8 (v.toNat / 2 ^ (8 * j))) ∧
      ((v >>> 32).setWidth 32 = 1#32 →
        (s.svc.doorbell = false → s.svc.bootst = 4#8 → exec (.registerWrite 0 0x11F8 v) s =
          .next { s with svc := { s.svc with doorbell := true }, agenda := s.agenda ++ [requestEvent (mailRequest s)] }) ∧
        (s.svc.doorbell = true → exec (.registerWrite 0 0x11F8 v) s = .next s)) ∧
      (∀ f, vf ≠ 0 → vfFen s vf = some f →
        (∃ t, exec (.registerWrite vf 0x100 v) s = .next t ∧ t = { s with fens := t.fens } ∧
          (sessOf t f).scrbase.toNat = v.toNat / 32 * 32 ∧ ∀ g, g ≠ f → fenOf t g = fenOf s g) ∧
        (∃ t, exec (.registerWrite vf 0x108 v) s = .next t ∧ t = { s with fens := t.fens } ∧ (sessOf t f).scrsize = v.setWidth 13) ∧
        (∃ t, exec (.registerWrite vf 0x118 v) s = .next t ∧ t = { s with fens := t.fens } ∧
          (sessOf t f).sevbase.toNat = v.toNat / 16 * 16) ∧
        ((sessOf s f).heldEvents = [] → ∃ t, exec (.registerWrite vf 0x120 v) s = .next t ∧ t = { s with fens := t.fens } ∧
          (sessOf t f).sevhead = BitVec.ofNat 32 (v.toNat / 2 ^ 32) ∧ (sessOf t f).sevsize = v.setWidth 13) ∧
        (∃ t, exec (.registerWrite vf 0x130 v) s = .next t ∧ t = { s with fens := t.fens } ∧ (sessOf t f).sevmsiv = v.setWidth 11) ∧
        (areaInUse s f = false →
          (∃ t, exec (.sessionRegisterWrite vf 0x08 v) s = .next t ∧ t = { s with fens := t.fens } ∧
            (sessOf t f).ftbase.toNat = v.toNat / 64 * 64) ∧
          (∃ t, exec (.sessionRegisterWrite vf 0x10 v) s = .next t ∧ t = { s with fens := t.fens } ∧ (sessOf t f).ftcount = v.setWidth 20) ∧
          (∃ t, exec (.sessionRegisterWrite vf 0x18 v) s = .next t ∧ t = { s with fens := t.fens } ∧
            (sessOf t f).poolbase.toNat = v.toNat / 65536 * 65536) ∧
          (∃ t, exec (.sessionRegisterWrite vf 0x20 v) s = .next t ∧ t = { s with fens := t.fens } ∧ (sessOf t f).poolpages = v.setWidth 32) ∧
          (∃ t, exec (.sessionRegisterWrite vf 0x28 v) s = .next t ∧ t = { s with fens := t.fens } ∧
            (sessOf t f).modelbase.toNat = v.toNat / 128 * 128)) ∧
        (areaInUse s f = true → off = 0x08 ∨ off = 0x10 ∨ off = 0x18 ∨ off = 0x20 ∨ off = 0x28 →
          exec (.sessionRegisterWrite vf off v) s = .next (postSess s f 0#16 evBadcmd 0 0#64)))) ∧
    (∀ (vf q : Nat) (v : BitVec 64) (s : State), vf < 65 → q < 256 →
      (vfQueue s vf q = false → ∀ off, exec (.queueConfigWrite vf q off v) s = .next s) ∧
      (vfQueue s vf q = true →
        let x := queueOf s q
        let wrote : Nat → LQueue → Prop := fun off y =>
          ∃ t, exec (.queueConfigWrite vf q off v) s = .next t ∧ t = { s with queues := t.queues } ∧ queueOf t q = y ∧
            ∀ p, p ≠ q → queueOf t p = queueOf s p
        (x.qhead = x.kicked → x.launches = [] →
          wrote 0x00 { x with qbase := BitVec.ofNat 64 (v.toNat / 64 * 64) } ∧
          wrote 0x08 { x with qsize := v.setWidth 13, qpoll := BitVec.ofNat 16 (v.toNat / 2 ^ 32),
                              pollAt := s.clock + 1000 * (v.toNat / 2 ^ 32 % 2 ^ 16) } ∧
          wrote 0x18 { x with cbase := BitVec.ofNat 64 (v.toNat / 32 * 32) } ∧
          wrote 0x20 { x with chead := BitVec.ofNat 32 (v.toNat / 2 ^ 32), csize := v.setWidth 13 }) ∧
        (x.qhead ≠ x.kicked ∨ x.launches ≠ [] →
          wrote 0x00 { x with kerr := true } ∧ wrote 0x18 { x with kerr := true } ∧
          wrote 0x08 { x with qpoll := BitVec.ofNat 16 (v.toNat / 2 ^ 32), pollAt := s.clock + 1000 * (v.toNat / 2 ^ 32 % 2 ^ 16),
                              kerr := true } ∧
          wrote 0x20 { x with chead := BitVec.ofNat 32 (v.toNat / 2 ^ 32), kerr := true }) ∧
        (∃ t, exec (.registerWrite vf (0x4000 + 64 * q + 0x30) v) s = .next t ∧ (vf ≠ 0 → queueOf t q =
          { x with msiv := v.setWidth 11, kerr := x.kerr && !v.getLsbD 15 }))))) ∧
  (
    (∀ (vf q : Nat) (v : BitVec 32) (s : State), vf < 65 → q < 256 →
      (vfQueue s vf q = false → exec (.qkick vf q v) s = .next s ∧ exec (.chead vf q v) s = .next s) ∧
      (vfQueue s vf q = true →
        let x := queueOf s q
        (∃ t, exec (.chead vf q v) s = .next t ∧ t = { s with queues := t.queues } ∧ queueOf t q = { x with chead := v } ∧
          ∀ p, p ≠ q → queueOf t p = queueOf s p) ∧
        (x.qsize.toNat < (v - x.qhead).toNat →
          ∃ t, exec (.qkick vf q v) s = .next t ∧ t = { s with queues := t.queues } ∧ queueOf t q = { x with kerr := true }) ∧
        (v = x.qhead + 1#32 → 1 ≤ x.qsize.toNat → x.retries = 0 → stampMatches s q = true →
          ∃ t l, exec (.qkick vf q v) s = .next t ∧ SameMemory s t ∧ (queueOf t q).qhead = v ∧ (queueOf t q).kicked = v ∧
            (queueOf t q).launches = x.launches ++ [l] ∧ l.lnr = hostRead s (entryAddr x) 256 ∧ (∀ p, p ≠ q → queueOf t p = queueOf s p)) ∧
        (v = x.qhead + 1#32 → 1 ≤ x.qsize.toNat → x.retries = 0 → stampMatches s q = false →
          ∃ t, exec (.qkick vf q v) s = .next t ∧ queueOf t q = { x with kicked := v, taking := true, retries := 8, retryAt := s.clock + 250 }))) ∧
    (∀ (q f : Nat) (s : State), q < 256 → (queueOf s q).owner = some f →
      let x := queueOf s q
      (x.retries = 0 ∨ s.clock < x.retryAt → exec (.stampRetry q) s = .next s) ∧
      (0 < x.retries → x.retryAt ≤ s.clock → stampMatches s q = true → exec (.stampRetry q) s = .next (takeEntries (x.qsize.toNat + 1) s q f)) ∧
      (0 < x.retries → x.retryAt ≤ s.clock → stampMatches s q = false → ∃ t, exec (.stampRetry q) s = .next t ∧
        queueOf t q = { x with retries := x.retries - 1, retryAt := s.clock + 250, taking := x.retries ≠ 1 }) ∧
      (x.qpoll = 0#16 ∨ s.clock < x.pollAt → exec (.qpoll q) s = .next s) ∧
      (x.qpoll ≠ 0#16 → x.pollAt ≤ s.clock → x.qhead = x.kicked → x.retries = 0 → ∃ t, exec (.qpoll q) s = .next t ∧
        queueOf t q = { x with pollAt := x.pollAt + 1000 * x.qpoll.toNat, taking := false, retries := 0 })) ∧
    (∀ (vf f : Nat) (v : BitVec 32) (s : State), vf < 65 → vfFen s vf = some f →
      let r := sessOf s f
      ((v - r.scrhead).toNat ≤ r.scrsize.toNat → ∃ t, exec (.scrkick vf v) s = .next t ∧ t = { s with fens := t.fens } ∧
        sessOf t f = { r with scrkick := v, scrTaking := true }) ∧
      (r.scrsize.toNat < (v - r.scrhead).toNat → exec (.scrkick vf v) s = .next s) ∧
      (r.heldEvents = [] → ∃ t, exec (.sevhead vf v) s = .next t ∧ t = { s with fens := t.fens } ∧ sessOf t f = { r with sevhead := v })) ∧
    (∀ (v : BitVec 32) (s : State), exec (.evhead v) s = .next { s with svc := { s.svc with evhead := v } }))

/-! ### Sessions (R277 to R285) -/

/-- Session commands and events (R280, R284, R285, R390): what each command does when its checks pass, each answered with DONE, and BADCMD
for a command that names no such session or finds it in another state. With room in the event ring and none held back an event is
written at SEVTAIL, and SEVTAIL advances; else it is held, in order. That an APPEND in HELD counts and
posts BADCMD, and OVERRUN past TCAP, is the model's choice (log 33), and so is that CREATE checks its handle at the command (log 58). -/
def Obligations.SessionCommands : Prop :=
  (
    ∀ (s : State) (f code i : Nat) (stamp : BitVec 16) (w : Word), Memory.wf s.mem →
      let r := sessOf s f
      let at_ := hostLoc (r.sevbase.toNat + 16 * (r.sevtail.toNat % max 1 r.sevsize.toNat))
      let t := postSess s f stamp code i w
      (eventRoom r = true → r.heldEvents = [] →
        readHome t at_ 16 = leBytes 2 stamp.toNat ++ leBytes 1 code ++ [0#8] ++ leBytes 4 i ++ leBytes 8 w.toNat ∧
        SameMemoryBut at_.key 16 s t ∧ (sessOf t f).sevtail = r.sevtail + 1#32 ∧ t.sessions = s.sessions ∧ t.cores = s.cores) ∧
      (eventRoom r = false ∨ r.heldEvents ≠ [] →
        SameMemory s t ∧ (sessOf t f).heldEvents = r.heldEvents ++ [eventBytes stamp code i w] ∧ (sessOf t f).sevtail = r.sevtail)) ∧
  (
    ∀ (f : Nat) (c : SessCmd) (s : State), f < 16 →
      let i := c.session.toNat
      let x := sessionOf s f i
      let bad : Host.Outcome State Fault Refusal := .next (answer s f c evBadcmd 0#64)
      (named s f c = false → exec (.create f c) s = bad ∧ exec (.append f c) s = bad ∧ exec (.close f c) s = bad ∧
        exec (.enable f c) s = bad) ∧
      exec (.reservedSessionCommand f c) s = bad ∧
      (named s f c = true →
        (x.st ≠ .free → exec (.create f c) s = bad) ∧
        (∀ e, x.st = .free → (∃ n, n ≤ 16 ∧ bits c.arg2.toNat 0 32 = 2 ^ n) → c.arg1.toNat % 64 = 0 → c.arg2.toNat < 2 ^ 38 →
          frameCheck s f c.arg0 [1] = .ok e → ∃ u, exec (.create f c) s = .next (settleIdle (answer u f c evDone 0#64) f i) ∧
            sessionOf u f i = { st := .idle, model := c.arg2.toNat / 2 ^ 32 % 64, frame := c.arg0, tbuf := c.arg1,
                                tcap := c.arg2.toNat % 2 ^ 32 } ∧ SameMemory s u) ∧
        (x.st = .free ∨ c.arg0 = 0#64 ∨ 65536 < c.arg0.toNat → exec (.append f c) s = bad) ∧
        (x.st ≠ .free → c.arg0 ≠ 0#64 → c.arg0.toNat ≤ 65536 → x.tcap < x.buffered + c.arg0.toNat →
          exec (.append f c) s = .next (answer s f c evOverrun 0#64)) ∧
        (x.st ≠ .free → x.st ≠ .held → c.arg0 ≠ 0#64 → c.arg0.toNat ≤ 65536 → x.buffered + c.arg0.toNat ≤ x.tcap →
          ∃ u, exec (.append f c) s = .next (settleIdle (answer u f c evDone (BitVec.ofNat 64 (x.a + c.arg0.toNat))) f i) ∧
            sessionOf u f i = { x with a := x.a + c.arg0.toNat, t0 := if x.buffered = 0 then s.clock / 1000 else x.t0 } ∧ SameMemory s u) ∧
        (∃ u, exec (.close f c) s = .next (answer u f c evDone 0#64) ∧ SameMemory s u ∧
          sessionOf u f i = (if x.st = .batched then { x with closing := true } else {})) ∧
        (x.st ≠ .held → exec (.enable f c) s = bad) ∧
        (x.st = .held → ∃ u, exec (.enable f c) s = .next (settleIdle (answer u f c evDone 0#64) f i) ∧
          sessionOf u f i = { x with st := .idle, cause := 0 } ∧ SameMemory s u)) ∧
      ((c.arg0 = 0#64 ∨ 4096 < c.arg0.toNat ∨ c.session ≠ 0#32) → exec (.fcreate f c) s = bad) ∧
      (let here := endCarry s f (.command c)
       let pays : Instr → List Nat → Prop → Prop := fun i lines acts =>
        ((carried s f (.command c) lines).1 = false → exec i s = .next (carried s f (.command c) lines).2) ∧
        ((carried s f (.command c) lines).1 = true → acts)
       (c.arg0 ≠ 0#64 → c.arg0.toNat ≤ 4096 → c.session = 0#32 →
        pays (.fcreate f c) (scanLines s f ++ newPageLines s f (c.arg0.toNat + 1)) (∀ w u, newFrame here f c.arg0.toNat = .ok (w, u) →
          exec (.fcreate f c) s = .next (answer u f c evDone w))) ∧
       pays (.ffree f c) (handleLines s f c.arg0 [1] fun e => listLines s f e ++ refLines s f e)
        (∀ j e ps u v, frameCheck here f c.arg0 [1] = .ok (j, e) → pageList here f e = .ok ps → downRefs here f ps = .ok u →
          freeFEntry u f j e = .ok v → exec (.ffree f c) s = .next (answer v f c evDone 0#64)) ∧
       pays (.sdrop f c) (handleLines s f c.arg0 [2] fun e => listLines s f e ++ refLines s f e)
        (∀ j e u, frameCheck here f c.arg0 [2] = .ok (j, e) → dropHold here f j 0 e = .ok u →
          exec (.sdrop f c) s = .next (answer u f c evDone 0#64))) ∧
      (∀ w lines, carryOf s f w = none → lines ≠ [] → (carried s f w lines).1 = false ∧
        carryOf (carried s f w lines).2 f w = some { what := w, lines } ∧ SameMemory s (carried s f w lines).2) ∧
      (∀ j, x.st = .idle → (modelOf s f x.model).chunk ≤ x.buffered → ∃ u, settleIdle s f i = u ∧ (sessionOf u f i).st = .ready ∧
        (sessionOf u f i).readyAt = s.clock / 1000 ∧ (j ≠ i → sessionOf u f j = sessionOf s f j)) ∧
      (x.st ≠ .idle ∨ x.buffered < (modelOf s f x.model).chunk → settleIdle s f i = s))

/-- Batches (R280, R281, R282, R283): a partial chunk that has waited MAXWAIT makes its session READY. The oldest READY sessions of a model
become a batch in a free region set, each BATCHED at once with its count of tokens; then the batch's regions are made, when they fit (a wait
that is the model's choice, log 132); and once its frames' bytes have passed the regulators (R380; which bytes is the model's choice, log
56) and the banks are won (R238), they are loaded and its launch is appended to the descriptor's queue. When the batch's launch has
completed and the bytes of its store-backs have passed too, its set is freed. -/
def Obligations.SessionBatches : Prop :=
  (∀ (s : State) (f i : Nat), f < 16 → i < (sessOf s f).sesscnt → i < 65536 →
    let x := sessionOf s f i
    let d := modelOf s f x.model
    (x.st = .idle → 1 ≤ x.a - x.c → d.maxwait ≠ 0 → d.maxwait ≤ s.clock / 1000 - x.t0 →
      ∃ t, exec (.sessionAge f i) s = .next t ∧ (sessionOf t f i).st = .ready ∧ (sessionOf t f i).readyAt = s.clock / 1000 ∧
        ∀ j, j ≠ i → sessionOf t f j = sessionOf s f j) ∧
    (x.st ≠ .idle ∨ x.a ≤ x.c ∨ d.maxwait = 0 ∨ s.clock / 1000 - x.t0 < d.maxwait → exec (.sessionAge f i) s = .next s)) ∧
  (∀ (s : State) (f m : Nat), f < 16 → m < 64 →
    let forms : State → State → Prop := fun v t => (batchNow v f m = none → t = v) ∧
      ∀ z d rs, batchNow v f m = some (z, d, rs) → ∃ b, t.batches = v.batches ++ [b] ∧ b.fen = f ∧ b.model = m ∧ b.set = z ∧
        b.items = (rs.map fun i => { sess := i, t := min (sessionOf v f i).buffered d.chunk, skip := false }) ∧
        b.stage = .formed ∧ b.status = none ∧ tget 0 t.batchNo (f * 64 + m) = (tget 0 v.batchNo (f * 64 + m) + 1) % 2 ^ 32 ∧
        rs.length = min (readySessions v f m).length d.bmax ∧ rs <+: readySessions v f m ∧
        (∀ i ∈ rs, (sessionOf v f i).st = .ready ∧ (sessionOf v f i).model = m ∧ (sessionOf t f i).st = .batched) ∧
        (∀ y, y ∈ v.batches → ¬ (y.fen = f ∧ y.model = m ∧ y.set = z)) ∧ SameMemory v t
    let waiting := s.batches.filter fun b => b.fen == f && b.model == m && b.stage != .queued
    (waiting = [] → ∃ t, exec (.batchForm f m) s = .next t ∧ forms s t) ∧
    (∀ b, waiting = [b] → ∃ v t, exec (.batchForm f m) s = .next t ∧ forms v t ∧
      (b.stage = .formed → batchFits s b = false → v = s) ∧
      (b.stage = .formed → batchFits s b = true → SameMemory s v ∧
        v.batches = (s.batches.map fun x => if x = b then { b with stage := .loading } else x) ∧
        ∀ p ∈ b.plan, b.plan.length ≤ (Model.ofBytes b.desc).plans.length → ∃ r ∈ (coreOf v p.2.2.2).regions, r.off = p.2.2.1 ∧
          r.lines = b.items.length * p.2.1 / 64 ∧ r.batch = some (f, m, b.set) ∧ r.lid = b.lid ∧ r.act = [] ∧ r.dirty = []) ∧
      (b.stage = .loading → batchMoves s b = false → v = s) ∧
      (b.stage = .loading → batchMoves s b = true → (askBanks s b.need).1 = false → v = (askBanks s b.need).2) ∧
      (b.stage = .loading → batchMoves s b = true → (askBanks s b.need).1 = true → findLaunch s b.lid = none →
        carryOf v f (.load m b.set) = none ∧ (∃ b' ∈ v.batches, b'.lid = b.lid ∧ b'.set = b.set ∧ b'.stage = .queued ∧
          b'.items.map (·.sess) = b.items.map (·.sess)) ∧
        ∃ l ∈ (queueOf v (Model.ofBytes b.desc).queue).launches, l.lid = b.lid ∧ l.fen = f ∧ l.batch = some (m, b.set) ∧
          l.st = .queued ∧ l.nplan = (Model.ofBytes b.desc).plans.length))) ∧
  (∀ (s : State) (f m z : Nat), f < 16 → m < 64 → z < 2 →
    (s.batches.find? (fun b => b.fen == f && b.model == m && b.set == z && b.status.isSome) = none → exec (.storeBack f m z) s = .next s) ∧
    (∀ b, s.batches.find? (fun b => b.fen == f && b.model == m && b.set == z && b.status.isSome) = some b →
      let mine := if b.status = some 0 then (b.items.filter (!·.skip)).map (·.sess) else []
      let first := carried s f (.store m z) (mine.flatMap fun i => extentLines s f i (b.plan.map fun p => (p.1, p.2.1)) true)
      let banks := askBanks first.2 b.need
      (first.1 = false → exec (.storeBack f m z) s = .next first.2) ∧
      (first.1 = true → mine ≠ [] → banks.1 = false → exec (.storeBack f m z) s = .next banks.2) ∧
      (first.1 = true → mine = [] ∨ banks.1 = true → ∃ t, exec (.storeBack f m z) s = .next t ∧
        t.batches = s.batches.filter (· != b) ∧ carryOf t f (.store m z) = none)))

/-! ### The management port (R391, R392, R395) -/

/-- Forming and ending a fen, and moving a core (R309, R370, R372, R373, R375, R378, R391): a FENFORM within its limits gives the fen its
grant, zeroed, its VFs, queues and session entries, and its cores begin JOINING; FENEND and COREMOVE begin LEAVING; each answers, or has
its answer awaited. Before READY a request is not accepted, and one of wrong length or with a res0 byte set is BADREQ. The model's choices:
which of several statuses answers (log 61); that FENFORM answers at once and a COREMOVE to where the core stands answers DONE (log 63); that
the joins of a FENFORM leave FEPOCH (log 17); that requests before READY are ignored (log 64).
The other requests (R361, R381, R391, R392, R395): PEERLINK binds and enables a link, REGSET sets one regulator or a class of them,
ATTEST reports and advances COUNT, HEALTH reports, SVNRAISE raises the fused minimum, and a reserved code is BADREQ. -/
def Obligations.ManagementRequests : Prop :=
  (
    ∀ (r : MgmtReq) (s : State), r.port < 2 → r.payload.length ≤ 252 →
      let ok : Nat → Nat → Prop := fun code len => r.code.toNat = code ∧ r.payload.length = len ∧ s.svc.bootst = 4#8
      let answered : State → Nat → List Byte → Prop := fun t st res => (r.port, r.tag, BitVec.ofNat 8 st, res) ∈ t.svc.responses
      (r.code = 1#8 → (s.svc.bootst ≠ 4#8 → exec (.fenform r) s = .next s) ∧
        (s.svc.bootst = 4#8 → r.payload.length ≠ 112 → exec (.fenform r) s = .next (reply s r mgBadreq))) ∧
      (r.code = 2#8 → (s.svc.bootst ≠ 4#8 → exec (.fenend r) s = .next s)) ∧
      (r.code = 3#8 → (s.svc.bootst ≠ 4#8 → exec (.coremove r) s = .next s)) ∧
      (ok 1 112 → mgField r 3 1 = 0 → mgField r 0x6A 6 = 0 →
        let f := mgField r 0 1
        let base := mgField r 0x40 8
        let len := mgField r 0x48 8
        (fenformArgs r = false → exec (.fenform r) s = .next (reply s r mgBadarg)) ∧
        (fenformArgs r = true → fenEnding s f = false → (fenOf s f).formed = false →
          (∀ k, k < 96 → bitAt (mgField r 8 12) k = true → moving (coreOf s k) = false) → fenformFree s r = true → Memory.wf s.mem →
          ∃ t sb, exec (.fenform r) s = .next t ∧ answered t mgDone (leBytes 4 sb) ∧ sessSpot s (mgField r 0x3C 4) = some sb ∧
            (fenOf t f).formed = true ∧ (fenOf t f).weight = mgField r 1 1 ∧ (fenOf t f).wdmax = mgField r 4 4 ∧
            (fenOf t f).grantBase = base ∧ (fenOf t f).grantLen = len ∧ (fenOf t f).ptroot = BitVec.ofNat 64 (mgField r 0x50 8) ∧
            (fenOf t f).vfs = BitVec.ofNat 64 (mgField r 0x14 8) ∧ (fenOf t f).fepoch = 0#64 ∧
            (sessOf t f).sesscnt = mgField r 0x3C 4 ∧ (sessOf t f).sessbase = sb ∧
            (∀ q, q < 256 → bitAt (mgField r 0x1C 32) q = true → (queueOf t q).owner = some f ∧ (queueOf t q).launches = []) ∧
            (∀ k, k < 96 → bitAt (mgField r 8 12) k = true → (coreOf t k).st = .joining ∧ (coreOf t k).fen = f ∧
              s.clock < (coreOf t k).until_ ∧ (coreOf t k).until_ ≤ s.clock + 64) ∧
            (∀ a, (Loc.phys base).key ≤ a → a < (Loc.phys base).key + len → byteAt t a = 0#8) ∧
            (∀ a, a < (Loc.phys base).key ∨ (Loc.phys base).key + len ≤ a → byteAt t a = byteAt s a) ∧
            ∀ g, g ≠ f → fenOf t g = fenOf s g)) ∧
      (ok 2 1 → ∀ f, f = mgField r 0 1 → f < 16 → fenEnding s f = false →
        ((fenOf s f).formed = false → exec (.fenend r) s = .next (reply s r mgNofen)) ∧
        ((fenOf s f).formed = true → (∃ k, k < 96 ∧ (coreOf s k).fen = f ∧ (coreOf s k).st = .member) →
          ∃ t, exec (.fenend r) s = .next t ∧ fenEnding t f = true ∧ (∀ k, k < 96 → (coreOf s k).fen = f → (coreOf s k).st = .member →
            (coreOf t k).st = .leaving ∧ (coreOf t k).target = none) ∧ SameMemory s t)) ∧
      (ok 3 4 → mgField r 2 2 = 0 → ∀ k dest, k = mgField r 0 1 → dest = mgField r 1 1 → k < 96 →
        (dest < 16 → (coreOf s k).st = .unowned → (coreOf s k).retired = false → (fenOf s dest).formed = true → fenEnding s dest = false →
          ∃ t, exec (.coremove r) s = .next t ∧ (coreOf t k).st = .joining ∧ (coreOf t k).fen = dest ∧
            (fenOf t dest).fepoch = (fenOf s dest).fepoch + 1#64 ∧ (r.port, r.tag, k) ∈ t.svc.moves ∧ SameMemory s t) ∧
        (dest = 0xFF → (coreOf s k).st = .member → fenEnding s (coreOf s k).fen = false → (coreOf s k).fen < 16 →
          ∃ t, exec (.coremove r) s = .next t ∧ (coreOf t k).st = .leaving ∧ (coreOf t k).target = none ∧
            (fenOf t (coreOf s k).fen).fepoch = (fenOf s (coreOf s k).fen).fepoch + 1#64 ∧ (r.port, r.tag, k) ∈ t.svc.moves ∧
            SameMemory s t) ∧
        ((coreOf s k).st = .member → (coreOf s k).fen = dest → dest < 16 → (fenOf s dest).formed = true → fenEnding s dest = false →
          (coreOf s k).retired = false → exec (.coremove r) s = .next (reply s r mgDone [0#8])))) ∧
  (
    ∀ (r : MgmtReq) (s : State), r.port < 2 → r.payload.length ≤ 252 → s.svc.bootst = 4#8 →
      let answered : State → Nat → List Byte → Prop := fun t st res => (r.port, r.tag, BitVec.ofNat 8 st, res) ∈ t.svc.responses
      (r.code = 4#8 → r.payload.length = 4 → mgField r 3 1 = 0 → ∀ f, f = mgField r 2 1 → f < 16 → (fenOf s f).formed = true →
        fenEnding s f = false →
        (mgField r 0 1 = 0 → mgField r 1 1 = 1 → s.peers.nxtTrains = true → (s.peers.prvEn = false ∨ s.peers.fen = f) →
          ∃ t, exec (.peerlink r) s = .next t ∧ t.peers = { s.peers with nxtEn := true, fen := f } ∧
            answered t mgDone (leBytes 8 (peerstWord t.peers).toNat) ∧ t = { s with peers := t.peers, svc := t.svc }) ∧
        (mgField r 0 1 = 1 → mgField r 1 1 = 1 → s.peers.prvTrains = false → exec (.peerlink r) s = .next (reply s r mgNolink)) ∧
        (mgField r 0 1 = 0 → mgField r 1 1 = 0 → s.peers.nxtUp = false →
          ∃ t, exec (.peerlink r) s = .next t ∧ t.peers = { s.peers with nxtEn := false })) ∧
      (r.code = 5#8 → r.payload.length = 12 → mgField r 3 1 = 0 → ∀ f h c, f = mgField r 0 1 → h = mgField r 1 1 → c = mgField r 2 1 →
        f < 16 → h < 48 ∨ h = 0xFF → c ≤ 2 → (fenOf s f).formed = true → fenEnding s f = false →
        let set := setReguls s f c (if h = 0xFF then List.range 48 else [h]) (mgField r 4 2) (mgField r 6 2) (mgField r 8 2) (mgField r 10 2)
        (∀ u, set = some u → exec (.regset r) s = .next (reply u r mgDone)) ∧
        (set = none → exec (.regset r) s = .next (reply s r mgNores))) ∧
      (r.code = 6#8 → r.payload.length = 32 → ∃ t, exec (.attest r) s = .next t ∧ t.svc.attestCount = s.svc.attestCount + 1 ∧
        answered t mgDone (reportBody s r.payload ++ leBytes 1280 (Config.signature (reportBody s r.payload)).toNat) ∧
        t = { s with svc := t.svc }) ∧
      (r.code = 7#8 → r.payload.length = 0 → ∃ t, exec (.health r) s = .next t ∧ answered t mgDone (healthReport s) ∧
        t = { s with svc := t.svc }) ∧
      (r.code = 8#8 → r.payload.length = 0 → ∃ t v, exec (.svnraise r) s = .next t ∧ t.svc.minVersion = v ∧ answered t mgDone (leBytes 4 v.toNat) ∧
        v.toNat = max s.svc.minVersion.toNat s.svc.version.toNat ∧ t = { s with svc := t.svc }) ∧
      (r.code = 0#8 ∨ 8 < r.code.toNat → ∃ t, exec (.reservedManagementRequest r) s = .next t ∧ answered t mgBadreq [] ∧
        t = { s with svc := t.svc }))

/-! ### The states of a core (R372 to R375), boot, power and errors (R394 to R401) -/

/-- A core's way from LEAVING to its target (R373, R374, R375): when nothing of the fen is left on it, its scrub zeroes its slice, state
store, planes and spill areas; then it joins its target or becomes UNOWNED, and JOINING ends within 64 clocks. -/
def Obligations.CoreMoves : Prop :=
  ∀ (s : State) (k : Nat), k < 96 →
    (leavingDone s k = false → exec (.scrubPoint k) s = .next s) ∧
    (leavingDone s k = true → Memory.wf s.mem → s.accs = [] → ∃ t, exec (.scrubPoint k) s = .next t ∧ (coreOf t k).st = .scrub ∧
      (coreOf t k).fen = (coreOf s k).fen ∧ (coreOf t k).target = (coreOf s k).target ∧ (coreOf t k).rings = [] ∧
      s.clock + 3072 ≤ (coreOf t k).until_ ∧ (∀ g, coreNo g = k → subOf t g = {}) ∧ (∀ g, coreNo g ≠ k → subOf t g = subOf s g) ∧
      (∀ a, coreKeys k a = true ∨ spillKeys s k a = true → byteAt t a = 0#8) ∧
      (∀ a, coreKeys k a = false → spillKeys s k a = false → byteAt t a = byteAt s a) ∧ Memory.wf t.mem) ∧
    ((coreOf s k).st ≠ .scrub ∨ s.clock < (coreOf s k).until_ → exec (.joining k) s = .next s) ∧
    ((coreOf s k).st = .scrub → (coreOf s k).until_ ≤ s.clock →
      (∀ f, (coreOf s k).target = some f → (fenOf s f).formed = true → fenEnding s f = false → (coreOf s k).retired = false →
        ∃ t, exec (.joining k) s = .next t ∧ (coreOf t k).st = .joining ∧ (coreOf t k).fen = f ∧ (coreOf t k).until_ ≤ s.clock + 64 ∧
          (fenOf t f).fepoch = (fenOf s f).fepoch + 1#64) ∧
      ((coreOf s k).target = none → fenEnding s (coreOf s k).fen = false →
        ∃ t, exec (.joining k) s = .next t ∧ (coreOf t k).st = .unowned ∧ t.fens = s.fens ∧ SameMemory s t)) ∧
    ((coreOf s k).st ≠ .joining ∨ s.clock < (coreOf s k).until_ → exec (.member k) s = .next s) ∧
    ((coreOf s k).st = .joining → (coreOf s k).until_ ≤ s.clock → (coreOf s k).retired = false → fenEnding s (coreOf s k).fen = false →
      ∃ t, exec (.member k) s = .next t ∧ coreOf t k = { coreOf s k with st := .member } ∧ t.fens = s.fens ∧ SameMemory s t ∧
        ∀ p tag, (p, tag, k) ∈ s.svc.moves → ∃ m, m ∈ t.svc.responses ∧ m.1 = p)

/-- Boot goes step by step to READY (R394): the image of slot A, or of slot B, sound and of a version that the fuses allow, the links, then
every core scrubbed and UNOWNED; a boot from slot B posts its event. A step that fails stops it.
The limiter's window, a core's margins and voltage, retention and soft errors (R397 to R401). That boot takes one event for each step of
Table 24.4 is the model's choice (log 64), and so are the thresholds, which are left open, that a retired core's emergency is cleared (log
34), and which SRAMs beside the memories hold data that an error poisons: the v registers and the big queues (log 82). -/
def Obligations.DeviceActs : Prop :=
  (∀ s : State,
    (s.svc.bootst = 0#8 → exec .boot s = .next { s with svc := { s.svc with bootst := 1#8 }, agenda := s.agenda ++ [.boot] }) ∧
    (s.svc.bootst = 1#8 → imageOk s.svc s.svc.slotA s.svc.versionA = true → exec .boot s =
      .next { s with svc := { s.svc with version := s.svc.versionA, fromB := false, bootst := 2#8 }, agenda := s.agenda ++ [.boot] }) ∧
    (s.svc.bootst = 1#8 → imageOk s.svc s.svc.slotA s.svc.versionA = false → imageOk s.svc s.svc.slotB s.svc.versionB = true →
      exec .boot s =
        .next { s with svc := { s.svc with version := s.svc.versionB, fromB := true, bootst := 2#8 }, agenda := s.agenda ++ [.boot] }) ∧
    (s.svc.bootst = 1#8 → imageOk s.svc s.svc.slotA s.svc.versionA = false → imageOk s.svc s.svc.slotB s.svc.versionB = false → exec .boot s = .next { s with svc := { s.svc with bootst := 0x80#8 } }) ∧
    (s.svc.bootst = 2#8 → s.svc.trains = true →
      exec .boot s = .next { s with svc := { s.svc with bootst := 3#8 }, agenda := s.agenda ++ [.boot] }) ∧
    (s.svc.bootst = 2#8 → s.svc.trains = false → exec .boot s = .next { s with svc := { s.svc with bootst := 0x81#8 } }) ∧
    (s.svc.bootst = 3#8 → Memory.wf s.mem → ∃ t, exec .boot s = .next t ∧ t.svc.bootst = 4#8 ∧ t.subs = [] ∧
      (∀ k, (coreOf t k).st = .unowned) ∧ (∀ a, a < 2 ^ 60 → byteAt t a = 0#8) ∧
      (∀ a c, c < 96 → spillKeys s c a = true → byteAt t a = 0#8) ∧
      (∀ a, 2 ^ 60 ≤ a → (∀ c, c < 96 → spillKeys s c a = false) → byteAt t a = byteAt s a) ∧
      t.fens = s.fens ∧ (s.svc.fromB = false → t.svc.evtail = s.svc.evtail) ∧
      (s.svc.fromB = true → s.svc.evtail - s.svc.evhead ≠ 240#32 → t.svc.evtail = s.svc.evtail + 1#32))) ∧
  (∀ (s : State) (k b : Nat), k < 96 → b < 16 → (coreOf s k).regions = [] →
    (tget 0 (coreOf s k).bankAt b + 4096 ≤ s.clock → (coreOf s k).retained.contains b = false →
      ∃ t, exec (.bankRetention k b) s = .next t ∧ coreOf t k = { coreOf s k with retained := (coreOf s k).retained ++ [b] } ∧
        (∀ j, j ≠ k → coreOf t j = coreOf s j) ∧ t = { s with cores := t.cores }) ∧
    (s.clock < tget 0 (coreOf s k).bankAt b + 4096 ∨ (coreOf s k).retained.contains b = true → exec (.bankRetention k b) s = .next s)) ∧
  (∀ (s : State) (f : Nat), f ≤ 48 →
    (s.clock < s.svc.limEnd → exec (.limiterWindow f) s = .next s) ∧
    (s.svc.limEnd ≤ s.clock → ∃ t, exec (.limiterWindow f) s = .next t ∧ t = { s with svc := t.svc } ∧ t.svc.limEnd = s.clock + 64 ∧
      t.svc.limF = (if s.svc.emergency = [] then f else 48) ∧ (limiterOn t = true ↔ 0 < t.svc.limF))) ∧
  (∀ (s : State) (k : Nat) (ps : Int), k < 96 →
    ∃ t, exec (.marginReport k ps) s = .next t ∧ (coreOf t k).psNew = true ∧
      (coreOf t k).ps = (if (coreOf s k).psNew = true then min (coreOf s k).ps ps else ps) ∧ (∀ j, j ≠ k → coreOf t j = coreOf s j) ∧
      (ps < Config.emergencyPs → k ∈ t.svc.emergency) ∧ (Config.emergencyPs ≤ ps → t.svc = s.svc)) ∧
  (∀ (s : State) (k : Nat), k < 96 →
    ((coreOf s k).retired = true ∨ Config.targetPs ≤ (coreOf s k).ps → ∃ t, exec (.voltageAdjust k) s = .next t ∧
      coreOf t k = { coreOf s k with psNew := false } ∧ t.svc = s.svc) ∧
    ((coreOf s k).retired = false → (coreOf s k).ps < Config.targetPs → (coreOf s k).mv + 5 ≤ Config.ceilingMv →
      ∃ t, exec (.voltageAdjust k) s = .next t ∧ coreOf t k = { coreOf s k with psNew := false, mv := (coreOf s k).mv + 5 } ∧
        ¬ k ∈ t.svc.emergency) ∧
    ((coreOf s k).retired = false → (coreOf s k).ps < Config.targetPs → Config.ceilingMv < (coreOf s k).mv + 5 →
      ∃ t, exec (.voltageAdjust k) s = .next t ∧ (coreOf t k).retired = true ∧
        ((coreOf s k).st = .member → (coreOf t k).st = .leaving ∧ (coreOf t k).target = none) ∧ ¬ k ∈ t.svc.emergency)) ∧
  (∀ (s : State) (k : Nat), k < 96 →
    (∀ a, a < 2 ^ 60 → exec (.sramError k (.line a) false) s = .next { s with svc := { s.svc with single := s.svc.single + 1 } } ∧
      ∃ t, exec (.sramError k (.line a) true) s = .next t ∧ t.svc.double = s.svc.double + 1 ∧ poisoned t (.scratch a) 1 = true ∧
        (∀ x, x ∈ t.ecc ↔ x = a / 64 ∨ x ∈ s.ecc) ∧ SameMemory s t) ∧
    (∀ f i, f < 16 → i < 8192 → exec (.sramError k (.handle f i) false) s = .next { s with svc := { s.svc with single := s.svc.single + 1 } } ∧
      ∃ t, exec (.sramError k (.handle f i) true) s = .next t ∧ hentry t f i = { hentry s f i with bad := true } ∧
        (∀ j, j ≠ i → hentry t f j = hentry s f j) ∧ t.svc.double = s.svc.double + 1 ∧ SameMemory s t) ∧
    (∀ n bank r, n < 4 → bank < 2 → r < 48 →
      exec (.sramError k (.vreg n bank r) false) s = .next { s with svc := { s.svc with single := s.svc.single + 1 } } ∧
      ∃ t, exec (.sramError k (.vreg n bank r) true) s = .next t ∧ t.svc.double = s.svc.double + 1 ∧ SameMemory s t ∧
        vregOf (ctxAt t (4 * k + n) bank) r = { vregOf (ctxAt s (4 * k + n) bank) r with
          poison := some ((vregOf (ctxAt s (4 * k + n) bank) r).poison.getD .memerr) } ∧
        ∀ j, j ≠ r → vregOf (ctxAt t (4 * k + n) bank) j = vregOf (ctxAt s (4 * k + n) bank) j) ∧
    (∀ n bank i, n < 4 → bank < 2 → ∃ t, exec (.sramError k (.queue n bank 7 i) true) s = .next t ∧ t.svc.double = s.svc.double + 1 ∧
      (ctxAt t (4 * k + n) bank).mf.length = (ctxAt s (4 * k + n) bank).mf.length ∧
      (∀ e, (ctxAt s (4 * k + n) bank).mf[i]? = some e → (ctxAt t (4 * k + n) bank).mf[i]? =
        some { e with poison := some (e.poison.getD .memerr) }) ∧
      (∀ j, j ≠ i → (ctxAt t (4 * k + n) bank).mf[j]? = (ctxAt s (4 * k + n) bank).mf[j]?) ∧ SameMemory s t))

/-! ### Reset and the step -/

/-- What reset leaves (R14, R178, R394): the clock at 0, every core UNOWNED and in no region, its plane descriptors bf16 with K = N = SC = 0,
its leases free with the last place 3, no fen formed, every memory byte 0, no poison syndrome, every register of every sub-core 0,
neither poisoned nor pending, every token at 0, every engine stopped, BOOTST 0 with boot about to begin. Zero where the spec gives a
register or a byte no value is the model's choice (logs 1, 2). -/
def Obligations.ResetState : Prop :=
  State.reset.clock = 0 ∧ State.reset.svc.bootst = 0#8 ∧ State.reset.agenda = [.boot] ∧ State.reset.turn = [] ∧ State.reset.ecc = [] ∧
  State.reset.accs = [] ∧ State.reset.xfers = [] ∧ State.reset.script = [] ∧
  (∀ k, (coreOf State.reset k).st = .unowned ∧ (coreOf State.reset k).regions = [] ∧ (coreOf State.reset k).comb = [] ∧
    (coreOf State.reset k).actDesc = ⟨1#4, 0, 0, false⟩ ∧ (coreOf State.reset k).shdDesc = ⟨1#4, 0, 0, false⟩ ∧
    ∀ u, (leaseOf (coreOf State.reset k) u).holder = none ∧ (leaseOf (coreOf State.reset k) u).last = 3) ∧
  (∀ f, (fenOf State.reset f).formed = false ∧ (fenOf State.reset f).counters = []) ∧
  (∀ q, (queueOf State.reset q).owner = none ∧ (queueOf State.reset q).launches = []) ∧
  (∀ a, byteAt State.reset a = 0#8) ∧
  (∀ g d, readDest (ctxOf State.reset g) d = ⟨0#64, none⟩ ∧ pendingOf (ctxOf State.reset g) d = none) ∧
  (∀ g n, vregOf (ctxOf State.reset g) n = ⟨0#16384, none⟩ ∧ (tget {} (ctxOf State.reset g).t n).count = 0#16 ∧
    (tget {} (ctxOf State.reset g).t n).status = 0#32 ∧ queueOfCtx (ctxOf State.reset g) n = []) ∧
  (∀ g e, (engOf (ctxOf State.reset g) e).stopped = true ∧ (engOf (ctxOf State.reset g) e).pipe = []) ∧
  (∀ g, (ctxOf State.reset g).pl = 0#2 ∧ (ctxOf State.reset g).trapped = false ∧ (ctxOf State.reset g).tr = {} ∧
    (ctxOf State.reset g).step = none ∧ (subOf State.reset g).shb = 0#2)

/-- A step runs the instruction that the bytes at the engine's next address decode to (R13, R34, R35, R36, R229): the fetched word is the
little-endian value of the four bytes; a word that decodes, alone in its group and legal, is executed once, at its own address; if it
issues, the engine goes on at the word after it, or at the target of its transfer; while an access of it loses its banks, the engine is
frozen and nothing of it takes effect (R238, R397); if it traps, the step ends in the trap that it takes; a word that does not decode traps with
ILLENC. That a fetch reads the step's own view is the model's choice (log 67), and so is which ports keep a group's banks from it (log 11);
when a fetch waits for earlier class-0 accesses is log 85, and that the end test of a loop runs beside a transfer that traps is log 92. -/
def Obligations.StepRuns : Prop :=
  ∀ (s : State) (g e : Nat) (r : List (Nat × Nat)), s.agenda = [] → s.turn = (g, e) :: r → e ≤ 1 →
    let s1 : State := { s with turn := r }
    let x := engOf (ctxOf s1 g) e
    let s0 := atGroup s1 g e
    let s2 := beginStep s0
    (engineLive s1 g = true → engineHeld s1 g e = false → swapWaits s1 g = false → walkerSwaps s1 g e = false → (e = 0 → deliverFault s1 g = none) → x.stopped = false → x.wait = none →
      x.idle = 0 → x.dly = 0 → x.wakeAt ≤ s.clock → fetchFar s0 = none → fetchHeld s0 = none →
      (∀ w, scratchError s0 g x.pc 4 = none → badView s0 (curCtx s0).cid (.scratch x.pc) 4 = false →
        (e = 1 → (ringOf s0 (curCore s0) (engRing g e)).kind ≠ 3#2) → w < 2 ^ 32 →
        readView s0 (curCtx s0).cid (.scratch x.pc) 4 = leBytes 4 w → fetchWord s0 x.pc = .word w) ∧
      (∀ w b, fetchWord s0 x.pc = .word w → isRecordWord e w = false → decodeWord e w = (b, none) → step s = .next (trapWith s0 .illenc)) ∧
      (∀ w i, fetchWord s0 x.pc = .word w → decodeWord e w = (true, some i) → groupOk e [(x.pc, i)] = true →
        let s3 : State := { s2 with cur := { s2.cur with next := movePc s2 x.pc 4, addr := x.pc, pfx := {}, hold := .go } }
        let lost : List (Nat × Nat) → Prop := fun ls =>
          (x.bankAt = none ∧ 0 < selfLoss ls) ∨ outranked s3 ls = true ∨ bankLost s3 (curCore s3, 16 * g + 8, ls) = true
        (∀ t c v f q, exec i s3 = .next t → t.cur.hold = .trap c v f q → groupEnd s3 [(x.pc, i)] x.pc = .none →
          step s = .next t) ∧
        (∀ t, exec i s3 = .next t → t.cur.hold = .go → t.cur.clears = [] → isLoadWord i = false → t.cur.g = g → t.cur.e = e →
          (curCtx t).cid = (curCtx s2).cid → (curCtx t).step = (curCtx s2).step → groupEnd s3 [(x.pc, i)] x.pc = .none →
          (t.cur.lines ≠ [] → ¬ lost t.cur.lines) →
          ∃ u, step s = .next u ∧ (engOf (ctxOf u g) e).pc = t.cur.next ∧ (engOf (ctxOf u g) e).grp = (engOf (ctxOf t g) e).grp + 1 ∧
            (engOf (ctxOf u g) e).idle = (if t.cur.taken && !(engOf (ctxOf t g) e).stopped then 2 else 1) ∧
            (engOf (ctxOf u g) e).pipe = (engOf (ctxOf t g) e).pipe ∧ (∀ d, readDest (ctxOf u g) d = readDest (ctxOf t g) d) ∧
            SameMemory t u ∧ t.clock = u.clock) ∧
        (∀ t, exec i s3 = .next t → t.cur.hold = .go → groupEnd s3 [(x.pc, i)] x.pc = .none → t.cur.lines ≠ [] → lost t.cur.lines →
          ∃ u, step s = .next u ∧ (engOf (ctxOf u g) e).frozen = true ∧ (engOf (ctxOf u g) e).pc = x.pc ∧
            (engOf (ctxOf u g) e).pipe = x.pipe ∧ SameMemory s u)))

/-! ### Encoding (R34 to R55) -/

/-- Worked encodings of the spec's tables: words written out there decode to the instructions that they stand for. -/
def Obligations.WorkedEncodings : Prop :=
  decodeWord 0 0x82000003 = (true, some (.dly 3#16)) ∧
  decodeWord 0 0x8423FFFC = (true, some (.beq 2#4 3#4 0xFFFC#16)) ∧
  decodeWord 1 0x8CE00000 = (true, some (.jr 14#4)) ∧
  decodeWord 0 0x8E4000C2 = (true, some (.loopi 1#2 3#16 2#6)) ∧
  decodeWord 0 0x50284123 = (false, some (.ldScratch 10#6 4#6 0#1 4#5 2#2 3#4)) ∧
  decodeWord 0 0x412CCFFB = (false, some (.addi 11#6 12#6 0xFFB#12)) ∧
  decodeWord 0 0xF937FFFA = (true, some (.bnz 13#6 0x3FFFA#18)) ∧
  decodeWord 0 0x3F980000 = (false, some (.pfx 1#1 6#5 0#4 0#3 0#1 0#1 0#1 0#1)) ∧
  decodeWord 0 0xD830C902 = (true, some (.amo32 12#6 3#4 9#6 0#4 2#4)) ∧
  decodeWord 0 0xE0580008 = (true, some (.fence 1#2 3#3 8#16)) ∧
  decodeWord 0 0xEC294540 = (true, some (.frmLd 10#6 20#6 21#6)) ∧
  decodeWord 0 0xF5000042 = (true, some (.trap 0x42#16)) ∧
  decodeWord 1 0xC00420C0 = (true, some (.vadd 1#6 2#6 3#6 0#4)) ∧
  decodeWord 1 0xD0209380 = (true, some (.vcvt 8#6 9#6 3#4 1#1 0#4)) ∧
  decodeWord 1 0xDA10C022 = (true, some (.vld 4#6 3#4 2#10 2#4)) ∧
  decodeRecord 2 0xC002192B 0x00800002 0x88001000 0x0E804000 = 
    some (.fcopy ⟨0#4, 2#4, 3#5, 4#5, true, 11#4, 0x80#16, 2#16, 0x88001000#32, 0x0E804000#32⟩)

/-- Decode and encode agree, for every word and record and every value of their operands: what a well-formed instruction of an engine
encodes to decodes to it, with the stop bit of a word; and a word decodes to nothing but a well-formed instruction of that engine whose
encoding it is. -/
def Obligations.EncodeDecode : Prop :=
  (∀ (i : Instr) (e : Nat) (stop : Bool), recordOf i = none → i.home ≠ .event → i.inEngine e = true → i.wf = true →
    encodeWord i < 2 ^ 31 ∧ decodeWord e (encodeWord i + if stop then 2 ^ 31 else 0) = (stop, some i)) ∧
  (∀ (i : Instr) (m e : Nat) (r : Record), recordOf i = some (m, r) → i.inEngine e = true → i.wf = true →
    ∃ a b c d, encodeRecord m r = [a, b, c, d] ∧ a < 2 ^ 32 ∧ b < 2 ^ 32 ∧ c < 2 ^ 32 ∧ d < 2 ^ 32 ∧ decodeRecord e a b c d = some i) ∧
  (∀ (e w : Nat) (b : Bool) (i : Instr), w < 2 ^ 32 → decodeWord e w = (b, some i) →
    i.wf = true ∧ i.inEngine e = true ∧ w = encodeWord i + if b then 2 ^ 31 else 0)

/-! ### Whole-machine rules -/

/-- A rule over every word and record: only PUBL, WDONE, CPUSH and RCOMMIT change a byte of memory in the act of executing (R133, R219,
R295). Every other one leaves every byte as it was: loads, stores, atomics, reductions, vector accesses, transfers, commands and frame
operations act on memory only when they perform (R301). No order log records, for a log writes entries of its own (R364). -/
def Obligations.WordsLeaveMemory : Prop :=
  ∀ (i : Instr) (s t : State),
    (match i with
     | .publ .. | .wdone | .cpush .. | .rcommit .. => False
     | _ => True) →
    i.home ≠ .event → (∀ l, (launchOf s l).olmode ≠ 1#2) → exec i s = .next t → SameMemory s t

/-! ### Where the words and events of memory, rings, vectors and launches complete -/

/-- The stores of the sequencer, the vector accesses, the ring functions, the vector words on queues and the events of a launch complete:
each answers a next state that holds its effect, for every state and operands that meet the conditions of its rule. Stores and vector
accesses: operands readable, the place reached and aligned, the shadow lines not exceeded, a credit there (R121, R122, R164, R260, R352).
Ring functions: a descriptor that they accept and their condition of Table 5.9 met, with no order log (R136). Vector queue words: an entry,
or room (R166, R168). Launches: the conditions to start, end, expire, be withdrawn, complete and copy (R254, R259, R261, R266, R267, R379,
R403), and a stalled push under the limits of the Mere (R298). -/
def Obligations.FormsComplete : Prop :=
  (∀ (d b q : BitVec 6) (o : BitVec 5) (z : BitVec 2) (c : BitVec 4) (s : State) (x w : Word),
    rdS (curCtx s) b.toNat = ⟨x, none⟩ → rdS (curCtx s) d.toNat = ⟨w, none⟩ →
    let n := 2 ^ z.toNat
    let a := (x.toNat + o.toNat * n) % 2 ^ 64
    let fits : Nat → Prop := fun a => a % n = 0 ∧ scratchError s s.cur.g a n = none ∧
      shadowOver s (curCtx s).cid [(a, n)] = false ∧ noCredit s (curCore s) (.scratch a) = false
    let goes : Instr → Loc → Prop := fun i l => ∃ t y, exec i s = .next t ∧ t.cur.hold = s.cur.hold ∧ y ∈ t.accs ∧ y.kind = .store ∧
      y.loc = l ∧ y.size = n ∧ y.data = w ∧ SameMemory s t ∧ curCtx t = curCtx s
    (fits a → goes (.stScratch d b o z c) (.scratch a)) ∧
    (a % n = 0 → stateError s (curCore s) a n = false → goes (.stState d b o z c) (.state (curCore s) a)) ∧
    (∀ ra, ringAddr s q x = some ra → fits ra → goes (.stb d q b z c) (.scratch ra))) ∧
  (∀ (v : BitVec 6) (b : BitVec 4) (o : BitVec 10) (c : BitVec 4) (s : State) (y : Word), rdA (curCtx s) 1 b.toNat = ⟨y, none⟩ →
    (∀ k, predicate s = some k → k.p = none) →
    let a := (y.toNat + o.toNat * 64) % 2 ^ 64
    let goes : Instr → Bool → Loc → Prop := fun i store l => ∃ t x, exec i s = .next t ∧ t.cur.hold = s.cur.hold ∧
      (curEng t).pipe = (curEng s).pipe ++ [x] ∧ x.left = 6 ∧ x.access = some ⟨store, l, c.toNat⟩ ∧
      x.dest = (if store then .none else .v v.toNat) ∧ SameMemory s t ∧ SameContext s t
    (a % 64 = 0 → vscratchError s a = none → goes (.vld v b o c) false (.scratch a)) ∧
    (a % 64 = 0 → vscratchError s a = none → (vregOf (curCtx s) v.toNat).poison = none →
      (∀ p, inRanges (stepRanges s (curCtx s).step) p = false) → goes (.vst v b o c) true (.scratch a)) ∧
    (a % 64 = 0 → stateError s (curCore s) a 2048 = false → goes (.vldState v b o c) false (.state (curCore s) a)) ∧
    (a % 64 = 0 → stateError s (curCore s) a 2048 = false → (vregOf (curCtx s) v.toNat).poison = none →
      goes (.vstState v b o c) true (.state (curCore s) a))) ∧
  (∀ (d b x : BitVec 6) (s : State) (n : Word), rdS (curCtx s) x.toNat = ⟨n, none⟩ → heldWord s = none →
    (∀ l, (launchOf s l).olmode = 0#2) →
    let r := ringOf s (curCore s) b.toNat
    ringOk b r = true → (∀ a ∈ s.accs, ¬ a.id ∈ r.rel) →
    let leaves : Instr → (Ring → Prop) → Prop := fun i p => ∃ t, exec i s = .next t ∧ t.cur.hold = s.cur.hold ∧
      p (ringOf t (curCore s) b.toNat)
    (n.toNat ≤ r.count.toNat → r.claim.toNat + n.toNat ≤ r.head.toNat + r.count.toNat →
      leaves (.rclaim d b x) fun r' => r' = { r with claim := r.claim + n }) ∧
    (phaseOk (curCore s) r = true → n.toNat < r.head.toNat ∨ n.toNat < r.claim.toNat ∧ phaseByte s r n.toNat = phaseOf r n.toNat →
      leaves (.rwaitf b x) fun r' => r' = { r with stale := r.stale || decide (n.toNat + 32768 ≤ r.head.toNat) }) ∧
    (n.toNat < r.head.toNat + r.count.toNat →
      leaves (.rwaite b x) fun r' => r' = { r with stale := r.stale || decide (n.toNat + 32768 ≤ r.head.toNat) }) ∧
    (n ≠ 0#64 → r.head.toNat + n.toNat ≤ r.tail.toNat → leaves (.rrel b x) fun r' => r' = { r with head := r.head + n, rel := r'.rel }) ∧
    leaves (.rtail d b) (fun r' => r' = r) ∧
    (Memory.wf s.mem → phaseOk (curCore s) r = true → r.tail.toNat ≤ n.toNat → n.toNat < r.claim.toNat → phaseByte s r n.toNat ≠ phaseOf r n.toNat →
      leaves (.rcommit b x) fun r' => r' = { r with tail := r'.tail, rel := r'.rel } ∧ r.tail.toNat ≤ r'.tail.toNat ∧
        (n = r.tail → r.tail.toNat < r'.tail.toNat))) ∧
  (∀ (v : BitVec 6) (q : BitVec 3) (t : BitVec 4) (s : State),
    (∀ e, headQ (curCtx s) q.toNat s.clock = some e → ∃ u x, exec (.vpopq v q t) s = .next u ∧ u.cur.hold = s.cur.hold ∧
      (curEng u).pipe = (curEng s).pipe ++ [x] ∧ x.left = 2 ∧ x.poison = e.poison ∧
      queueOfCtx (curCtx u) q.toNat = (queueOfCtx (curCtx s) q.toNat).tail ∧ SameMemory s u) ∧
    ((queueOfCtx (curCtx s) q.toNat).length < queueCap (curCtx s) q.toNat → ∃ u e, exec (.vpushq v q t) s = .next u ∧
      u.cur.hold = s.cur.hold ∧ queueOfCtx (curCtx u) q.toNat = queueOfCtx (curCtx s) q.toNat ++ [e] ∧ e.ready = s.clock + 2 ∧
      e.poison = (vregOf (curCtx s) v.toNat).poison ∧ SameMemory s u) ∧
    (∀ e r, (curCtx s).ingress = e :: r → ∃ u x, exec (.vrxpop v) s = .next u ∧ u.cur.hold = s.cur.hold ∧
      (curEng u).pipe = (curEng s).pipe ++ [x] ∧ x.left = 2 ∧ x.poison = e.poison ∧ (curCtx u).ingress = r ∧ SameMemory s u)) ∧
  (∀ (s : State) (q : Nat) (l : Launch), q < 256 → findLaunch s l.lid = some (q, l) →
    (headLaunch s q = some l → l.checked = true → l.st = .queued → depMet s (l.dep 0) = true → depMet s (l.dep 1) = true →
      prevPassed s l = true → regionsFit s l = true → mayPlace s 0 = true ∨ mayPlace s 1 = true → blocked (queueOf s q) = false →
      ∃ t l', exec (.launchStart q) s = .next t ∧ findLaunch t l.lid = some (q, l') ∧ l'.st = .started) ∧
    (headLaunch s q = some l → l.checked = true → l.st = .refused → prevCompleted s l = true →
      ∃ t l', exec (.refusedLaunch q) s = .next t ∧ findLaunch t l.lid = some (q, l') ∧ l'.st = .ending 1 0x20 0#64) ∧
    (l.st = .started → finished l = true →
      ∃ t l', exec (.launchEnd l.lid) s = .next t ∧ findLaunch t l.lid = some (q, l') ∧ l'.st = .ending 0 0 0#64) ∧
    (∀ t0 b, l.budget = some (t0, b) → l.st = .started → t0 + 1000 * b < s.clock → finished l = false →
      ∃ t l', exec (.watchdogExpiry l.lid) s = .next t ∧ findLaunch t l.lid = some (q, l') ∧ l'.st = .ending 2 0x21 0#64) ∧
    (∀ g st, g < 384 → withdrawable s g 0 = true → (ctxOf s g).step = some st → st.lid = l.lid →
      ∃ t l', exec (.withdrawal g 0) s = .next t ∧ findLaunch t l.lid = some (q, l') ∧ l'.redo = l.redo ++ [(st.item, st.base, st.hi)]) ∧
    (∀ a b c, completable s q = some l → l.st = .ending a b c → ((fenOf (olFlush s l) l.fen).ol.out.any (·.1.tag == l.tag)) = false →
      a ≠ 0 ∨ (askBanks (olFlush s l) (digestNeeds l)).1 = true →
      ∃ t, exec (.completionRecord q) s = .next t ∧ (queueOf t q).qdone = (queueOf s q).qdone + 1#32 ∧
        (queueOf t q).launches = (queueOf s q).launches.filter fun y => y.lid != l.lid) ∧
    (∀ c a b, l.isCopy = true → l.st = .started → l.copied = false → copyLineOf s l = some c → c.ends = .ok (a, b) →
      (askBanks s (c.needs l)).1 = true → (copyPays (askBanks s (c.needs l)).2 l c).isSome = true →
      ∃ t l', exec (.copyRecord l.lid) s = .next t ∧ findLaunch t l.lid = some (q, l') ∧ l'.copyAt = l.copyAt + 1)) ∧
  (∀ (s : State) (k : Nat) (x : Stuck) (r : List Stuck), k < 96 → 256 ≤ (coreOf s k).stall →
    sortBy stuckLe (((List.range 4).map (4 * k + ·)).flatMap fun g => [0, 1, 2, 3, 4].flatMap fun e => stuckOf s g e) = x :: r →
    let die := dieNo (coreNo x.dest.1)
    let n := extBytes x.dest.2.2
    (dieOf s die).mere.foldl (fun a (_, b) => a + b) 0 + n ≤ 65536 → tget 0 (dieOf s die).mere (coreOf s k).fen + n ≤ 16384 →
    ∃ t, exec (.mereExtension k) s = .next t ∧ (coreOf t k).stall = 0 ∧
      tget 0 (dieOf t die).mere (coreOf s k).fen = tget 0 (dieOf s die).mere (coreOf s k).fen + n ∧
      (x.dest.2.2 < 10 → x.dest.2.1 ≤ 1 →
        tget 0 (ctxAt t x.dest.1 x.dest.2.1).qext x.dest.2.2 = tget 0 (ctxAt s x.dest.1 x.dest.2.1).qext x.dest.2.2 + 1) ∧
      (10 ≤ x.dest.2.2 → (ringOf t (coreNo x.dest.1) (x.dest.2.2 - 10)).ext =
        (ringOf s (coreNo x.dest.1) (x.dest.2.2 - 10)).ext + 1))
end

