-- ==== Sys2Proof/Laws/Memory.lean ====
section
/-! SUPPORT. Memory as a list of cells: what a read gives, what a write leaves, and the canonical form that every write keeps. -/

namespace Sys2Proof.Machine
open Sys2Proof

/-- The byte listed at a key, or 0. -/
def cellAt : List Host.Cell → Nat → Byte
  | [], _ => 0#8
  | c :: r, k => if c.1 = k then c.2 else cellAt r k

theorem cellAt_none (m : List Host.Cell) (k : Nat) (h : ∀ c ∈ m, c.1 ≠ k) : cellAt m k = 0#8 := by
  induction m with
  | nil => rfl
  | cons c r ih => simp [cellAt, h c (by simp), ih fun x hx => h x (by simp [hx])]

theorem cellAt_append (m n : List Host.Cell) (k : Nat) :
    cellAt (m ++ n) k = if (∃ c ∈ m, c.1 = k) then cellAt m k else cellAt n k := by
  induction m with
  | nil => simp
  | cons c r ih => by_cases h : c.1 = k <;> simp [cellAt, h, ih]

theorem memRun_length (n : Nat) (m : List Host.Cell) (k : Nat) : (memRun n m k).length = n := by
  fun_induction memRun <;> simp_all

@[simp] theorem memRead_length (m : List Host.Cell) (k n : Nat) : (memRead m k n).length = n := memRun_length _ _ _

@[simp] theorem readHome_length (s : State) (l : Loc) (n : Nat) : (readHome s l n).length = n := memRead_length _ _ _

/-- A run of cells whose keys do not come before it reads as its bytes. -/
theorem memRun_eq (n : Nat) (m : List Host.Cell) (k : Nat) (h : m.Pairwise fun a b => a.1 < b.1) (hk : ∀ c ∈ m, k ≤ c.1) :
    memRun n m k = (List.range n).map fun i => cellAt m (k + i) := by
  induction n generalizing m k with
  | zero => rfl
  | succ n ih =>
    rw [List.range_succ_eq_map]
    cases m with
    | nil => simp [memRun, ih [] (k + 1) .nil (by simp), cellAt, Function.comp_def]
    | cons c r =>
      obtain ⟨hc, hr⟩ := List.pairwise_cons.1 h
      simp only [memRun]
      split
      · next e =>
        rw [ih r (k + 1) hr fun x hx => by have := hc x hx; omega]
        simp only [List.map_cons, List.map_map, cellAt, e, Nat.add_zero, if_true, List.cons.injEq, true_and]
        apply List.map_congr_left
        intro i _
        simp only [Function.comp_apply, Nat.succ_eq_add_one]
        rw [if_neg (by omega)]
        congr 1
        omega
      · next e =>
        have hk' : ∀ x ∈ c :: r, k + 1 ≤ x.1 := fun x hx => by
          rcases List.mem_cons.1 hx with rfl | hx'
          · have := hk x (by simp); omega
          · have := hc x hx'; have := hk c (by simp); omega
        rw [ih (c :: r) (k + 1) h hk', List.map_cons, cellAt_none _ _ fun x hx => by have := hk' x hx; omega]
        simp only [List.map_map, List.cons.injEq, true_and]
        apply List.map_congr_left
        intro i _
        simp only [Function.comp_apply, Nat.succ_eq_add_one]
        congr 1
        omega

/-- Dropping the cells below a key changes no byte from it on. -/
theorem cellAt_dropWhile (m : List Host.Cell) (k j : Nat) (h : k ≤ j) : cellAt (m.dropWhile fun c => c.1 < k) j = cellAt m j := by
  induction m with
  | nil => rfl
  | cons c r ih =>
    rw [List.dropWhile_cons]
    split
    · next e => rw [ih, cellAt, if_neg (by simp at e; omega)]
    · rfl

theorem mem_dropWhile_le (m : List Host.Cell) (k : Nat) (h : m.Pairwise fun a b => a.1 < b.1) :
    ∀ c ∈ m.dropWhile (fun c => c.1 < k), k ≤ c.1 := by
  induction m with
  | nil => simp
  | cons a r ih =>
    obtain ⟨ha, hr⟩ := List.pairwise_cons.1 h
    rw [List.dropWhile_cons]
    split
    · exact ih hr
    · next e =>
      intro c hc
      rcases List.mem_cons.1 hc with rfl | hc'
      · simpa using e
      · have := ha c hc'; simp at e; omega

theorem mem_takeWhile_lt (m : List Host.Cell) (k : Nat) (c : Host.Cell) (h : c ∈ m.takeWhile fun c => c.1 < k) : c ∈ m ∧ c.1 < k :=
  ⟨(List.takeWhile_sublist _).subset h, of_decide_eq_true (List.all_eq_true.1 List.all_takeWhile c h)⟩

/-- A read gives the bytes listed at its keys. -/
theorem memRead_eq (m : List Host.Cell) (k n : Nat) (h : m.Pairwise fun a b => a.1 < b.1) :
    memRead m k n = (List.range n).map fun i => cellAt m (k + i) := by
  unfold memRead
  rw [memRun_eq _ _ _ (h.sublist (List.dropWhile_sublist _)) (mem_dropWhile_le m k h)]
  apply List.map_congr_left
  intro i _
  exact cellAt_dropWhile m k _ (by omega)

theorem byteAt_eq (s : State) (h : Memory.wf s.mem) (k : Nat) : byteAt s k = cellAt s.mem k := by
  simp [byteAt, memRead_eq _ _ _ h.1]

theorem mem_cellsFrom (k : Nat) (bs : List Byte) : ∀ c ∈ cellsFrom k bs, k ≤ c.1 ∧ c.1 < k + bs.length ∧ c.2 ≠ 0#8 := by
  induction bs generalizing k with
  | nil => simp [cellsFrom]
  | cons b r ih =>
    intro c hc
    simp only [cellsFrom] at hc
    split at hc
    · have := ih (k + 1) c hc; simp only [List.length_cons]; exact ⟨by omega, by omega, this.2.2⟩
    · next e =>
      rcases List.mem_cons.1 hc with rfl | hc'
      · exact ⟨Nat.le_refl _, by simp, e⟩
      · have := ih (k + 1) c hc'; simp only [List.length_cons]; exact ⟨by omega, by omega, this.2.2⟩

theorem cellsFrom_sorted (k : Nat) (bs : List Byte) : (cellsFrom k bs).Pairwise fun a b => a.1 < b.1 := by
  induction bs generalizing k with
  | nil => exact .nil
  | cons b r ih =>
    simp only [cellsFrom]
    split
    · exact ih _
    · exact List.pairwise_cons.2 ⟨fun c hc => by have := mem_cellsFrom _ _ c hc; omega, ih _⟩

theorem cellAt_cellsFrom (k : Nat) (bs : List Byte) (i : Nat) (h : i < bs.length) : cellAt (cellsFrom k bs) (k + i) = bs[i] := by
  induction bs generalizing k i with
  | nil => simp at h
  | cons b r ih =>
    simp only [cellsFrom]
    cases i with
    | zero =>
      split
      · next e =>
        rw [cellAt_none _ _ fun c hc => by have := mem_cellsFrom _ _ c hc; omega]
        simpa using e.symm
      · simp [cellAt]
    | succ i =>
      have h' : i < r.length := by simpa using h
      have := ih (k + 1) i h'
      rw [show k + 1 + i = k + (i + 1) by omega] at this
      split
      · simpa using this
      · rw [cellAt, if_neg (by simp)]; simpa using this

/-- A write keeps the canonical form. -/
theorem memSplice_wf (m : List Host.Cell) (k : Nat) (bs : List Byte) (h : Memory.wf m) : Memory.wf (memSplice m k bs) := by
  refine ⟨?_, ?_⟩
  · rw [memSplice, List.append_assoc, List.pairwise_append]
    refine ⟨h.1.sublist (List.takeWhile_sublist _), ?_, ?_⟩
    · rw [List.pairwise_append]
      refine ⟨cellsFrom_sorted _ _, h.1.sublist (List.dropWhile_sublist _), ?_⟩
      intro a ha b hb
      have := mem_cellsFrom _ _ a ha
      have := mem_dropWhile_le m _ h.1 b hb
      omega
    · intro a ha b hb
      have ha' := (mem_takeWhile_lt m k a ha).2
      rcases List.mem_append.1 hb with hb | hb
      · have := mem_cellsFrom _ _ b hb; omega
      · have := mem_dropWhile_le m _ h.1 b hb; omega
  · intro c hc
    rcases List.mem_append.1 hc with hc | hc
    · rcases List.mem_append.1 hc with hc | hc
      · exact h.2 c (mem_takeWhile_lt m k c hc).1
      · exact (mem_cellsFrom _ _ c hc).2.2
    · exact h.2 c ((List.dropWhile_sublist _).subset hc)

theorem cellAt_takeWhile (m : List Host.Cell) (k j : Nat) (h : m.Pairwise fun a b => a.1 < b.1) :
    cellAt (m.takeWhile fun c => c.1 < k) j = if j < k then cellAt m j else 0#8 := by
  induction m with
  | nil => simp [cellAt]
  | cons a r ih =>
    obtain ⟨ha, hr⟩ := List.pairwise_cons.1 h
    rw [List.takeWhile_cons]
    split
    · next e =>
      simp only [cellAt, ih hr]
      simp only [decide_eq_true_eq] at e
      split
      · rw [if_pos (by omega)]
      · rfl
    · next e =>
      simp only [decide_eq_true_eq] at e
      split
      · next hj => exact (cellAt_none (a :: r) j (fun c hc => by
          rcases List.mem_cons.1 hc with rfl | hc'
          · omega
          · have := ha c hc'; omega)).symm
      · rfl

/-- After a write the run holds what was written and every other byte is as before. -/
theorem cellAt_memSplice (m : List Host.Cell) (k : Nat) (bs : List Byte) (h : Memory.wf m) (j : Nat) :
    cellAt (memSplice m k bs) j = if h' : k ≤ j ∧ j < k + bs.length then bs[j - k]'(by omega) else cellAt m j := by
  rw [memSplice, List.append_assoc, cellAt_append]
  split
  · next e =>
    obtain ⟨c, hc, rfl⟩ := e
    have := (mem_takeWhile_lt m k c hc).2
    rw [cellAt_takeWhile m k _ h.1, if_pos this, dif_neg (by omega)]
  · next e =>
    have ht : j < k → cellAt m j = 0#8 := fun hj => by
      have := cellAt_takeWhile m k j h.1
      rw [if_pos hj] at this
      rw [← this]
      exact cellAt_none _ _ fun c hc hcj => e ⟨c, hc, hcj⟩
    rw [cellAt_append]
    split
    · next e' =>
      obtain ⟨c, hc, rfl⟩ := e'
      have := mem_cellsFrom _ _ c hc
      rw [dif_pos ⟨this.1, this.2.1⟩]
      have e2 := cellAt_cellsFrom k bs (c.1 - k) (by omega)
      rw [show k + (c.1 - k) = c.1 by omega] at e2
      exact e2
    · next e' =>
      by_cases hj : k ≤ j ∧ j < k + bs.length
      · rw [dif_pos hj, cellAt_none _ _ fun c hc => by have := mem_dropWhile_le m _ h.1 c hc; omega]
        have e2 := cellAt_cellsFrom k bs (j - k) (by omega)
        rw [show k + (j - k) = j by omega, cellAt_none _ _ fun c hc hcj => e' ⟨c, hc, hcj⟩] at e2
        exact e2
      · rw [dif_neg hj]
        by_cases hlt : j < k
        · rw [ht hlt, cellAt_none _ _ fun c hc => by have := mem_dropWhile_le m _ h.1 c hc; omega]
        · exact cellAt_dropWhile m _ _ (by omega)

theorem writeHome_wf (s : State) (l : Loc) (bs : List Byte) (h : Memory.wf s.mem) : Memory.wf (writeHome s l bs).mem :=
  memSplice_wf _ _ _ h

/-- A write leaves every byte outside its run. -/
theorem writeHome_same (s : State) (l : Loc) (bs : List Byte) (h : Memory.wf s.mem) :
    SameMemoryBut l.key bs.length s (writeHome s l bs) := by
  intro a ha
  rw [byteAt_eq _ h, byteAt_eq _ (writeHome_wf s l bs h)]
  show cellAt (memSplice _ _ _) a = _
  rw [cellAt_memSplice _ _ _ h, dif_neg (by omega)]

/-- What was written is read back. -/
theorem readHome_writeHome (s : State) (l : Loc) (bs : List Byte) (h : Memory.wf s.mem) :
    readHome (writeHome s l bs) l bs.length = bs := by
  show memRead (memSplice _ _ _) _ _ = _
  rw [memRead_eq _ _ _ (memSplice_wf _ _ _ h).1]
  apply List.ext_getElem (by simp)
  intro i h1 h2
  simp only [List.getElem_map, List.getElem_range]
  rw [cellAt_memSplice _ _ _ h, dif_pos (by omega)]
  congr 1
  omega

end Sys2Proof.Machine
end

