-- ==== Sys2Proof/Laws/State.lean ====
section
/-! SUPPORT. One lemma for each field and each update of the state: an update changes the fields that it names, and no other. -/

namespace Sys2Proof.Machine
open Sys2Proof

/-! ### setSub -/

@[simp] theorem setSub_clock (s : State) (g : Nat) (x : Sub) : (setSub s g x).clock = s.clock := rfl
@[simp] theorem setSub_mem (s : State) (g : Nat) (x : Sub) : (setSub s g x).mem = s.mem := rfl
@[simp] theorem setSub_ecc (s : State) (g : Nat) (x : Sub) : (setSub s g x).ecc = s.ecc := rfl
@[simp] theorem setSub_cores (s : State) (g : Nat) (x : Sub) : (setSub s g x).cores = s.cores := rfl
@[simp] theorem setSub_fens (s : State) (g : Nat) (x : Sub) : (setSub s g x).fens = s.fens := rfl
@[simp] theorem setSub_queues (s : State) (g : Nat) (x : Sub) : (setSub s g x).queues = s.queues := rfl
@[simp] theorem setSub_dies (s : State) (g : Nat) (x : Sub) : (setSub s g x).dies = s.dies := rfl
@[simp] theorem setSub_sessions (s : State) (g : Nat) (x : Sub) : (setSub s g x).sessions = s.sessions := rfl
@[simp] theorem setSub_batches (s : State) (g : Nat) (x : Sub) : (setSub s g x).batches = s.batches := rfl
@[simp] theorem setSub_batchNo (s : State) (g : Nat) (x : Sub) : (setSub s g x).batchNo = s.batchNo := rfl
@[simp] theorem setSub_accs (s : State) (g : Nat) (x : Sub) : (setSub s g x).accs = s.accs := rfl
@[simp] theorem setSub_posted (s : State) (g : Nat) (x : Sub) : (setSub s g x).posted = s.posted := rfl
@[simp] theorem setSub_walks (s : State) (g : Nat) (x : Sub) : (setSub s g x).walks = s.walks := rfl
@[simp] theorem setSub_frms (s : State) (g : Nat) (x : Sub) : (setSub s g x).frms = s.frms := rfl
@[simp] theorem setSub_xfers (s : State) (g : Nat) (x : Sub) : (setSub s g x).xfers = s.xfers := rfl
@[simp] theorem setSub_raises (s : State) (g : Nat) (x : Sub) : (setSub s g x).raises = s.raises := rfl
@[simp] theorem setSub_streams (s : State) (g : Nat) (x : Sub) : (setSub s g x).streams = s.streams := rfl
@[simp] theorem setSub_ring (s : State) (g : Nat) (x : Sub) : (setSub s g x).ring = s.ring := rfl
@[simp] theorem setSub_peers (s : State) (g : Nat) (x : Sub) : (setSub s g x).peers = s.peers := rfl
@[simp] theorem setSub_svc (s : State) (g : Nat) (x : Sub) : (setSub s g x).svc = s.svc := rfl
@[simp] theorem setSub_fresh (s : State) (g : Nat) (x : Sub) : (setSub s g x).fresh = s.fresh := rfl
@[simp] theorem setSub_cur (s : State) (g : Nat) (x : Sub) : (setSub s g x).cur = s.cur := rfl
@[simp] theorem setSub_turn (s : State) (g : Nat) (x : Sub) : (setSub s g x).turn = s.turn := rfl
@[simp] theorem setSub_agenda (s : State) (g : Nat) (x : Sub) : (setSub s g x).agenda = s.agenda := rfl
@[simp] theorem setSub_script (s : State) (g : Nat) (x : Sub) : (setSub s g x).script = s.script := rfl
@[simp] theorem setSub_jitter (s : State) (g : Nat) (x : Sub) : (setSub s g x).jitter = s.jitter := rfl
@[simp] theorem setSub_mesh (s : State) (g : Nat) (x : Sub) : (setSub s g x).mesh = s.mesh := rfl
@[simp] theorem setSub_hostBad (s : State) (g : Nat) (x : Sub) : (setSub s g x).hostBad = s.hostBad := rfl
@[simp] theorem setSub_seen (s : State) (g : Nat) (x : Sub) : (setSub s g x).seen = s.seen := rfl
@[simp] theorem setSub_residue (s : State) (g : Nat) (x : Sub) : (setSub s g x).residue = s.residue := rfl
@[simp] theorem setSub_free (s : State) (g : Nat) (x : Sub) : (setSub s g x).free = s.free := rfl

/-! ### modSub -/

@[simp] theorem modSub_clock (s : State) (g : Nat) (f : Sub → Sub) : (modSub s g f).clock = s.clock := rfl
@[simp] theorem modSub_mem (s : State) (g : Nat) (f : Sub → Sub) : (modSub s g f).mem = s.mem := rfl
@[simp] theorem modSub_ecc (s : State) (g : Nat) (f : Sub → Sub) : (modSub s g f).ecc = s.ecc := rfl
@[simp] theorem modSub_cores (s : State) (g : Nat) (f : Sub → Sub) : (modSub s g f).cores = s.cores := rfl
@[simp] theorem modSub_fens (s : State) (g : Nat) (f : Sub → Sub) : (modSub s g f).fens = s.fens := rfl
@[simp] theorem modSub_queues (s : State) (g : Nat) (f : Sub → Sub) : (modSub s g f).queues = s.queues := rfl
@[simp] theorem modSub_dies (s : State) (g : Nat) (f : Sub → Sub) : (modSub s g f).dies = s.dies := rfl
@[simp] theorem modSub_sessions (s : State) (g : Nat) (f : Sub → Sub) : (modSub s g f).sessions = s.sessions := rfl
@[simp] theorem modSub_batches (s : State) (g : Nat) (f : Sub → Sub) : (modSub s g f).batches = s.batches := rfl
@[simp] theorem modSub_batchNo (s : State) (g : Nat) (f : Sub → Sub) : (modSub s g f).batchNo = s.batchNo := rfl
@[simp] theorem modSub_accs (s : State) (g : Nat) (f : Sub → Sub) : (modSub s g f).accs = s.accs := rfl
@[simp] theorem modSub_posted (s : State) (g : Nat) (f : Sub → Sub) : (modSub s g f).posted = s.posted := rfl
@[simp] theorem modSub_walks (s : State) (g : Nat) (f : Sub → Sub) : (modSub s g f).walks = s.walks := rfl
@[simp] theorem modSub_frms (s : State) (g : Nat) (f : Sub → Sub) : (modSub s g f).frms = s.frms := rfl
@[simp] theorem modSub_xfers (s : State) (g : Nat) (f : Sub → Sub) : (modSub s g f).xfers = s.xfers := rfl
@[simp] theorem modSub_raises (s : State) (g : Nat) (f : Sub → Sub) : (modSub s g f).raises = s.raises := rfl
@[simp] theorem modSub_streams (s : State) (g : Nat) (f : Sub → Sub) : (modSub s g f).streams = s.streams := rfl
@[simp] theorem modSub_ring (s : State) (g : Nat) (f : Sub → Sub) : (modSub s g f).ring = s.ring := rfl
@[simp] theorem modSub_peers (s : State) (g : Nat) (f : Sub → Sub) : (modSub s g f).peers = s.peers := rfl
@[simp] theorem modSub_svc (s : State) (g : Nat) (f : Sub → Sub) : (modSub s g f).svc = s.svc := rfl
@[simp] theorem modSub_fresh (s : State) (g : Nat) (f : Sub → Sub) : (modSub s g f).fresh = s.fresh := rfl
@[simp] theorem modSub_cur (s : State) (g : Nat) (f : Sub → Sub) : (modSub s g f).cur = s.cur := rfl
@[simp] theorem modSub_turn (s : State) (g : Nat) (f : Sub → Sub) : (modSub s g f).turn = s.turn := rfl
@[simp] theorem modSub_agenda (s : State) (g : Nat) (f : Sub → Sub) : (modSub s g f).agenda = s.agenda := rfl
@[simp] theorem modSub_script (s : State) (g : Nat) (f : Sub → Sub) : (modSub s g f).script = s.script := rfl
@[simp] theorem modSub_jitter (s : State) (g : Nat) (f : Sub → Sub) : (modSub s g f).jitter = s.jitter := rfl
@[simp] theorem modSub_mesh (s : State) (g : Nat) (f : Sub → Sub) : (modSub s g f).mesh = s.mesh := rfl
@[simp] theorem modSub_hostBad (s : State) (g : Nat) (f : Sub → Sub) : (modSub s g f).hostBad = s.hostBad := rfl
@[simp] theorem modSub_seen (s : State) (g : Nat) (f : Sub → Sub) : (modSub s g f).seen = s.seen := rfl
@[simp] theorem modSub_residue (s : State) (g : Nat) (f : Sub → Sub) : (modSub s g f).residue = s.residue := rfl
@[simp] theorem modSub_free (s : State) (g : Nat) (f : Sub → Sub) : (modSub s g f).free = s.free := rfl

/-! ### setCtx -/

@[simp] theorem setCtx_clock (s : State) (g : Nat) (c : Ctx) : (setCtx s g c).clock = s.clock := rfl
@[simp] theorem setCtx_mem (s : State) (g : Nat) (c : Ctx) : (setCtx s g c).mem = s.mem := rfl
@[simp] theorem setCtx_ecc (s : State) (g : Nat) (c : Ctx) : (setCtx s g c).ecc = s.ecc := rfl
@[simp] theorem setCtx_cores (s : State) (g : Nat) (c : Ctx) : (setCtx s g c).cores = s.cores := rfl
@[simp] theorem setCtx_fens (s : State) (g : Nat) (c : Ctx) : (setCtx s g c).fens = s.fens := rfl
@[simp] theorem setCtx_queues (s : State) (g : Nat) (c : Ctx) : (setCtx s g c).queues = s.queues := rfl
@[simp] theorem setCtx_dies (s : State) (g : Nat) (c : Ctx) : (setCtx s g c).dies = s.dies := rfl
@[simp] theorem setCtx_sessions (s : State) (g : Nat) (c : Ctx) : (setCtx s g c).sessions = s.sessions := rfl
@[simp] theorem setCtx_batches (s : State) (g : Nat) (c : Ctx) : (setCtx s g c).batches = s.batches := rfl
@[simp] theorem setCtx_batchNo (s : State) (g : Nat) (c : Ctx) : (setCtx s g c).batchNo = s.batchNo := rfl
@[simp] theorem setCtx_accs (s : State) (g : Nat) (c : Ctx) : (setCtx s g c).accs = s.accs := rfl
@[simp] theorem setCtx_posted (s : State) (g : Nat) (c : Ctx) : (setCtx s g c).posted = s.posted := rfl
@[simp] theorem setCtx_walks (s : State) (g : Nat) (c : Ctx) : (setCtx s g c).walks = s.walks := rfl
@[simp] theorem setCtx_frms (s : State) (g : Nat) (c : Ctx) : (setCtx s g c).frms = s.frms := rfl
@[simp] theorem setCtx_xfers (s : State) (g : Nat) (c : Ctx) : (setCtx s g c).xfers = s.xfers := rfl
@[simp] theorem setCtx_raises (s : State) (g : Nat) (c : Ctx) : (setCtx s g c).raises = s.raises := rfl
@[simp] theorem setCtx_streams (s : State) (g : Nat) (c : Ctx) : (setCtx s g c).streams = s.streams := rfl
@[simp] theorem setCtx_ring (s : State) (g : Nat) (c : Ctx) : (setCtx s g c).ring = s.ring := rfl
@[simp] theorem setCtx_peers (s : State) (g : Nat) (c : Ctx) : (setCtx s g c).peers = s.peers := rfl
@[simp] theorem setCtx_svc (s : State) (g : Nat) (c : Ctx) : (setCtx s g c).svc = s.svc := rfl
@[simp] theorem setCtx_fresh (s : State) (g : Nat) (c : Ctx) : (setCtx s g c).fresh = s.fresh := rfl
@[simp] theorem setCtx_cur (s : State) (g : Nat) (c : Ctx) : (setCtx s g c).cur = s.cur := rfl
@[simp] theorem setCtx_turn (s : State) (g : Nat) (c : Ctx) : (setCtx s g c).turn = s.turn := rfl
@[simp] theorem setCtx_agenda (s : State) (g : Nat) (c : Ctx) : (setCtx s g c).agenda = s.agenda := rfl
@[simp] theorem setCtx_script (s : State) (g : Nat) (c : Ctx) : (setCtx s g c).script = s.script := rfl
@[simp] theorem setCtx_jitter (s : State) (g : Nat) (c : Ctx) : (setCtx s g c).jitter = s.jitter := rfl
@[simp] theorem setCtx_mesh (s : State) (g : Nat) (c : Ctx) : (setCtx s g c).mesh = s.mesh := rfl
@[simp] theorem setCtx_hostBad (s : State) (g : Nat) (c : Ctx) : (setCtx s g c).hostBad = s.hostBad := rfl
@[simp] theorem setCtx_seen (s : State) (g : Nat) (c : Ctx) : (setCtx s g c).seen = s.seen := rfl
@[simp] theorem setCtx_residue (s : State) (g : Nat) (c : Ctx) : (setCtx s g c).residue = s.residue := rfl
@[simp] theorem setCtx_free (s : State) (g : Nat) (c : Ctx) : (setCtx s g c).free = s.free := rfl

/-! ### modCtx -/

@[simp] theorem modCtx_clock (s : State) (g : Nat) (f : Ctx → Ctx) : (modCtx s g f).clock = s.clock := rfl
@[simp] theorem modCtx_mem (s : State) (g : Nat) (f : Ctx → Ctx) : (modCtx s g f).mem = s.mem := rfl
@[simp] theorem modCtx_ecc (s : State) (g : Nat) (f : Ctx → Ctx) : (modCtx s g f).ecc = s.ecc := rfl
@[simp] theorem modCtx_cores (s : State) (g : Nat) (f : Ctx → Ctx) : (modCtx s g f).cores = s.cores := rfl
@[simp] theorem modCtx_fens (s : State) (g : Nat) (f : Ctx → Ctx) : (modCtx s g f).fens = s.fens := rfl
@[simp] theorem modCtx_queues (s : State) (g : Nat) (f : Ctx → Ctx) : (modCtx s g f).queues = s.queues := rfl
@[simp] theorem modCtx_dies (s : State) (g : Nat) (f : Ctx → Ctx) : (modCtx s g f).dies = s.dies := rfl
@[simp] theorem modCtx_sessions (s : State) (g : Nat) (f : Ctx → Ctx) : (modCtx s g f).sessions = s.sessions := rfl
@[simp] theorem modCtx_batches (s : State) (g : Nat) (f : Ctx → Ctx) : (modCtx s g f).batches = s.batches := rfl
@[simp] theorem modCtx_batchNo (s : State) (g : Nat) (f : Ctx → Ctx) : (modCtx s g f).batchNo = s.batchNo := rfl
@[simp] theorem modCtx_accs (s : State) (g : Nat) (f : Ctx → Ctx) : (modCtx s g f).accs = s.accs := rfl
@[simp] theorem modCtx_posted (s : State) (g : Nat) (f : Ctx → Ctx) : (modCtx s g f).posted = s.posted := rfl
@[simp] theorem modCtx_walks (s : State) (g : Nat) (f : Ctx → Ctx) : (modCtx s g f).walks = s.walks := rfl
@[simp] theorem modCtx_frms (s : State) (g : Nat) (f : Ctx → Ctx) : (modCtx s g f).frms = s.frms := rfl
@[simp] theorem modCtx_xfers (s : State) (g : Nat) (f : Ctx → Ctx) : (modCtx s g f).xfers = s.xfers := rfl
@[simp] theorem modCtx_raises (s : State) (g : Nat) (f : Ctx → Ctx) : (modCtx s g f).raises = s.raises := rfl
@[simp] theorem modCtx_streams (s : State) (g : Nat) (f : Ctx → Ctx) : (modCtx s g f).streams = s.streams := rfl
@[simp] theorem modCtx_ring (s : State) (g : Nat) (f : Ctx → Ctx) : (modCtx s g f).ring = s.ring := rfl
@[simp] theorem modCtx_peers (s : State) (g : Nat) (f : Ctx → Ctx) : (modCtx s g f).peers = s.peers := rfl
@[simp] theorem modCtx_svc (s : State) (g : Nat) (f : Ctx → Ctx) : (modCtx s g f).svc = s.svc := rfl
@[simp] theorem modCtx_fresh (s : State) (g : Nat) (f : Ctx → Ctx) : (modCtx s g f).fresh = s.fresh := rfl
@[simp] theorem modCtx_cur (s : State) (g : Nat) (f : Ctx → Ctx) : (modCtx s g f).cur = s.cur := rfl
@[simp] theorem modCtx_turn (s : State) (g : Nat) (f : Ctx → Ctx) : (modCtx s g f).turn = s.turn := rfl
@[simp] theorem modCtx_agenda (s : State) (g : Nat) (f : Ctx → Ctx) : (modCtx s g f).agenda = s.agenda := rfl
@[simp] theorem modCtx_script (s : State) (g : Nat) (f : Ctx → Ctx) : (modCtx s g f).script = s.script := rfl
@[simp] theorem modCtx_jitter (s : State) (g : Nat) (f : Ctx → Ctx) : (modCtx s g f).jitter = s.jitter := rfl
@[simp] theorem modCtx_mesh (s : State) (g : Nat) (f : Ctx → Ctx) : (modCtx s g f).mesh = s.mesh := rfl
@[simp] theorem modCtx_hostBad (s : State) (g : Nat) (f : Ctx → Ctx) : (modCtx s g f).hostBad = s.hostBad := rfl
@[simp] theorem modCtx_seen (s : State) (g : Nat) (f : Ctx → Ctx) : (modCtx s g f).seen = s.seen := rfl
@[simp] theorem modCtx_residue (s : State) (g : Nat) (f : Ctx → Ctx) : (modCtx s g f).residue = s.residue := rfl
@[simp] theorem modCtx_free (s : State) (g : Nat) (f : Ctx → Ctx) : (modCtx s g f).free = s.free := rfl

/-! ### modCur -/

@[simp] theorem modCur_clock (s : State) (f : Ctx → Ctx) : (modCur s f).clock = s.clock := rfl
@[simp] theorem modCur_mem (s : State) (f : Ctx → Ctx) : (modCur s f).mem = s.mem := rfl
@[simp] theorem modCur_ecc (s : State) (f : Ctx → Ctx) : (modCur s f).ecc = s.ecc := rfl
@[simp] theorem modCur_cores (s : State) (f : Ctx → Ctx) : (modCur s f).cores = s.cores := rfl
@[simp] theorem modCur_fens (s : State) (f : Ctx → Ctx) : (modCur s f).fens = s.fens := rfl
@[simp] theorem modCur_queues (s : State) (f : Ctx → Ctx) : (modCur s f).queues = s.queues := rfl
@[simp] theorem modCur_dies (s : State) (f : Ctx → Ctx) : (modCur s f).dies = s.dies := rfl
@[simp] theorem modCur_sessions (s : State) (f : Ctx → Ctx) : (modCur s f).sessions = s.sessions := rfl
@[simp] theorem modCur_batches (s : State) (f : Ctx → Ctx) : (modCur s f).batches = s.batches := rfl
@[simp] theorem modCur_batchNo (s : State) (f : Ctx → Ctx) : (modCur s f).batchNo = s.batchNo := rfl
@[simp] theorem modCur_accs (s : State) (f : Ctx → Ctx) : (modCur s f).accs = s.accs := rfl
@[simp] theorem modCur_posted (s : State) (f : Ctx → Ctx) : (modCur s f).posted = s.posted := rfl
@[simp] theorem modCur_walks (s : State) (f : Ctx → Ctx) : (modCur s f).walks = s.walks := rfl
@[simp] theorem modCur_frms (s : State) (f : Ctx → Ctx) : (modCur s f).frms = s.frms := rfl
@[simp] theorem modCur_xfers (s : State) (f : Ctx → Ctx) : (modCur s f).xfers = s.xfers := rfl
@[simp] theorem modCur_raises (s : State) (f : Ctx → Ctx) : (modCur s f).raises = s.raises := rfl
@[simp] theorem modCur_streams (s : State) (f : Ctx → Ctx) : (modCur s f).streams = s.streams := rfl
@[simp] theorem modCur_ring (s : State) (f : Ctx → Ctx) : (modCur s f).ring = s.ring := rfl
@[simp] theorem modCur_peers (s : State) (f : Ctx → Ctx) : (modCur s f).peers = s.peers := rfl
@[simp] theorem modCur_svc (s : State) (f : Ctx → Ctx) : (modCur s f).svc = s.svc := rfl
@[simp] theorem modCur_fresh (s : State) (f : Ctx → Ctx) : (modCur s f).fresh = s.fresh := rfl
@[simp] theorem modCur_cur (s : State) (f : Ctx → Ctx) : (modCur s f).cur = s.cur := rfl
@[simp] theorem modCur_turn (s : State) (f : Ctx → Ctx) : (modCur s f).turn = s.turn := rfl
@[simp] theorem modCur_agenda (s : State) (f : Ctx → Ctx) : (modCur s f).agenda = s.agenda := rfl
@[simp] theorem modCur_script (s : State) (f : Ctx → Ctx) : (modCur s f).script = s.script := rfl
@[simp] theorem modCur_jitter (s : State) (f : Ctx → Ctx) : (modCur s f).jitter = s.jitter := rfl
@[simp] theorem modCur_mesh (s : State) (f : Ctx → Ctx) : (modCur s f).mesh = s.mesh := rfl
@[simp] theorem modCur_hostBad (s : State) (f : Ctx → Ctx) : (modCur s f).hostBad = s.hostBad := rfl
@[simp] theorem modCur_seen (s : State) (f : Ctx → Ctx) : (modCur s f).seen = s.seen := rfl
@[simp] theorem modCur_residue (s : State) (f : Ctx → Ctx) : (modCur s f).residue = s.residue := rfl
@[simp] theorem modCur_free (s : State) (f : Ctx → Ctx) : (modCur s f).free = s.free := rfl

/-! ### modCurEng -/

@[simp] theorem modCurEng_clock (s : State) (f : EngCtx → EngCtx) : (modCurEng s f).clock = s.clock := rfl
@[simp] theorem modCurEng_mem (s : State) (f : EngCtx → EngCtx) : (modCurEng s f).mem = s.mem := rfl
@[simp] theorem modCurEng_ecc (s : State) (f : EngCtx → EngCtx) : (modCurEng s f).ecc = s.ecc := rfl
@[simp] theorem modCurEng_cores (s : State) (f : EngCtx → EngCtx) : (modCurEng s f).cores = s.cores := rfl
@[simp] theorem modCurEng_fens (s : State) (f : EngCtx → EngCtx) : (modCurEng s f).fens = s.fens := rfl
@[simp] theorem modCurEng_queues (s : State) (f : EngCtx → EngCtx) : (modCurEng s f).queues = s.queues := rfl
@[simp] theorem modCurEng_dies (s : State) (f : EngCtx → EngCtx) : (modCurEng s f).dies = s.dies := rfl
@[simp] theorem modCurEng_sessions (s : State) (f : EngCtx → EngCtx) : (modCurEng s f).sessions = s.sessions := rfl
@[simp] theorem modCurEng_batches (s : State) (f : EngCtx → EngCtx) : (modCurEng s f).batches = s.batches := rfl
@[simp] theorem modCurEng_batchNo (s : State) (f : EngCtx → EngCtx) : (modCurEng s f).batchNo = s.batchNo := rfl
@[simp] theorem modCurEng_accs (s : State) (f : EngCtx → EngCtx) : (modCurEng s f).accs = s.accs := rfl
@[simp] theorem modCurEng_posted (s : State) (f : EngCtx → EngCtx) : (modCurEng s f).posted = s.posted := rfl
@[simp] theorem modCurEng_walks (s : State) (f : EngCtx → EngCtx) : (modCurEng s f).walks = s.walks := rfl
@[simp] theorem modCurEng_frms (s : State) (f : EngCtx → EngCtx) : (modCurEng s f).frms = s.frms := rfl
@[simp] theorem modCurEng_xfers (s : State) (f : EngCtx → EngCtx) : (modCurEng s f).xfers = s.xfers := rfl
@[simp] theorem modCurEng_raises (s : State) (f : EngCtx → EngCtx) : (modCurEng s f).raises = s.raises := rfl
@[simp] theorem modCurEng_streams (s : State) (f : EngCtx → EngCtx) : (modCurEng s f).streams = s.streams := rfl
@[simp] theorem modCurEng_ring (s : State) (f : EngCtx → EngCtx) : (modCurEng s f).ring = s.ring := rfl
@[simp] theorem modCurEng_peers (s : State) (f : EngCtx → EngCtx) : (modCurEng s f).peers = s.peers := rfl
@[simp] theorem modCurEng_svc (s : State) (f : EngCtx → EngCtx) : (modCurEng s f).svc = s.svc := rfl
@[simp] theorem modCurEng_fresh (s : State) (f : EngCtx → EngCtx) : (modCurEng s f).fresh = s.fresh := rfl
@[simp] theorem modCurEng_cur (s : State) (f : EngCtx → EngCtx) : (modCurEng s f).cur = s.cur := rfl
@[simp] theorem modCurEng_turn (s : State) (f : EngCtx → EngCtx) : (modCurEng s f).turn = s.turn := rfl
@[simp] theorem modCurEng_agenda (s : State) (f : EngCtx → EngCtx) : (modCurEng s f).agenda = s.agenda := rfl
@[simp] theorem modCurEng_script (s : State) (f : EngCtx → EngCtx) : (modCurEng s f).script = s.script := rfl
@[simp] theorem modCurEng_jitter (s : State) (f : EngCtx → EngCtx) : (modCurEng s f).jitter = s.jitter := rfl
@[simp] theorem modCurEng_mesh (s : State) (f : EngCtx → EngCtx) : (modCurEng s f).mesh = s.mesh := rfl
@[simp] theorem modCurEng_hostBad (s : State) (f : EngCtx → EngCtx) : (modCurEng s f).hostBad = s.hostBad := rfl
@[simp] theorem modCurEng_seen (s : State) (f : EngCtx → EngCtx) : (modCurEng s f).seen = s.seen := rfl
@[simp] theorem modCurEng_residue (s : State) (f : EngCtx → EngCtx) : (modCurEng s f).residue = s.residue := rfl
@[simp] theorem modCurEng_free (s : State) (f : EngCtx → EngCtx) : (modCurEng s f).free = s.free := rfl

/-! ### holdWord -/

@[simp] theorem holdWord_clock (s : State) (w : Word) : (holdWord s w).clock = s.clock := rfl
@[simp] theorem holdWord_mem (s : State) (w : Word) : (holdWord s w).mem = s.mem := rfl
@[simp] theorem holdWord_ecc (s : State) (w : Word) : (holdWord s w).ecc = s.ecc := rfl
@[simp] theorem holdWord_cores (s : State) (w : Word) : (holdWord s w).cores = s.cores := rfl
@[simp] theorem holdWord_fens (s : State) (w : Word) : (holdWord s w).fens = s.fens := rfl
@[simp] theorem holdWord_queues (s : State) (w : Word) : (holdWord s w).queues = s.queues := rfl
@[simp] theorem holdWord_dies (s : State) (w : Word) : (holdWord s w).dies = s.dies := rfl
@[simp] theorem holdWord_sessions (s : State) (w : Word) : (holdWord s w).sessions = s.sessions := rfl
@[simp] theorem holdWord_batches (s : State) (w : Word) : (holdWord s w).batches = s.batches := rfl
@[simp] theorem holdWord_batchNo (s : State) (w : Word) : (holdWord s w).batchNo = s.batchNo := rfl
@[simp] theorem holdWord_accs (s : State) (w : Word) : (holdWord s w).accs = s.accs := rfl
@[simp] theorem holdWord_posted (s : State) (w : Word) : (holdWord s w).posted = s.posted := rfl
@[simp] theorem holdWord_walks (s : State) (w : Word) : (holdWord s w).walks = s.walks := rfl
@[simp] theorem holdWord_frms (s : State) (w : Word) : (holdWord s w).frms = s.frms := rfl
@[simp] theorem holdWord_xfers (s : State) (w : Word) : (holdWord s w).xfers = s.xfers := rfl
@[simp] theorem holdWord_raises (s : State) (w : Word) : (holdWord s w).raises = s.raises := rfl
@[simp] theorem holdWord_streams (s : State) (w : Word) : (holdWord s w).streams = s.streams := rfl
@[simp] theorem holdWord_ring (s : State) (w : Word) : (holdWord s w).ring = s.ring := rfl
@[simp] theorem holdWord_peers (s : State) (w : Word) : (holdWord s w).peers = s.peers := rfl
@[simp] theorem holdWord_svc (s : State) (w : Word) : (holdWord s w).svc = s.svc := rfl
@[simp] theorem holdWord_fresh (s : State) (w : Word) : (holdWord s w).fresh = s.fresh := rfl
@[simp] theorem holdWord_cur (s : State) (w : Word) : (holdWord s w).cur = s.cur := rfl
@[simp] theorem holdWord_turn (s : State) (w : Word) : (holdWord s w).turn = s.turn := rfl
@[simp] theorem holdWord_agenda (s : State) (w : Word) : (holdWord s w).agenda = s.agenda := rfl
@[simp] theorem holdWord_script (s : State) (w : Word) : (holdWord s w).script = s.script := rfl
@[simp] theorem holdWord_jitter (s : State) (w : Word) : (holdWord s w).jitter = s.jitter := rfl
@[simp] theorem holdWord_mesh (s : State) (w : Word) : (holdWord s w).mesh = s.mesh := rfl
@[simp] theorem holdWord_hostBad (s : State) (w : Word) : (holdWord s w).hostBad = s.hostBad := rfl
@[simp] theorem holdWord_seen (s : State) (w : Word) : (holdWord s w).seen = s.seen := rfl
@[simp] theorem holdWord_residue (s : State) (w : Word) : (holdWord s w).residue = s.residue := rfl
@[simp] theorem holdWord_free (s : State) (w : Word) : (holdWord s w).free = s.free := rfl

/-! ### landIn -/

@[simp] theorem landIn_clock (s : State) (l : Landing) : (landIn s l).clock = s.clock := rfl
@[simp] theorem landIn_mem (s : State) (l : Landing) : (landIn s l).mem = s.mem := rfl
@[simp] theorem landIn_ecc (s : State) (l : Landing) : (landIn s l).ecc = s.ecc := rfl
@[simp] theorem landIn_cores (s : State) (l : Landing) : (landIn s l).cores = s.cores := rfl
@[simp] theorem landIn_fens (s : State) (l : Landing) : (landIn s l).fens = s.fens := rfl
@[simp] theorem landIn_queues (s : State) (l : Landing) : (landIn s l).queues = s.queues := rfl
@[simp] theorem landIn_dies (s : State) (l : Landing) : (landIn s l).dies = s.dies := rfl
@[simp] theorem landIn_sessions (s : State) (l : Landing) : (landIn s l).sessions = s.sessions := rfl
@[simp] theorem landIn_batches (s : State) (l : Landing) : (landIn s l).batches = s.batches := rfl
@[simp] theorem landIn_batchNo (s : State) (l : Landing) : (landIn s l).batchNo = s.batchNo := rfl
@[simp] theorem landIn_accs (s : State) (l : Landing) : (landIn s l).accs = s.accs := rfl
@[simp] theorem landIn_posted (s : State) (l : Landing) : (landIn s l).posted = s.posted := rfl
@[simp] theorem landIn_walks (s : State) (l : Landing) : (landIn s l).walks = s.walks := rfl
@[simp] theorem landIn_frms (s : State) (l : Landing) : (landIn s l).frms = s.frms := rfl
@[simp] theorem landIn_xfers (s : State) (l : Landing) : (landIn s l).xfers = s.xfers := rfl
@[simp] theorem landIn_raises (s : State) (l : Landing) : (landIn s l).raises = s.raises := rfl
@[simp] theorem landIn_streams (s : State) (l : Landing) : (landIn s l).streams = s.streams := rfl
@[simp] theorem landIn_ring (s : State) (l : Landing) : (landIn s l).ring = s.ring := rfl
@[simp] theorem landIn_peers (s : State) (l : Landing) : (landIn s l).peers = s.peers := rfl
@[simp] theorem landIn_svc (s : State) (l : Landing) : (landIn s l).svc = s.svc := rfl
@[simp] theorem landIn_fresh (s : State) (l : Landing) : (landIn s l).fresh = s.fresh := rfl
@[simp] theorem landIn_cur (s : State) (l : Landing) : (landIn s l).cur = s.cur := rfl
@[simp] theorem landIn_turn (s : State) (l : Landing) : (landIn s l).turn = s.turn := rfl
@[simp] theorem landIn_agenda (s : State) (l : Landing) : (landIn s l).agenda = s.agenda := rfl
@[simp] theorem landIn_script (s : State) (l : Landing) : (landIn s l).script = s.script := rfl
@[simp] theorem landIn_jitter (s : State) (l : Landing) : (landIn s l).jitter = s.jitter := rfl
@[simp] theorem landIn_mesh (s : State) (l : Landing) : (landIn s l).mesh = s.mesh := rfl
@[simp] theorem landIn_hostBad (s : State) (l : Landing) : (landIn s l).hostBad = s.hostBad := rfl
@[simp] theorem landIn_seen (s : State) (l : Landing) : (landIn s l).seen = s.seen := rfl
@[simp] theorem landIn_residue (s : State) (l : Landing) : (landIn s l).residue = s.residue := rfl
@[simp] theorem landIn_free (s : State) (l : Landing) : (landIn s l).free = s.free := rfl

/-! ### land -/

@[simp] theorem land_clock (s : State) (n : Nat) (d : Dest) (v : Val) : (land s n d v).clock = s.clock := rfl
@[simp] theorem land_mem (s : State) (n : Nat) (d : Dest) (v : Val) : (land s n d v).mem = s.mem := rfl
@[simp] theorem land_ecc (s : State) (n : Nat) (d : Dest) (v : Val) : (land s n d v).ecc = s.ecc := rfl
@[simp] theorem land_cores (s : State) (n : Nat) (d : Dest) (v : Val) : (land s n d v).cores = s.cores := rfl
@[simp] theorem land_fens (s : State) (n : Nat) (d : Dest) (v : Val) : (land s n d v).fens = s.fens := rfl
@[simp] theorem land_queues (s : State) (n : Nat) (d : Dest) (v : Val) : (land s n d v).queues = s.queues := rfl
@[simp] theorem land_dies (s : State) (n : Nat) (d : Dest) (v : Val) : (land s n d v).dies = s.dies := rfl
@[simp] theorem land_sessions (s : State) (n : Nat) (d : Dest) (v : Val) : (land s n d v).sessions = s.sessions := rfl
@[simp] theorem land_batches (s : State) (n : Nat) (d : Dest) (v : Val) : (land s n d v).batches = s.batches := rfl
@[simp] theorem land_batchNo (s : State) (n : Nat) (d : Dest) (v : Val) : (land s n d v).batchNo = s.batchNo := rfl
@[simp] theorem land_accs (s : State) (n : Nat) (d : Dest) (v : Val) : (land s n d v).accs = s.accs := rfl
@[simp] theorem land_posted (s : State) (n : Nat) (d : Dest) (v : Val) : (land s n d v).posted = s.posted := rfl
@[simp] theorem land_walks (s : State) (n : Nat) (d : Dest) (v : Val) : (land s n d v).walks = s.walks := rfl
@[simp] theorem land_frms (s : State) (n : Nat) (d : Dest) (v : Val) : (land s n d v).frms = s.frms := rfl
@[simp] theorem land_xfers (s : State) (n : Nat) (d : Dest) (v : Val) : (land s n d v).xfers = s.xfers := rfl
@[simp] theorem land_raises (s : State) (n : Nat) (d : Dest) (v : Val) : (land s n d v).raises = s.raises := rfl
@[simp] theorem land_streams (s : State) (n : Nat) (d : Dest) (v : Val) : (land s n d v).streams = s.streams := rfl
@[simp] theorem land_ring (s : State) (n : Nat) (d : Dest) (v : Val) : (land s n d v).ring = s.ring := rfl
@[simp] theorem land_peers (s : State) (n : Nat) (d : Dest) (v : Val) : (land s n d v).peers = s.peers := rfl
@[simp] theorem land_svc (s : State) (n : Nat) (d : Dest) (v : Val) : (land s n d v).svc = s.svc := rfl
@[simp] theorem land_fresh (s : State) (n : Nat) (d : Dest) (v : Val) : (land s n d v).fresh = s.fresh := rfl
@[simp] theorem land_cur (s : State) (n : Nat) (d : Dest) (v : Val) : (land s n d v).cur = s.cur := rfl
@[simp] theorem land_turn (s : State) (n : Nat) (d : Dest) (v : Val) : (land s n d v).turn = s.turn := rfl
@[simp] theorem land_agenda (s : State) (n : Nat) (d : Dest) (v : Val) : (land s n d v).agenda = s.agenda := rfl
@[simp] theorem land_script (s : State) (n : Nat) (d : Dest) (v : Val) : (land s n d v).script = s.script := rfl
@[simp] theorem land_jitter (s : State) (n : Nat) (d : Dest) (v : Val) : (land s n d v).jitter = s.jitter := rfl
@[simp] theorem land_mesh (s : State) (n : Nat) (d : Dest) (v : Val) : (land s n d v).mesh = s.mesh := rfl
@[simp] theorem land_hostBad (s : State) (n : Nat) (d : Dest) (v : Val) : (land s n d v).hostBad = s.hostBad := rfl
@[simp] theorem land_seen (s : State) (n : Nat) (d : Dest) (v : Val) : (land s n d v).seen = s.seen := rfl
@[simp] theorem land_residue (s : State) (n : Nat) (d : Dest) (v : Val) : (land s n d v).residue = s.residue := rfl
@[simp] theorem land_free (s : State) (n : Nat) (d : Dest) (v : Val) : (land s n d v).free = s.free := rfl

/-! ### setPending -/

@[simp] theorem setPending_clock (s : State) (d : Dest) (t : Nat) : (setPending s d t).clock = s.clock := rfl
@[simp] theorem setPending_mem (s : State) (d : Dest) (t : Nat) : (setPending s d t).mem = s.mem := rfl
@[simp] theorem setPending_ecc (s : State) (d : Dest) (t : Nat) : (setPending s d t).ecc = s.ecc := rfl
@[simp] theorem setPending_cores (s : State) (d : Dest) (t : Nat) : (setPending s d t).cores = s.cores := rfl
@[simp] theorem setPending_fens (s : State) (d : Dest) (t : Nat) : (setPending s d t).fens = s.fens := rfl
@[simp] theorem setPending_queues (s : State) (d : Dest) (t : Nat) : (setPending s d t).queues = s.queues := rfl
@[simp] theorem setPending_dies (s : State) (d : Dest) (t : Nat) : (setPending s d t).dies = s.dies := rfl
@[simp] theorem setPending_sessions (s : State) (d : Dest) (t : Nat) : (setPending s d t).sessions = s.sessions := rfl
@[simp] theorem setPending_batches (s : State) (d : Dest) (t : Nat) : (setPending s d t).batches = s.batches := rfl
@[simp] theorem setPending_batchNo (s : State) (d : Dest) (t : Nat) : (setPending s d t).batchNo = s.batchNo := rfl
@[simp] theorem setPending_accs (s : State) (d : Dest) (t : Nat) : (setPending s d t).accs = s.accs := rfl
@[simp] theorem setPending_posted (s : State) (d : Dest) (t : Nat) : (setPending s d t).posted = s.posted := rfl
@[simp] theorem setPending_walks (s : State) (d : Dest) (t : Nat) : (setPending s d t).walks = s.walks := rfl
@[simp] theorem setPending_frms (s : State) (d : Dest) (t : Nat) : (setPending s d t).frms = s.frms := rfl
@[simp] theorem setPending_xfers (s : State) (d : Dest) (t : Nat) : (setPending s d t).xfers = s.xfers := rfl
@[simp] theorem setPending_raises (s : State) (d : Dest) (t : Nat) : (setPending s d t).raises = s.raises := rfl
@[simp] theorem setPending_streams (s : State) (d : Dest) (t : Nat) : (setPending s d t).streams = s.streams := rfl
@[simp] theorem setPending_ring (s : State) (d : Dest) (t : Nat) : (setPending s d t).ring = s.ring := rfl
@[simp] theorem setPending_peers (s : State) (d : Dest) (t : Nat) : (setPending s d t).peers = s.peers := rfl
@[simp] theorem setPending_svc (s : State) (d : Dest) (t : Nat) : (setPending s d t).svc = s.svc := rfl
@[simp] theorem setPending_fresh (s : State) (d : Dest) (t : Nat) : (setPending s d t).fresh = s.fresh := rfl
@[simp] theorem setPending_cur (s : State) (d : Dest) (t : Nat) : (setPending s d t).cur = s.cur := rfl
@[simp] theorem setPending_turn (s : State) (d : Dest) (t : Nat) : (setPending s d t).turn = s.turn := rfl
@[simp] theorem setPending_agenda (s : State) (d : Dest) (t : Nat) : (setPending s d t).agenda = s.agenda := rfl
@[simp] theorem setPending_script (s : State) (d : Dest) (t : Nat) : (setPending s d t).script = s.script := rfl
@[simp] theorem setPending_jitter (s : State) (d : Dest) (t : Nat) : (setPending s d t).jitter = s.jitter := rfl
@[simp] theorem setPending_mesh (s : State) (d : Dest) (t : Nat) : (setPending s d t).mesh = s.mesh := rfl
@[simp] theorem setPending_hostBad (s : State) (d : Dest) (t : Nat) : (setPending s d t).hostBad = s.hostBad := rfl
@[simp] theorem setPending_seen (s : State) (d : Dest) (t : Nat) : (setPending s d t).seen = s.seen := rfl
@[simp] theorem setPending_residue (s : State) (d : Dest) (t : Nat) : (setPending s d t).residue = s.residue := rfl
@[simp] theorem setPending_free (s : State) (d : Dest) (t : Nat) : (setPending s d t).free = s.free := rfl

/-! ### setCore -/

@[simp] theorem setCore_clock (s : State) (k : Nat) (x : Core) : (setCore s k x).clock = s.clock := rfl
@[simp] theorem setCore_mem (s : State) (k : Nat) (x : Core) : (setCore s k x).mem = s.mem := rfl
@[simp] theorem setCore_ecc (s : State) (k : Nat) (x : Core) : (setCore s k x).ecc = s.ecc := rfl
@[simp] theorem setCore_subs (s : State) (k : Nat) (x : Core) : (setCore s k x).subs = s.subs := rfl
@[simp] theorem setCore_fens (s : State) (k : Nat) (x : Core) : (setCore s k x).fens = s.fens := rfl
@[simp] theorem setCore_queues (s : State) (k : Nat) (x : Core) : (setCore s k x).queues = s.queues := rfl
@[simp] theorem setCore_dies (s : State) (k : Nat) (x : Core) : (setCore s k x).dies = s.dies := rfl
@[simp] theorem setCore_sessions (s : State) (k : Nat) (x : Core) : (setCore s k x).sessions = s.sessions := rfl
@[simp] theorem setCore_batches (s : State) (k : Nat) (x : Core) : (setCore s k x).batches = s.batches := rfl
@[simp] theorem setCore_batchNo (s : State) (k : Nat) (x : Core) : (setCore s k x).batchNo = s.batchNo := rfl
@[simp] theorem setCore_accs (s : State) (k : Nat) (x : Core) : (setCore s k x).accs = s.accs := rfl
@[simp] theorem setCore_posted (s : State) (k : Nat) (x : Core) : (setCore s k x).posted = s.posted := rfl
@[simp] theorem setCore_walks (s : State) (k : Nat) (x : Core) : (setCore s k x).walks = s.walks := rfl
@[simp] theorem setCore_frms (s : State) (k : Nat) (x : Core) : (setCore s k x).frms = s.frms := rfl
@[simp] theorem setCore_xfers (s : State) (k : Nat) (x : Core) : (setCore s k x).xfers = s.xfers := rfl
@[simp] theorem setCore_raises (s : State) (k : Nat) (x : Core) : (setCore s k x).raises = s.raises := rfl
@[simp] theorem setCore_streams (s : State) (k : Nat) (x : Core) : (setCore s k x).streams = s.streams := rfl
@[simp] theorem setCore_ring (s : State) (k : Nat) (x : Core) : (setCore s k x).ring = s.ring := rfl
@[simp] theorem setCore_peers (s : State) (k : Nat) (x : Core) : (setCore s k x).peers = s.peers := rfl
@[simp] theorem setCore_svc (s : State) (k : Nat) (x : Core) : (setCore s k x).svc = s.svc := rfl
@[simp] theorem setCore_fresh (s : State) (k : Nat) (x : Core) : (setCore s k x).fresh = s.fresh := rfl
@[simp] theorem setCore_cur (s : State) (k : Nat) (x : Core) : (setCore s k x).cur = s.cur := rfl
@[simp] theorem setCore_turn (s : State) (k : Nat) (x : Core) : (setCore s k x).turn = s.turn := rfl
@[simp] theorem setCore_agenda (s : State) (k : Nat) (x : Core) : (setCore s k x).agenda = s.agenda := rfl
@[simp] theorem setCore_script (s : State) (k : Nat) (x : Core) : (setCore s k x).script = s.script := rfl
@[simp] theorem setCore_jitter (s : State) (k : Nat) (x : Core) : (setCore s k x).jitter = s.jitter := rfl
@[simp] theorem setCore_mesh (s : State) (k : Nat) (x : Core) : (setCore s k x).mesh = s.mesh := rfl
@[simp] theorem setCore_hostBad (s : State) (k : Nat) (x : Core) : (setCore s k x).hostBad = s.hostBad := rfl
@[simp] theorem setCore_seen (s : State) (k : Nat) (x : Core) : (setCore s k x).seen = s.seen := rfl
@[simp] theorem setCore_residue (s : State) (k : Nat) (x : Core) : (setCore s k x).residue = s.residue := rfl
@[simp] theorem setCore_free (s : State) (k : Nat) (x : Core) : (setCore s k x).free = s.free := rfl

/-! ### modCore -/

@[simp] theorem modCore_clock (s : State) (k : Nat) (f : Core → Core) : (modCore s k f).clock = s.clock := rfl
@[simp] theorem modCore_mem (s : State) (k : Nat) (f : Core → Core) : (modCore s k f).mem = s.mem := rfl
@[simp] theorem modCore_ecc (s : State) (k : Nat) (f : Core → Core) : (modCore s k f).ecc = s.ecc := rfl
@[simp] theorem modCore_subs (s : State) (k : Nat) (f : Core → Core) : (modCore s k f).subs = s.subs := rfl
@[simp] theorem modCore_fens (s : State) (k : Nat) (f : Core → Core) : (modCore s k f).fens = s.fens := rfl
@[simp] theorem modCore_queues (s : State) (k : Nat) (f : Core → Core) : (modCore s k f).queues = s.queues := rfl
@[simp] theorem modCore_dies (s : State) (k : Nat) (f : Core → Core) : (modCore s k f).dies = s.dies := rfl
@[simp] theorem modCore_sessions (s : State) (k : Nat) (f : Core → Core) : (modCore s k f).sessions = s.sessions := rfl
@[simp] theorem modCore_batches (s : State) (k : Nat) (f : Core → Core) : (modCore s k f).batches = s.batches := rfl
@[simp] theorem modCore_batchNo (s : State) (k : Nat) (f : Core → Core) : (modCore s k f).batchNo = s.batchNo := rfl
@[simp] theorem modCore_accs (s : State) (k : Nat) (f : Core → Core) : (modCore s k f).accs = s.accs := rfl
@[simp] theorem modCore_posted (s : State) (k : Nat) (f : Core → Core) : (modCore s k f).posted = s.posted := rfl
@[simp] theorem modCore_walks (s : State) (k : Nat) (f : Core → Core) : (modCore s k f).walks = s.walks := rfl
@[simp] theorem modCore_frms (s : State) (k : Nat) (f : Core → Core) : (modCore s k f).frms = s.frms := rfl
@[simp] theorem modCore_xfers (s : State) (k : Nat) (f : Core → Core) : (modCore s k f).xfers = s.xfers := rfl
@[simp] theorem modCore_raises (s : State) (k : Nat) (f : Core → Core) : (modCore s k f).raises = s.raises := rfl
@[simp] theorem modCore_streams (s : State) (k : Nat) (f : Core → Core) : (modCore s k f).streams = s.streams := rfl
@[simp] theorem modCore_ring (s : State) (k : Nat) (f : Core → Core) : (modCore s k f).ring = s.ring := rfl
@[simp] theorem modCore_peers (s : State) (k : Nat) (f : Core → Core) : (modCore s k f).peers = s.peers := rfl
@[simp] theorem modCore_svc (s : State) (k : Nat) (f : Core → Core) : (modCore s k f).svc = s.svc := rfl
@[simp] theorem modCore_fresh (s : State) (k : Nat) (f : Core → Core) : (modCore s k f).fresh = s.fresh := rfl
@[simp] theorem modCore_cur (s : State) (k : Nat) (f : Core → Core) : (modCore s k f).cur = s.cur := rfl
@[simp] theorem modCore_turn (s : State) (k : Nat) (f : Core → Core) : (modCore s k f).turn = s.turn := rfl
@[simp] theorem modCore_agenda (s : State) (k : Nat) (f : Core → Core) : (modCore s k f).agenda = s.agenda := rfl
@[simp] theorem modCore_script (s : State) (k : Nat) (f : Core → Core) : (modCore s k f).script = s.script := rfl
@[simp] theorem modCore_jitter (s : State) (k : Nat) (f : Core → Core) : (modCore s k f).jitter = s.jitter := rfl
@[simp] theorem modCore_mesh (s : State) (k : Nat) (f : Core → Core) : (modCore s k f).mesh = s.mesh := rfl
@[simp] theorem modCore_hostBad (s : State) (k : Nat) (f : Core → Core) : (modCore s k f).hostBad = s.hostBad := rfl
@[simp] theorem modCore_seen (s : State) (k : Nat) (f : Core → Core) : (modCore s k f).seen = s.seen := rfl
@[simp] theorem modCore_residue (s : State) (k : Nat) (f : Core → Core) : (modCore s k f).residue = s.residue := rfl
@[simp] theorem modCore_free (s : State) (k : Nat) (f : Core → Core) : (modCore s k f).free = s.free := rfl

/-! ### setRing -/

@[simp] theorem setRing_clock (s : State) (k b : Nat) (r : Ring) : (setRing s k b r).clock = s.clock := rfl
@[simp] theorem setRing_mem (s : State) (k b : Nat) (r : Ring) : (setRing s k b r).mem = s.mem := rfl
@[simp] theorem setRing_ecc (s : State) (k b : Nat) (r : Ring) : (setRing s k b r).ecc = s.ecc := rfl
@[simp] theorem setRing_subs (s : State) (k b : Nat) (r : Ring) : (setRing s k b r).subs = s.subs := rfl
@[simp] theorem setRing_fens (s : State) (k b : Nat) (r : Ring) : (setRing s k b r).fens = s.fens := rfl
@[simp] theorem setRing_queues (s : State) (k b : Nat) (r : Ring) : (setRing s k b r).queues = s.queues := rfl
@[simp] theorem setRing_dies (s : State) (k b : Nat) (r : Ring) : (setRing s k b r).dies = s.dies := rfl
@[simp] theorem setRing_sessions (s : State) (k b : Nat) (r : Ring) : (setRing s k b r).sessions = s.sessions := rfl
@[simp] theorem setRing_batches (s : State) (k b : Nat) (r : Ring) : (setRing s k b r).batches = s.batches := rfl
@[simp] theorem setRing_batchNo (s : State) (k b : Nat) (r : Ring) : (setRing s k b r).batchNo = s.batchNo := rfl
@[simp] theorem setRing_accs (s : State) (k b : Nat) (r : Ring) : (setRing s k b r).accs = s.accs := rfl
@[simp] theorem setRing_posted (s : State) (k b : Nat) (r : Ring) : (setRing s k b r).posted = s.posted := rfl
@[simp] theorem setRing_walks (s : State) (k b : Nat) (r : Ring) : (setRing s k b r).walks = s.walks := rfl
@[simp] theorem setRing_frms (s : State) (k b : Nat) (r : Ring) : (setRing s k b r).frms = s.frms := rfl
@[simp] theorem setRing_xfers (s : State) (k b : Nat) (r : Ring) : (setRing s k b r).xfers = s.xfers := rfl
@[simp] theorem setRing_raises (s : State) (k b : Nat) (r : Ring) : (setRing s k b r).raises = s.raises := rfl
@[simp] theorem setRing_streams (s : State) (k b : Nat) (r : Ring) : (setRing s k b r).streams = s.streams := rfl
@[simp] theorem setRing_ring (s : State) (k b : Nat) (r : Ring) : (setRing s k b r).ring = s.ring := rfl
@[simp] theorem setRing_peers (s : State) (k b : Nat) (r : Ring) : (setRing s k b r).peers = s.peers := rfl
@[simp] theorem setRing_svc (s : State) (k b : Nat) (r : Ring) : (setRing s k b r).svc = s.svc := rfl
@[simp] theorem setRing_fresh (s : State) (k b : Nat) (r : Ring) : (setRing s k b r).fresh = s.fresh := rfl
@[simp] theorem setRing_cur (s : State) (k b : Nat) (r : Ring) : (setRing s k b r).cur = s.cur := rfl
@[simp] theorem setRing_turn (s : State) (k b : Nat) (r : Ring) : (setRing s k b r).turn = s.turn := rfl
@[simp] theorem setRing_agenda (s : State) (k b : Nat) (r : Ring) : (setRing s k b r).agenda = s.agenda := rfl
@[simp] theorem setRing_script (s : State) (k b : Nat) (r : Ring) : (setRing s k b r).script = s.script := rfl
@[simp] theorem setRing_jitter (s : State) (k b : Nat) (r : Ring) : (setRing s k b r).jitter = s.jitter := rfl
@[simp] theorem setRing_mesh (s : State) (k b : Nat) (r : Ring) : (setRing s k b r).mesh = s.mesh := rfl
@[simp] theorem setRing_hostBad (s : State) (k b : Nat) (r : Ring) : (setRing s k b r).hostBad = s.hostBad := rfl
@[simp] theorem setRing_seen (s : State) (k b : Nat) (r : Ring) : (setRing s k b r).seen = s.seen := rfl
@[simp] theorem setRing_residue (s : State) (k b : Nat) (r : Ring) : (setRing s k b r).residue = s.residue := rfl
@[simp] theorem setRing_free (s : State) (k b : Nat) (r : Ring) : (setRing s k b r).free = s.free := rfl

/-! ### setFen -/

@[simp] theorem setFen_clock (s : State) (i : Nat) (x : Fen) : (setFen s i x).clock = s.clock := rfl
@[simp] theorem setFen_mem (s : State) (i : Nat) (x : Fen) : (setFen s i x).mem = s.mem := rfl
@[simp] theorem setFen_ecc (s : State) (i : Nat) (x : Fen) : (setFen s i x).ecc = s.ecc := rfl
@[simp] theorem setFen_cores (s : State) (i : Nat) (x : Fen) : (setFen s i x).cores = s.cores := rfl
@[simp] theorem setFen_subs (s : State) (i : Nat) (x : Fen) : (setFen s i x).subs = s.subs := rfl
@[simp] theorem setFen_queues (s : State) (i : Nat) (x : Fen) : (setFen s i x).queues = s.queues := rfl
@[simp] theorem setFen_dies (s : State) (i : Nat) (x : Fen) : (setFen s i x).dies = s.dies := rfl
@[simp] theorem setFen_sessions (s : State) (i : Nat) (x : Fen) : (setFen s i x).sessions = s.sessions := rfl
@[simp] theorem setFen_batches (s : State) (i : Nat) (x : Fen) : (setFen s i x).batches = s.batches := rfl
@[simp] theorem setFen_batchNo (s : State) (i : Nat) (x : Fen) : (setFen s i x).batchNo = s.batchNo := rfl
@[simp] theorem setFen_accs (s : State) (i : Nat) (x : Fen) : (setFen s i x).accs = s.accs := rfl
@[simp] theorem setFen_posted (s : State) (i : Nat) (x : Fen) : (setFen s i x).posted = s.posted := rfl
@[simp] theorem setFen_walks (s : State) (i : Nat) (x : Fen) : (setFen s i x).walks = s.walks := rfl
@[simp] theorem setFen_frms (s : State) (i : Nat) (x : Fen) : (setFen s i x).frms = s.frms := rfl
@[simp] theorem setFen_xfers (s : State) (i : Nat) (x : Fen) : (setFen s i x).xfers = s.xfers := rfl
@[simp] theorem setFen_raises (s : State) (i : Nat) (x : Fen) : (setFen s i x).raises = s.raises := rfl
@[simp] theorem setFen_streams (s : State) (i : Nat) (x : Fen) : (setFen s i x).streams = s.streams := rfl
@[simp] theorem setFen_ring (s : State) (i : Nat) (x : Fen) : (setFen s i x).ring = s.ring := rfl
@[simp] theorem setFen_peers (s : State) (i : Nat) (x : Fen) : (setFen s i x).peers = s.peers := rfl
@[simp] theorem setFen_svc (s : State) (i : Nat) (x : Fen) : (setFen s i x).svc = s.svc := rfl
@[simp] theorem setFen_fresh (s : State) (i : Nat) (x : Fen) : (setFen s i x).fresh = s.fresh := rfl
@[simp] theorem setFen_cur (s : State) (i : Nat) (x : Fen) : (setFen s i x).cur = s.cur := rfl
@[simp] theorem setFen_turn (s : State) (i : Nat) (x : Fen) : (setFen s i x).turn = s.turn := rfl
@[simp] theorem setFen_agenda (s : State) (i : Nat) (x : Fen) : (setFen s i x).agenda = s.agenda := rfl
@[simp] theorem setFen_script (s : State) (i : Nat) (x : Fen) : (setFen s i x).script = s.script := rfl
@[simp] theorem setFen_jitter (s : State) (i : Nat) (x : Fen) : (setFen s i x).jitter = s.jitter := rfl
@[simp] theorem setFen_mesh (s : State) (i : Nat) (x : Fen) : (setFen s i x).mesh = s.mesh := rfl
@[simp] theorem setFen_hostBad (s : State) (i : Nat) (x : Fen) : (setFen s i x).hostBad = s.hostBad := rfl
@[simp] theorem setFen_seen (s : State) (i : Nat) (x : Fen) : (setFen s i x).seen = s.seen := rfl
@[simp] theorem setFen_residue (s : State) (i : Nat) (x : Fen) : (setFen s i x).residue = s.residue := rfl
@[simp] theorem setFen_free (s : State) (i : Nat) (x : Fen) : (setFen s i x).free = s.free := rfl

/-! ### modFen -/

@[simp] theorem modFen_clock (s : State) (i : Nat) (f : Fen → Fen) : (modFen s i f).clock = s.clock := rfl
@[simp] theorem modFen_mem (s : State) (i : Nat) (f : Fen → Fen) : (modFen s i f).mem = s.mem := rfl
@[simp] theorem modFen_ecc (s : State) (i : Nat) (f : Fen → Fen) : (modFen s i f).ecc = s.ecc := rfl
@[simp] theorem modFen_cores (s : State) (i : Nat) (f : Fen → Fen) : (modFen s i f).cores = s.cores := rfl
@[simp] theorem modFen_subs (s : State) (i : Nat) (f : Fen → Fen) : (modFen s i f).subs = s.subs := rfl
@[simp] theorem modFen_queues (s : State) (i : Nat) (f : Fen → Fen) : (modFen s i f).queues = s.queues := rfl
@[simp] theorem modFen_dies (s : State) (i : Nat) (f : Fen → Fen) : (modFen s i f).dies = s.dies := rfl
@[simp] theorem modFen_sessions (s : State) (i : Nat) (f : Fen → Fen) : (modFen s i f).sessions = s.sessions := rfl
@[simp] theorem modFen_batches (s : State) (i : Nat) (f : Fen → Fen) : (modFen s i f).batches = s.batches := rfl
@[simp] theorem modFen_batchNo (s : State) (i : Nat) (f : Fen → Fen) : (modFen s i f).batchNo = s.batchNo := rfl
@[simp] theorem modFen_accs (s : State) (i : Nat) (f : Fen → Fen) : (modFen s i f).accs = s.accs := rfl
@[simp] theorem modFen_posted (s : State) (i : Nat) (f : Fen → Fen) : (modFen s i f).posted = s.posted := rfl
@[simp] theorem modFen_walks (s : State) (i : Nat) (f : Fen → Fen) : (modFen s i f).walks = s.walks := rfl
@[simp] theorem modFen_frms (s : State) (i : Nat) (f : Fen → Fen) : (modFen s i f).frms = s.frms := rfl
@[simp] theorem modFen_xfers (s : State) (i : Nat) (f : Fen → Fen) : (modFen s i f).xfers = s.xfers := rfl
@[simp] theorem modFen_raises (s : State) (i : Nat) (f : Fen → Fen) : (modFen s i f).raises = s.raises := rfl
@[simp] theorem modFen_streams (s : State) (i : Nat) (f : Fen → Fen) : (modFen s i f).streams = s.streams := rfl
@[simp] theorem modFen_ring (s : State) (i : Nat) (f : Fen → Fen) : (modFen s i f).ring = s.ring := rfl
@[simp] theorem modFen_peers (s : State) (i : Nat) (f : Fen → Fen) : (modFen s i f).peers = s.peers := rfl
@[simp] theorem modFen_svc (s : State) (i : Nat) (f : Fen → Fen) : (modFen s i f).svc = s.svc := rfl
@[simp] theorem modFen_fresh (s : State) (i : Nat) (f : Fen → Fen) : (modFen s i f).fresh = s.fresh := rfl
@[simp] theorem modFen_cur (s : State) (i : Nat) (f : Fen → Fen) : (modFen s i f).cur = s.cur := rfl
@[simp] theorem modFen_turn (s : State) (i : Nat) (f : Fen → Fen) : (modFen s i f).turn = s.turn := rfl
@[simp] theorem modFen_agenda (s : State) (i : Nat) (f : Fen → Fen) : (modFen s i f).agenda = s.agenda := rfl
@[simp] theorem modFen_script (s : State) (i : Nat) (f : Fen → Fen) : (modFen s i f).script = s.script := rfl
@[simp] theorem modFen_jitter (s : State) (i : Nat) (f : Fen → Fen) : (modFen s i f).jitter = s.jitter := rfl
@[simp] theorem modFen_mesh (s : State) (i : Nat) (f : Fen → Fen) : (modFen s i f).mesh = s.mesh := rfl
@[simp] theorem modFen_hostBad (s : State) (i : Nat) (f : Fen → Fen) : (modFen s i f).hostBad = s.hostBad := rfl
@[simp] theorem modFen_seen (s : State) (i : Nat) (f : Fen → Fen) : (modFen s i f).seen = s.seen := rfl
@[simp] theorem modFen_residue (s : State) (i : Nat) (f : Fen → Fen) : (modFen s i f).residue = s.residue := rfl
@[simp] theorem modFen_free (s : State) (i : Nat) (f : Fen → Fen) : (modFen s i f).free = s.free := rfl

/-! ### count -/

@[simp] theorem count_clock (s : State) (f n k : Nat) : (count s f n k).clock = s.clock := rfl
@[simp] theorem count_mem (s : State) (f n k : Nat) : (count s f n k).mem = s.mem := rfl
@[simp] theorem count_ecc (s : State) (f n k : Nat) : (count s f n k).ecc = s.ecc := rfl
@[simp] theorem count_cores (s : State) (f n k : Nat) : (count s f n k).cores = s.cores := rfl
@[simp] theorem count_subs (s : State) (f n k : Nat) : (count s f n k).subs = s.subs := rfl
@[simp] theorem count_queues (s : State) (f n k : Nat) : (count s f n k).queues = s.queues := rfl
@[simp] theorem count_dies (s : State) (f n k : Nat) : (count s f n k).dies = s.dies := rfl
@[simp] theorem count_sessions (s : State) (f n k : Nat) : (count s f n k).sessions = s.sessions := rfl
@[simp] theorem count_batches (s : State) (f n k : Nat) : (count s f n k).batches = s.batches := rfl
@[simp] theorem count_batchNo (s : State) (f n k : Nat) : (count s f n k).batchNo = s.batchNo := rfl
@[simp] theorem count_accs (s : State) (f n k : Nat) : (count s f n k).accs = s.accs := rfl
@[simp] theorem count_posted (s : State) (f n k : Nat) : (count s f n k).posted = s.posted := rfl
@[simp] theorem count_walks (s : State) (f n k : Nat) : (count s f n k).walks = s.walks := rfl
@[simp] theorem count_frms (s : State) (f n k : Nat) : (count s f n k).frms = s.frms := rfl
@[simp] theorem count_xfers (s : State) (f n k : Nat) : (count s f n k).xfers = s.xfers := rfl
@[simp] theorem count_raises (s : State) (f n k : Nat) : (count s f n k).raises = s.raises := rfl
@[simp] theorem count_streams (s : State) (f n k : Nat) : (count s f n k).streams = s.streams := rfl
@[simp] theorem count_ring (s : State) (f n k : Nat) : (count s f n k).ring = s.ring := rfl
@[simp] theorem count_peers (s : State) (f n k : Nat) : (count s f n k).peers = s.peers := rfl
@[simp] theorem count_svc (s : State) (f n k : Nat) : (count s f n k).svc = s.svc := rfl
@[simp] theorem count_fresh (s : State) (f n k : Nat) : (count s f n k).fresh = s.fresh := rfl
@[simp] theorem count_cur (s : State) (f n k : Nat) : (count s f n k).cur = s.cur := rfl
@[simp] theorem count_turn (s : State) (f n k : Nat) : (count s f n k).turn = s.turn := rfl
@[simp] theorem count_agenda (s : State) (f n k : Nat) : (count s f n k).agenda = s.agenda := rfl
@[simp] theorem count_script (s : State) (f n k : Nat) : (count s f n k).script = s.script := rfl
@[simp] theorem count_jitter (s : State) (f n k : Nat) : (count s f n k).jitter = s.jitter := rfl
@[simp] theorem count_mesh (s : State) (f n k : Nat) : (count s f n k).mesh = s.mesh := rfl
@[simp] theorem count_hostBad (s : State) (f n k : Nat) : (count s f n k).hostBad = s.hostBad := rfl
@[simp] theorem count_seen (s : State) (f n k : Nat) : (count s f n k).seen = s.seen := rfl
@[simp] theorem count_residue (s : State) (f n k : Nat) : (count s f n k).residue = s.residue := rfl
@[simp] theorem count_free (s : State) (f n k : Nat) : (count s f n k).free = s.free := rfl

/-! ### setQueue -/

@[simp] theorem setQueue_clock (s : State) (q : Nat) (x : LQueue) : (setQueue s q x).clock = s.clock := rfl
@[simp] theorem setQueue_mem (s : State) (q : Nat) (x : LQueue) : (setQueue s q x).mem = s.mem := rfl
@[simp] theorem setQueue_ecc (s : State) (q : Nat) (x : LQueue) : (setQueue s q x).ecc = s.ecc := rfl
@[simp] theorem setQueue_cores (s : State) (q : Nat) (x : LQueue) : (setQueue s q x).cores = s.cores := rfl
@[simp] theorem setQueue_subs (s : State) (q : Nat) (x : LQueue) : (setQueue s q x).subs = s.subs := rfl
@[simp] theorem setQueue_fens (s : State) (q : Nat) (x : LQueue) : (setQueue s q x).fens = s.fens := rfl
@[simp] theorem setQueue_dies (s : State) (q : Nat) (x : LQueue) : (setQueue s q x).dies = s.dies := rfl
@[simp] theorem setQueue_sessions (s : State) (q : Nat) (x : LQueue) : (setQueue s q x).sessions = s.sessions := rfl
@[simp] theorem setQueue_batches (s : State) (q : Nat) (x : LQueue) : (setQueue s q x).batches = s.batches := rfl
@[simp] theorem setQueue_batchNo (s : State) (q : Nat) (x : LQueue) : (setQueue s q x).batchNo = s.batchNo := rfl
@[simp] theorem setQueue_accs (s : State) (q : Nat) (x : LQueue) : (setQueue s q x).accs = s.accs := rfl
@[simp] theorem setQueue_posted (s : State) (q : Nat) (x : LQueue) : (setQueue s q x).posted = s.posted := rfl
@[simp] theorem setQueue_walks (s : State) (q : Nat) (x : LQueue) : (setQueue s q x).walks = s.walks := rfl
@[simp] theorem setQueue_frms (s : State) (q : Nat) (x : LQueue) : (setQueue s q x).frms = s.frms := rfl
@[simp] theorem setQueue_xfers (s : State) (q : Nat) (x : LQueue) : (setQueue s q x).xfers = s.xfers := rfl
@[simp] theorem setQueue_raises (s : State) (q : Nat) (x : LQueue) : (setQueue s q x).raises = s.raises := rfl
@[simp] theorem setQueue_streams (s : State) (q : Nat) (x : LQueue) : (setQueue s q x).streams = s.streams := rfl
@[simp] theorem setQueue_ring (s : State) (q : Nat) (x : LQueue) : (setQueue s q x).ring = s.ring := rfl
@[simp] theorem setQueue_peers (s : State) (q : Nat) (x : LQueue) : (setQueue s q x).peers = s.peers := rfl
@[simp] theorem setQueue_svc (s : State) (q : Nat) (x : LQueue) : (setQueue s q x).svc = s.svc := rfl
@[simp] theorem setQueue_fresh (s : State) (q : Nat) (x : LQueue) : (setQueue s q x).fresh = s.fresh := rfl
@[simp] theorem setQueue_cur (s : State) (q : Nat) (x : LQueue) : (setQueue s q x).cur = s.cur := rfl
@[simp] theorem setQueue_turn (s : State) (q : Nat) (x : LQueue) : (setQueue s q x).turn = s.turn := rfl
@[simp] theorem setQueue_agenda (s : State) (q : Nat) (x : LQueue) : (setQueue s q x).agenda = s.agenda := rfl
@[simp] theorem setQueue_script (s : State) (q : Nat) (x : LQueue) : (setQueue s q x).script = s.script := rfl
@[simp] theorem setQueue_jitter (s : State) (q : Nat) (x : LQueue) : (setQueue s q x).jitter = s.jitter := rfl
@[simp] theorem setQueue_mesh (s : State) (q : Nat) (x : LQueue) : (setQueue s q x).mesh = s.mesh := rfl
@[simp] theorem setQueue_hostBad (s : State) (q : Nat) (x : LQueue) : (setQueue s q x).hostBad = s.hostBad := rfl
@[simp] theorem setQueue_seen (s : State) (q : Nat) (x : LQueue) : (setQueue s q x).seen = s.seen := rfl
@[simp] theorem setQueue_residue (s : State) (q : Nat) (x : LQueue) : (setQueue s q x).residue = s.residue := rfl
@[simp] theorem setQueue_free (s : State) (q : Nat) (x : LQueue) : (setQueue s q x).free = s.free := rfl

/-! ### modQueue -/

@[simp] theorem modQueue_clock (s : State) (q : Nat) (f : LQueue → LQueue) : (modQueue s q f).clock = s.clock := rfl
@[simp] theorem modQueue_mem (s : State) (q : Nat) (f : LQueue → LQueue) : (modQueue s q f).mem = s.mem := rfl
@[simp] theorem modQueue_ecc (s : State) (q : Nat) (f : LQueue → LQueue) : (modQueue s q f).ecc = s.ecc := rfl
@[simp] theorem modQueue_cores (s : State) (q : Nat) (f : LQueue → LQueue) : (modQueue s q f).cores = s.cores := rfl
@[simp] theorem modQueue_subs (s : State) (q : Nat) (f : LQueue → LQueue) : (modQueue s q f).subs = s.subs := rfl
@[simp] theorem modQueue_fens (s : State) (q : Nat) (f : LQueue → LQueue) : (modQueue s q f).fens = s.fens := rfl
@[simp] theorem modQueue_dies (s : State) (q : Nat) (f : LQueue → LQueue) : (modQueue s q f).dies = s.dies := rfl
@[simp] theorem modQueue_sessions (s : State) (q : Nat) (f : LQueue → LQueue) : (modQueue s q f).sessions = s.sessions := rfl
@[simp] theorem modQueue_batches (s : State) (q : Nat) (f : LQueue → LQueue) : (modQueue s q f).batches = s.batches := rfl
@[simp] theorem modQueue_batchNo (s : State) (q : Nat) (f : LQueue → LQueue) : (modQueue s q f).batchNo = s.batchNo := rfl
@[simp] theorem modQueue_accs (s : State) (q : Nat) (f : LQueue → LQueue) : (modQueue s q f).accs = s.accs := rfl
@[simp] theorem modQueue_posted (s : State) (q : Nat) (f : LQueue → LQueue) : (modQueue s q f).posted = s.posted := rfl
@[simp] theorem modQueue_walks (s : State) (q : Nat) (f : LQueue → LQueue) : (modQueue s q f).walks = s.walks := rfl
@[simp] theorem modQueue_frms (s : State) (q : Nat) (f : LQueue → LQueue) : (modQueue s q f).frms = s.frms := rfl
@[simp] theorem modQueue_xfers (s : State) (q : Nat) (f : LQueue → LQueue) : (modQueue s q f).xfers = s.xfers := rfl
@[simp] theorem modQueue_raises (s : State) (q : Nat) (f : LQueue → LQueue) : (modQueue s q f).raises = s.raises := rfl
@[simp] theorem modQueue_streams (s : State) (q : Nat) (f : LQueue → LQueue) : (modQueue s q f).streams = s.streams := rfl
@[simp] theorem modQueue_ring (s : State) (q : Nat) (f : LQueue → LQueue) : (modQueue s q f).ring = s.ring := rfl
@[simp] theorem modQueue_peers (s : State) (q : Nat) (f : LQueue → LQueue) : (modQueue s q f).peers = s.peers := rfl
@[simp] theorem modQueue_svc (s : State) (q : Nat) (f : LQueue → LQueue) : (modQueue s q f).svc = s.svc := rfl
@[simp] theorem modQueue_fresh (s : State) (q : Nat) (f : LQueue → LQueue) : (modQueue s q f).fresh = s.fresh := rfl
@[simp] theorem modQueue_cur (s : State) (q : Nat) (f : LQueue → LQueue) : (modQueue s q f).cur = s.cur := rfl
@[simp] theorem modQueue_turn (s : State) (q : Nat) (f : LQueue → LQueue) : (modQueue s q f).turn = s.turn := rfl
@[simp] theorem modQueue_agenda (s : State) (q : Nat) (f : LQueue → LQueue) : (modQueue s q f).agenda = s.agenda := rfl
@[simp] theorem modQueue_script (s : State) (q : Nat) (f : LQueue → LQueue) : (modQueue s q f).script = s.script := rfl
@[simp] theorem modQueue_jitter (s : State) (q : Nat) (f : LQueue → LQueue) : (modQueue s q f).jitter = s.jitter := rfl
@[simp] theorem modQueue_mesh (s : State) (q : Nat) (f : LQueue → LQueue) : (modQueue s q f).mesh = s.mesh := rfl
@[simp] theorem modQueue_hostBad (s : State) (q : Nat) (f : LQueue → LQueue) : (modQueue s q f).hostBad = s.hostBad := rfl
@[simp] theorem modQueue_seen (s : State) (q : Nat) (f : LQueue → LQueue) : (modQueue s q f).seen = s.seen := rfl
@[simp] theorem modQueue_residue (s : State) (q : Nat) (f : LQueue → LQueue) : (modQueue s q f).residue = s.residue := rfl
@[simp] theorem modQueue_free (s : State) (q : Nat) (f : LQueue → LQueue) : (modQueue s q f).free = s.free := rfl

/-! ### setDie -/

@[simp] theorem setDie_clock (s : State) (d : Nat) (x : Die) : (setDie s d x).clock = s.clock := rfl
@[simp] theorem setDie_mem (s : State) (d : Nat) (x : Die) : (setDie s d x).mem = s.mem := rfl
@[simp] theorem setDie_ecc (s : State) (d : Nat) (x : Die) : (setDie s d x).ecc = s.ecc := rfl
@[simp] theorem setDie_cores (s : State) (d : Nat) (x : Die) : (setDie s d x).cores = s.cores := rfl
@[simp] theorem setDie_subs (s : State) (d : Nat) (x : Die) : (setDie s d x).subs = s.subs := rfl
@[simp] theorem setDie_fens (s : State) (d : Nat) (x : Die) : (setDie s d x).fens = s.fens := rfl
@[simp] theorem setDie_queues (s : State) (d : Nat) (x : Die) : (setDie s d x).queues = s.queues := rfl
@[simp] theorem setDie_sessions (s : State) (d : Nat) (x : Die) : (setDie s d x).sessions = s.sessions := rfl
@[simp] theorem setDie_batches (s : State) (d : Nat) (x : Die) : (setDie s d x).batches = s.batches := rfl
@[simp] theorem setDie_batchNo (s : State) (d : Nat) (x : Die) : (setDie s d x).batchNo = s.batchNo := rfl
@[simp] theorem setDie_accs (s : State) (d : Nat) (x : Die) : (setDie s d x).accs = s.accs := rfl
@[simp] theorem setDie_posted (s : State) (d : Nat) (x : Die) : (setDie s d x).posted = s.posted := rfl
@[simp] theorem setDie_walks (s : State) (d : Nat) (x : Die) : (setDie s d x).walks = s.walks := rfl
@[simp] theorem setDie_frms (s : State) (d : Nat) (x : Die) : (setDie s d x).frms = s.frms := rfl
@[simp] theorem setDie_xfers (s : State) (d : Nat) (x : Die) : (setDie s d x).xfers = s.xfers := rfl
@[simp] theorem setDie_raises (s : State) (d : Nat) (x : Die) : (setDie s d x).raises = s.raises := rfl
@[simp] theorem setDie_streams (s : State) (d : Nat) (x : Die) : (setDie s d x).streams = s.streams := rfl
@[simp] theorem setDie_ring (s : State) (d : Nat) (x : Die) : (setDie s d x).ring = s.ring := rfl
@[simp] theorem setDie_peers (s : State) (d : Nat) (x : Die) : (setDie s d x).peers = s.peers := rfl
@[simp] theorem setDie_svc (s : State) (d : Nat) (x : Die) : (setDie s d x).svc = s.svc := rfl
@[simp] theorem setDie_fresh (s : State) (d : Nat) (x : Die) : (setDie s d x).fresh = s.fresh := rfl
@[simp] theorem setDie_cur (s : State) (d : Nat) (x : Die) : (setDie s d x).cur = s.cur := rfl
@[simp] theorem setDie_turn (s : State) (d : Nat) (x : Die) : (setDie s d x).turn = s.turn := rfl
@[simp] theorem setDie_agenda (s : State) (d : Nat) (x : Die) : (setDie s d x).agenda = s.agenda := rfl
@[simp] theorem setDie_script (s : State) (d : Nat) (x : Die) : (setDie s d x).script = s.script := rfl
@[simp] theorem setDie_jitter (s : State) (d : Nat) (x : Die) : (setDie s d x).jitter = s.jitter := rfl
@[simp] theorem setDie_mesh (s : State) (d : Nat) (x : Die) : (setDie s d x).mesh = s.mesh := rfl
@[simp] theorem setDie_hostBad (s : State) (d : Nat) (x : Die) : (setDie s d x).hostBad = s.hostBad := rfl
@[simp] theorem setDie_seen (s : State) (d : Nat) (x : Die) : (setDie s d x).seen = s.seen := rfl
@[simp] theorem setDie_residue (s : State) (d : Nat) (x : Die) : (setDie s d x).residue = s.residue := rfl
@[simp] theorem setDie_free (s : State) (d : Nat) (x : Die) : (setDie s d x).free = s.free := rfl

/-! ### modDie -/

@[simp] theorem modDie_clock (s : State) (d : Nat) (f : Die → Die) : (modDie s d f).clock = s.clock := rfl
@[simp] theorem modDie_mem (s : State) (d : Nat) (f : Die → Die) : (modDie s d f).mem = s.mem := rfl
@[simp] theorem modDie_ecc (s : State) (d : Nat) (f : Die → Die) : (modDie s d f).ecc = s.ecc := rfl
@[simp] theorem modDie_cores (s : State) (d : Nat) (f : Die → Die) : (modDie s d f).cores = s.cores := rfl
@[simp] theorem modDie_subs (s : State) (d : Nat) (f : Die → Die) : (modDie s d f).subs = s.subs := rfl
@[simp] theorem modDie_fens (s : State) (d : Nat) (f : Die → Die) : (modDie s d f).fens = s.fens := rfl
@[simp] theorem modDie_queues (s : State) (d : Nat) (f : Die → Die) : (modDie s d f).queues = s.queues := rfl
@[simp] theorem modDie_sessions (s : State) (d : Nat) (f : Die → Die) : (modDie s d f).sessions = s.sessions := rfl
@[simp] theorem modDie_batches (s : State) (d : Nat) (f : Die → Die) : (modDie s d f).batches = s.batches := rfl
@[simp] theorem modDie_batchNo (s : State) (d : Nat) (f : Die → Die) : (modDie s d f).batchNo = s.batchNo := rfl
@[simp] theorem modDie_accs (s : State) (d : Nat) (f : Die → Die) : (modDie s d f).accs = s.accs := rfl
@[simp] theorem modDie_posted (s : State) (d : Nat) (f : Die → Die) : (modDie s d f).posted = s.posted := rfl
@[simp] theorem modDie_walks (s : State) (d : Nat) (f : Die → Die) : (modDie s d f).walks = s.walks := rfl
@[simp] theorem modDie_frms (s : State) (d : Nat) (f : Die → Die) : (modDie s d f).frms = s.frms := rfl
@[simp] theorem modDie_xfers (s : State) (d : Nat) (f : Die → Die) : (modDie s d f).xfers = s.xfers := rfl
@[simp] theorem modDie_raises (s : State) (d : Nat) (f : Die → Die) : (modDie s d f).raises = s.raises := rfl
@[simp] theorem modDie_streams (s : State) (d : Nat) (f : Die → Die) : (modDie s d f).streams = s.streams := rfl
@[simp] theorem modDie_ring (s : State) (d : Nat) (f : Die → Die) : (modDie s d f).ring = s.ring := rfl
@[simp] theorem modDie_peers (s : State) (d : Nat) (f : Die → Die) : (modDie s d f).peers = s.peers := rfl
@[simp] theorem modDie_svc (s : State) (d : Nat) (f : Die → Die) : (modDie s d f).svc = s.svc := rfl
@[simp] theorem modDie_fresh (s : State) (d : Nat) (f : Die → Die) : (modDie s d f).fresh = s.fresh := rfl
@[simp] theorem modDie_cur (s : State) (d : Nat) (f : Die → Die) : (modDie s d f).cur = s.cur := rfl
@[simp] theorem modDie_turn (s : State) (d : Nat) (f : Die → Die) : (modDie s d f).turn = s.turn := rfl
@[simp] theorem modDie_agenda (s : State) (d : Nat) (f : Die → Die) : (modDie s d f).agenda = s.agenda := rfl
@[simp] theorem modDie_script (s : State) (d : Nat) (f : Die → Die) : (modDie s d f).script = s.script := rfl
@[simp] theorem modDie_jitter (s : State) (d : Nat) (f : Die → Die) : (modDie s d f).jitter = s.jitter := rfl
@[simp] theorem modDie_mesh (s : State) (d : Nat) (f : Die → Die) : (modDie s d f).mesh = s.mesh := rfl
@[simp] theorem modDie_hostBad (s : State) (d : Nat) (f : Die → Die) : (modDie s d f).hostBad = s.hostBad := rfl
@[simp] theorem modDie_seen (s : State) (d : Nat) (f : Die → Die) : (modDie s d f).seen = s.seen := rfl
@[simp] theorem modDie_residue (s : State) (d : Nat) (f : Die → Die) : (modDie s d f).residue = s.residue := rfl
@[simp] theorem modDie_free (s : State) (d : Nat) (f : Die → Die) : (modDie s d f).free = s.free := rfl

/-! ### raiseTok -/

@[simp] theorem raiseTok_clock (s : State) (c t n : Nat) (st : BitVec 32) : (raiseTok s c t n st).clock = s.clock := rfl
@[simp] theorem raiseTok_mem (s : State) (c t n : Nat) (st : BitVec 32) : (raiseTok s c t n st).mem = s.mem := rfl
@[simp] theorem raiseTok_ecc (s : State) (c t n : Nat) (st : BitVec 32) : (raiseTok s c t n st).ecc = s.ecc := rfl
@[simp] theorem raiseTok_cores (s : State) (c t n : Nat) (st : BitVec 32) : (raiseTok s c t n st).cores = s.cores := rfl
@[simp] theorem raiseTok_subs (s : State) (c t n : Nat) (st : BitVec 32) : (raiseTok s c t n st).subs = s.subs := rfl
@[simp] theorem raiseTok_fens (s : State) (c t n : Nat) (st : BitVec 32) : (raiseTok s c t n st).fens = s.fens := rfl
@[simp] theorem raiseTok_queues (s : State) (c t n : Nat) (st : BitVec 32) : (raiseTok s c t n st).queues = s.queues := rfl
@[simp] theorem raiseTok_dies (s : State) (c t n : Nat) (st : BitVec 32) : (raiseTok s c t n st).dies = s.dies := rfl
@[simp] theorem raiseTok_sessions (s : State) (c t n : Nat) (st : BitVec 32) : (raiseTok s c t n st).sessions = s.sessions := rfl
@[simp] theorem raiseTok_batches (s : State) (c t n : Nat) (st : BitVec 32) : (raiseTok s c t n st).batches = s.batches := rfl
@[simp] theorem raiseTok_batchNo (s : State) (c t n : Nat) (st : BitVec 32) : (raiseTok s c t n st).batchNo = s.batchNo := rfl
@[simp] theorem raiseTok_accs (s : State) (c t n : Nat) (st : BitVec 32) : (raiseTok s c t n st).accs = s.accs := rfl
@[simp] theorem raiseTok_posted (s : State) (c t n : Nat) (st : BitVec 32) : (raiseTok s c t n st).posted = s.posted := rfl
@[simp] theorem raiseTok_walks (s : State) (c t n : Nat) (st : BitVec 32) : (raiseTok s c t n st).walks = s.walks := rfl
@[simp] theorem raiseTok_frms (s : State) (c t n : Nat) (st : BitVec 32) : (raiseTok s c t n st).frms = s.frms := rfl
@[simp] theorem raiseTok_xfers (s : State) (c t n : Nat) (st : BitVec 32) : (raiseTok s c t n st).xfers = s.xfers := rfl
@[simp] theorem raiseTok_streams (s : State) (c t n : Nat) (st : BitVec 32) : (raiseTok s c t n st).streams = s.streams := rfl
@[simp] theorem raiseTok_ring (s : State) (c t n : Nat) (st : BitVec 32) : (raiseTok s c t n st).ring = s.ring := rfl
@[simp] theorem raiseTok_peers (s : State) (c t n : Nat) (st : BitVec 32) : (raiseTok s c t n st).peers = s.peers := rfl
@[simp] theorem raiseTok_svc (s : State) (c t n : Nat) (st : BitVec 32) : (raiseTok s c t n st).svc = s.svc := rfl
@[simp] theorem raiseTok_fresh (s : State) (c t n : Nat) (st : BitVec 32) : (raiseTok s c t n st).fresh = s.fresh := rfl
@[simp] theorem raiseTok_cur (s : State) (c t n : Nat) (st : BitVec 32) : (raiseTok s c t n st).cur = s.cur := rfl
@[simp] theorem raiseTok_turn (s : State) (c t n : Nat) (st : BitVec 32) : (raiseTok s c t n st).turn = s.turn := rfl
@[simp] theorem raiseTok_agenda (s : State) (c t n : Nat) (st : BitVec 32) : (raiseTok s c t n st).agenda = s.agenda := rfl
@[simp] theorem raiseTok_script (s : State) (c t n : Nat) (st : BitVec 32) : (raiseTok s c t n st).script = s.script := rfl
@[simp] theorem raiseTok_jitter (s : State) (c t n : Nat) (st : BitVec 32) : (raiseTok s c t n st).jitter = s.jitter := rfl
@[simp] theorem raiseTok_mesh (s : State) (c t n : Nat) (st : BitVec 32) : (raiseTok s c t n st).mesh = s.mesh := rfl
@[simp] theorem raiseTok_hostBad (s : State) (c t n : Nat) (st : BitVec 32) : (raiseTok s c t n st).hostBad = s.hostBad := rfl
@[simp] theorem raiseTok_seen (s : State) (c t n : Nat) (st : BitVec 32) : (raiseTok s c t n st).seen = s.seen := rfl
@[simp] theorem raiseTok_residue (s : State) (c t n : Nat) (st : BitVec 32) : (raiseTok s c t n st).residue = s.residue := rfl
@[simp] theorem raiseTok_free (s : State) (c t n : Nat) (st : BitVec 32) : (raiseTok s c t n st).free = s.free := rfl

/-! ### now -/

@[simp] theorem now_clock (s : State) (e : Event) : (now s e).clock = s.clock := rfl
@[simp] theorem now_mem (s : State) (e : Event) : (now s e).mem = s.mem := rfl
@[simp] theorem now_ecc (s : State) (e : Event) : (now s e).ecc = s.ecc := rfl
@[simp] theorem now_cores (s : State) (e : Event) : (now s e).cores = s.cores := rfl
@[simp] theorem now_subs (s : State) (e : Event) : (now s e).subs = s.subs := rfl
@[simp] theorem now_fens (s : State) (e : Event) : (now s e).fens = s.fens := rfl
@[simp] theorem now_queues (s : State) (e : Event) : (now s e).queues = s.queues := rfl
@[simp] theorem now_dies (s : State) (e : Event) : (now s e).dies = s.dies := rfl
@[simp] theorem now_sessions (s : State) (e : Event) : (now s e).sessions = s.sessions := rfl
@[simp] theorem now_batches (s : State) (e : Event) : (now s e).batches = s.batches := rfl
@[simp] theorem now_batchNo (s : State) (e : Event) : (now s e).batchNo = s.batchNo := rfl
@[simp] theorem now_accs (s : State) (e : Event) : (now s e).accs = s.accs := rfl
@[simp] theorem now_posted (s : State) (e : Event) : (now s e).posted = s.posted := rfl
@[simp] theorem now_walks (s : State) (e : Event) : (now s e).walks = s.walks := rfl
@[simp] theorem now_frms (s : State) (e : Event) : (now s e).frms = s.frms := rfl
@[simp] theorem now_xfers (s : State) (e : Event) : (now s e).xfers = s.xfers := rfl
@[simp] theorem now_raises (s : State) (e : Event) : (now s e).raises = s.raises := rfl
@[simp] theorem now_streams (s : State) (e : Event) : (now s e).streams = s.streams := rfl
@[simp] theorem now_ring (s : State) (e : Event) : (now s e).ring = s.ring := rfl
@[simp] theorem now_peers (s : State) (e : Event) : (now s e).peers = s.peers := rfl
@[simp] theorem now_svc (s : State) (e : Event) : (now s e).svc = s.svc := rfl
@[simp] theorem now_fresh (s : State) (e : Event) : (now s e).fresh = s.fresh := rfl
@[simp] theorem now_cur (s : State) (e : Event) : (now s e).cur = s.cur := rfl
@[simp] theorem now_turn (s : State) (e : Event) : (now s e).turn = s.turn := rfl
@[simp] theorem now_script (s : State) (e : Event) : (now s e).script = s.script := rfl
@[simp] theorem now_jitter (s : State) (e : Event) : (now s e).jitter = s.jitter := rfl
@[simp] theorem now_mesh (s : State) (e : Event) : (now s e).mesh = s.mesh := rfl
@[simp] theorem now_hostBad (s : State) (e : Event) : (now s e).hostBad = s.hostBad := rfl
@[simp] theorem now_seen (s : State) (e : Event) : (now s e).seen = s.seen := rfl
@[simp] theorem now_residue (s : State) (e : Event) : (now s e).residue = s.residue := rfl
@[simp] theorem now_free (s : State) (e : Event) : (now s e).free = s.free := rfl

/-! ### setCtxAt -/

@[simp] theorem setCtxAt_clock (s : State) (g b : Nat) (c : Ctx) : (setCtxAt s g b c).clock = s.clock := rfl
@[simp] theorem setCtxAt_mem (s : State) (g b : Nat) (c : Ctx) : (setCtxAt s g b c).mem = s.mem := rfl
@[simp] theorem setCtxAt_ecc (s : State) (g b : Nat) (c : Ctx) : (setCtxAt s g b c).ecc = s.ecc := rfl
@[simp] theorem setCtxAt_cores (s : State) (g b : Nat) (c : Ctx) : (setCtxAt s g b c).cores = s.cores := rfl
@[simp] theorem setCtxAt_fens (s : State) (g b : Nat) (c : Ctx) : (setCtxAt s g b c).fens = s.fens := rfl
@[simp] theorem setCtxAt_queues (s : State) (g b : Nat) (c : Ctx) : (setCtxAt s g b c).queues = s.queues := rfl
@[simp] theorem setCtxAt_dies (s : State) (g b : Nat) (c : Ctx) : (setCtxAt s g b c).dies = s.dies := rfl
@[simp] theorem setCtxAt_sessions (s : State) (g b : Nat) (c : Ctx) : (setCtxAt s g b c).sessions = s.sessions := rfl
@[simp] theorem setCtxAt_batches (s : State) (g b : Nat) (c : Ctx) : (setCtxAt s g b c).batches = s.batches := rfl
@[simp] theorem setCtxAt_batchNo (s : State) (g b : Nat) (c : Ctx) : (setCtxAt s g b c).batchNo = s.batchNo := rfl
@[simp] theorem setCtxAt_accs (s : State) (g b : Nat) (c : Ctx) : (setCtxAt s g b c).accs = s.accs := rfl
@[simp] theorem setCtxAt_posted (s : State) (g b : Nat) (c : Ctx) : (setCtxAt s g b c).posted = s.posted := rfl
@[simp] theorem setCtxAt_walks (s : State) (g b : Nat) (c : Ctx) : (setCtxAt s g b c).walks = s.walks := rfl
@[simp] theorem setCtxAt_frms (s : State) (g b : Nat) (c : Ctx) : (setCtxAt s g b c).frms = s.frms := rfl
@[simp] theorem setCtxAt_xfers (s : State) (g b : Nat) (c : Ctx) : (setCtxAt s g b c).xfers = s.xfers := rfl
@[simp] theorem setCtxAt_raises (s : State) (g b : Nat) (c : Ctx) : (setCtxAt s g b c).raises = s.raises := rfl
@[simp] theorem setCtxAt_streams (s : State) (g b : Nat) (c : Ctx) : (setCtxAt s g b c).streams = s.streams := rfl
@[simp] theorem setCtxAt_ring (s : State) (g b : Nat) (c : Ctx) : (setCtxAt s g b c).ring = s.ring := rfl
@[simp] theorem setCtxAt_peers (s : State) (g b : Nat) (c : Ctx) : (setCtxAt s g b c).peers = s.peers := rfl
@[simp] theorem setCtxAt_svc (s : State) (g b : Nat) (c : Ctx) : (setCtxAt s g b c).svc = s.svc := rfl
@[simp] theorem setCtxAt_fresh (s : State) (g b : Nat) (c : Ctx) : (setCtxAt s g b c).fresh = s.fresh := rfl
@[simp] theorem setCtxAt_cur (s : State) (g b : Nat) (c : Ctx) : (setCtxAt s g b c).cur = s.cur := rfl
@[simp] theorem setCtxAt_turn (s : State) (g b : Nat) (c : Ctx) : (setCtxAt s g b c).turn = s.turn := rfl
@[simp] theorem setCtxAt_agenda (s : State) (g b : Nat) (c : Ctx) : (setCtxAt s g b c).agenda = s.agenda := rfl
@[simp] theorem setCtxAt_script (s : State) (g b : Nat) (c : Ctx) : (setCtxAt s g b c).script = s.script := rfl
@[simp] theorem setCtxAt_jitter (s : State) (g b : Nat) (c : Ctx) : (setCtxAt s g b c).jitter = s.jitter := rfl
@[simp] theorem setCtxAt_mesh (s : State) (g b : Nat) (c : Ctx) : (setCtxAt s g b c).mesh = s.mesh := rfl
@[simp] theorem setCtxAt_hostBad (s : State) (g b : Nat) (c : Ctx) : (setCtxAt s g b c).hostBad = s.hostBad := rfl
@[simp] theorem setCtxAt_seen (s : State) (g b : Nat) (c : Ctx) : (setCtxAt s g b c).seen = s.seen := rfl
@[simp] theorem setCtxAt_residue (s : State) (g b : Nat) (c : Ctx) : (setCtxAt s g b c).residue = s.residue := rfl
@[simp] theorem setCtxAt_free (s : State) (g b : Nat) (c : Ctx) : (setCtxAt s g b c).free = s.free := rfl

/-! ### writeHome -/

@[simp] theorem writeHome_clock (s : State) (l : Loc) (bs : List Byte) : (writeHome s l bs).clock = s.clock := rfl
@[simp] theorem writeHome_cores (s : State) (l : Loc) (bs : List Byte) : (writeHome s l bs).cores = s.cores := rfl
@[simp] theorem writeHome_subs (s : State) (l : Loc) (bs : List Byte) : (writeHome s l bs).subs = s.subs := rfl
@[simp] theorem writeHome_fens (s : State) (l : Loc) (bs : List Byte) : (writeHome s l bs).fens = s.fens := rfl
@[simp] theorem writeHome_queues (s : State) (l : Loc) (bs : List Byte) : (writeHome s l bs).queues = s.queues := rfl
@[simp] theorem writeHome_dies (s : State) (l : Loc) (bs : List Byte) : (writeHome s l bs).dies = s.dies := rfl
@[simp] theorem writeHome_sessions (s : State) (l : Loc) (bs : List Byte) : (writeHome s l bs).sessions = s.sessions := rfl
@[simp] theorem writeHome_batches (s : State) (l : Loc) (bs : List Byte) : (writeHome s l bs).batches = s.batches := rfl
@[simp] theorem writeHome_batchNo (s : State) (l : Loc) (bs : List Byte) : (writeHome s l bs).batchNo = s.batchNo := rfl
@[simp] theorem writeHome_accs (s : State) (l : Loc) (bs : List Byte) : (writeHome s l bs).accs = s.accs := rfl
@[simp] theorem writeHome_posted (s : State) (l : Loc) (bs : List Byte) : (writeHome s l bs).posted = s.posted := rfl
@[simp] theorem writeHome_walks (s : State) (l : Loc) (bs : List Byte) : (writeHome s l bs).walks = s.walks := rfl
@[simp] theorem writeHome_frms (s : State) (l : Loc) (bs : List Byte) : (writeHome s l bs).frms = s.frms := rfl
@[simp] theorem writeHome_xfers (s : State) (l : Loc) (bs : List Byte) : (writeHome s l bs).xfers = s.xfers := rfl
@[simp] theorem writeHome_raises (s : State) (l : Loc) (bs : List Byte) : (writeHome s l bs).raises = s.raises := rfl
@[simp] theorem writeHome_streams (s : State) (l : Loc) (bs : List Byte) : (writeHome s l bs).streams = s.streams := rfl
@[simp] theorem writeHome_ring (s : State) (l : Loc) (bs : List Byte) : (writeHome s l bs).ring = s.ring := rfl
@[simp] theorem writeHome_peers (s : State) (l : Loc) (bs : List Byte) : (writeHome s l bs).peers = s.peers := rfl
@[simp] theorem writeHome_svc (s : State) (l : Loc) (bs : List Byte) : (writeHome s l bs).svc = s.svc := rfl
@[simp] theorem writeHome_fresh (s : State) (l : Loc) (bs : List Byte) : (writeHome s l bs).fresh = s.fresh := rfl
@[simp] theorem writeHome_cur (s : State) (l : Loc) (bs : List Byte) : (writeHome s l bs).cur = s.cur := rfl
@[simp] theorem writeHome_turn (s : State) (l : Loc) (bs : List Byte) : (writeHome s l bs).turn = s.turn := rfl
@[simp] theorem writeHome_agenda (s : State) (l : Loc) (bs : List Byte) : (writeHome s l bs).agenda = s.agenda := rfl
@[simp] theorem writeHome_script (s : State) (l : Loc) (bs : List Byte) : (writeHome s l bs).script = s.script := rfl
@[simp] theorem writeHome_jitter (s : State) (l : Loc) (bs : List Byte) : (writeHome s l bs).jitter = s.jitter := rfl
@[simp] theorem writeHome_mesh (s : State) (l : Loc) (bs : List Byte) : (writeHome s l bs).mesh = s.mesh := rfl
@[simp] theorem writeHome_hostBad (s : State) (l : Loc) (bs : List Byte) : (writeHome s l bs).hostBad = s.hostBad := rfl
@[simp] theorem writeHome_seen (s : State) (l : Loc) (bs : List Byte) : (writeHome s l bs).seen = s.seen := rfl
@[simp] theorem writeHome_residue (s : State) (l : Loc) (bs : List Byte) : (writeHome s l bs).residue = s.residue := rfl
@[simp] theorem writeHome_free (s : State) (l : Loc) (bs : List Byte) : (writeHome s l bs).free = s.free := rfl

/-! ### poisonLines -/

@[simp] theorem poisonLines_clock (s : State) (l : Loc) (n : Nat) : (poisonLines s l n).clock = s.clock := rfl
@[simp] theorem poisonLines_mem (s : State) (l : Loc) (n : Nat) : (poisonLines s l n).mem = s.mem := rfl
@[simp] theorem poisonLines_cores (s : State) (l : Loc) (n : Nat) : (poisonLines s l n).cores = s.cores := rfl
@[simp] theorem poisonLines_subs (s : State) (l : Loc) (n : Nat) : (poisonLines s l n).subs = s.subs := rfl
@[simp] theorem poisonLines_fens (s : State) (l : Loc) (n : Nat) : (poisonLines s l n).fens = s.fens := rfl
@[simp] theorem poisonLines_queues (s : State) (l : Loc) (n : Nat) : (poisonLines s l n).queues = s.queues := rfl
@[simp] theorem poisonLines_dies (s : State) (l : Loc) (n : Nat) : (poisonLines s l n).dies = s.dies := rfl
@[simp] theorem poisonLines_sessions (s : State) (l : Loc) (n : Nat) : (poisonLines s l n).sessions = s.sessions := rfl
@[simp] theorem poisonLines_batches (s : State) (l : Loc) (n : Nat) : (poisonLines s l n).batches = s.batches := rfl
@[simp] theorem poisonLines_batchNo (s : State) (l : Loc) (n : Nat) : (poisonLines s l n).batchNo = s.batchNo := rfl
@[simp] theorem poisonLines_accs (s : State) (l : Loc) (n : Nat) : (poisonLines s l n).accs = s.accs := rfl
@[simp] theorem poisonLines_posted (s : State) (l : Loc) (n : Nat) : (poisonLines s l n).posted = s.posted := rfl
@[simp] theorem poisonLines_walks (s : State) (l : Loc) (n : Nat) : (poisonLines s l n).walks = s.walks := rfl
@[simp] theorem poisonLines_frms (s : State) (l : Loc) (n : Nat) : (poisonLines s l n).frms = s.frms := rfl
@[simp] theorem poisonLines_xfers (s : State) (l : Loc) (n : Nat) : (poisonLines s l n).xfers = s.xfers := rfl
@[simp] theorem poisonLines_raises (s : State) (l : Loc) (n : Nat) : (poisonLines s l n).raises = s.raises := rfl
@[simp] theorem poisonLines_streams (s : State) (l : Loc) (n : Nat) : (poisonLines s l n).streams = s.streams := rfl
@[simp] theorem poisonLines_ring (s : State) (l : Loc) (n : Nat) : (poisonLines s l n).ring = s.ring := rfl
@[simp] theorem poisonLines_peers (s : State) (l : Loc) (n : Nat) : (poisonLines s l n).peers = s.peers := rfl
@[simp] theorem poisonLines_svc (s : State) (l : Loc) (n : Nat) : (poisonLines s l n).svc = s.svc := rfl
@[simp] theorem poisonLines_fresh (s : State) (l : Loc) (n : Nat) : (poisonLines s l n).fresh = s.fresh := rfl
@[simp] theorem poisonLines_cur (s : State) (l : Loc) (n : Nat) : (poisonLines s l n).cur = s.cur := rfl
@[simp] theorem poisonLines_turn (s : State) (l : Loc) (n : Nat) : (poisonLines s l n).turn = s.turn := rfl
@[simp] theorem poisonLines_agenda (s : State) (l : Loc) (n : Nat) : (poisonLines s l n).agenda = s.agenda := rfl
@[simp] theorem poisonLines_script (s : State) (l : Loc) (n : Nat) : (poisonLines s l n).script = s.script := rfl
@[simp] theorem poisonLines_jitter (s : State) (l : Loc) (n : Nat) : (poisonLines s l n).jitter = s.jitter := rfl
@[simp] theorem poisonLines_mesh (s : State) (l : Loc) (n : Nat) : (poisonLines s l n).mesh = s.mesh := rfl
@[simp] theorem poisonLines_hostBad (s : State) (l : Loc) (n : Nat) : (poisonLines s l n).hostBad = s.hostBad := rfl
@[simp] theorem poisonLines_seen (s : State) (l : Loc) (n : Nat) : (poisonLines s l n).seen = s.seen := rfl
@[simp] theorem poisonLines_residue (s : State) (l : Loc) (n : Nat) : (poisonLines s l n).residue = s.residue := rfl
@[simp] theorem poisonLines_free (s : State) (l : Loc) (n : Nat) : (poisonLines s l n).free = s.free := rfl

end Sys2Proof.Machine
end

