-- ==== Sys2Proof/Laws/Tables.lean ====
section
/-! SUPPORT. Tables by index: an entry that is set reads back, and every other entry stays. -/

namespace Sys2Proof.Machine
open Sys2Proof

/-- Reading a table after setting an entry. -/
theorem tget_tset {α : Type} (d : α) (t : Tab α) (i : Nat) (v : α) (j : Nat) :
    tget d (tset t i v) j = if i = j then v else tget d t j := by
  induction t with
  | nil => rfl
  | cons p r ih =>
    obtain ⟨k, w⟩ := p
    simp only [tset]
    split
    · subst_vars
      simp only [tget]
      split <;> simp_all
    · split
      · rfl
      · simp only [tget, ih]
        split <;> split <;> simp_all

@[simp] theorem tget_tset_same {α : Type} (d : α) (t : Tab α) (i : Nat) (v : α) : tget d (tset t i v) i = v := by simp [tget_tset]

theorem tget_tset_other {α : Type} (d : α) (t : Tab α) {i j : Nat} (v : α) (h : i ≠ j) : tget d (tset t i v) j = tget d t j := by
  simp [tget_tset, h]

theorem tget_tmod {α : Type} (d : α) (t : Tab α) (i : Nat) (f : α → α) (j : Nat) :
    tget d (tmod d t i f) j = if i = j then f (tget d t i) else tget d t j := tget_tset d t i _ j

@[simp] theorem tget_tmod_same {α : Type} (d : α) (t : Tab α) (i : Nat) (f : α → α) : tget d (tmod d t i f) i = f (tget d t i) := by
  simp [tget_tmod]

theorem tget_tmod_other {α : Type} (d : α) (t : Tab α) {i j : Nat} (f : α → α) (h : i ≠ j) : tget d (tmod d t i f) j = tget d t j := by
  simp [tget_tmod, h]

/-- A table after changing every entry by a map that keeps the index. -/
theorem tget_map {α : Type} (d : α) (f : α → α) (t : Tab α) (j : Nat) (h : f d = d) :
    tget d (t.map fun p => (p.1, f p.2)) j = f (tget d t j) := by
  induction t with
  | nil => exact h.symm
  | cons p r ih =>
    obtain ⟨k, w⟩ := p
    simp only [List.map, tget, ih]
    split <;> rfl

end Sys2Proof.Machine
end

