-- ==== Sys2Proof/Laws/Objects.lean ====
section
/-! SUPPORT. Reading an object of the package after an update: the object updated reads as set, every other one as before. -/

namespace Sys2Proof.Machine
open Sys2Proof

/-! ### Sub-cores and contexts -/

theorem subOf_setSub (s : State) (g h : Nat) (x : Sub) : subOf (setSub s g x) h = if g = h then x else subOf s h := tget_tset _ _ _ _ _
@[simp] theorem subOf_setSub_same (s : State) (g : Nat) (x : Sub) : subOf (setSub s g x) g = x := by simp [subOf_setSub]
@[simp] theorem subOf_modSub_same (s : State) (g : Nat) (f : Sub → Sub) : subOf (modSub s g f) g = f (subOf s g) := by simp [modSub]
theorem subOf_modSub_other (s : State) {g h : Nat} (f : Sub → Sub) (n : g ≠ h) : subOf (modSub s g f) h = subOf s h := by
  simp [modSub, subOf_setSub, n]
@[simp] theorem ctxOf_setCtx_same (s : State) (g : Nat) (c : Ctx) : ctxOf (setCtx s g c) g = c := by simp [ctxOf, setCtx]
@[simp] theorem ctxOf_modCtx_same (s : State) (g : Nat) (f : Ctx → Ctx) : ctxOf (modCtx s g f) g = f (ctxOf s g) := by simp [modCtx]
@[simp] theorem subOf_modCtx_same (s : State) (g : Nat) (f : Ctx → Ctx) :
    subOf (modCtx s g f) g = { subOf s g with act := f (ctxOf s g) } := by simp [modCtx, setCtx]
theorem subOf_modCtx_other (s : State) {g h : Nat} (f : Ctx → Ctx) (n : g ≠ h) : subOf (modCtx s g f) h = subOf s h := by
  simp [modCtx, setCtx, subOf_modSub_other, n]
theorem ctxOf_modCtx_other (s : State) {g h : Nat} (f : Ctx → Ctx) (n : g ≠ h) : ctxOf (modCtx s g f) h = ctxOf s h := by
  simp [ctxOf, subOf_modCtx_other, n]

@[simp] theorem subOf_modCur (s : State) (f : Ctx → Ctx) : subOf (modCur s f) s.cur.g = { subOf s s.cur.g with act := f (curCtx s) } := by
  simp [modCur, curCtx]
theorem subOf_modCur_other (s : State) {h : Nat} (f : Ctx → Ctx) (n : h ≠ s.cur.g) : subOf (modCur s f) h = subOf s h := by
  simp [modCur, subOf_modCtx_other, Ne.symm n]
@[simp] theorem curCtx_modCur (s : State) (f : Ctx → Ctx) : curCtx (modCur s f) = f (curCtx s) := by simp [curCtx, ctxOf]

/-! ### Engines -/

theorem engOf_setEng (c : Ctx) (e i : Nat) (x : EngCtx) : engOf (setEng c e x) i = if e = i then x else engOf c i := tget_tset _ _ _ _ _
@[simp] theorem engOf_setEng_same (c : Ctx) (e : Nat) (x : EngCtx) : engOf (setEng c e x) e = x := by simp [engOf_setEng]
@[simp] theorem engOf_modEng_same (c : Ctx) (e : Nat) (f : EngCtx → EngCtx) : engOf (modEng c e f) e = f (engOf c e) := by simp [modEng]
theorem engOf_modEng_other (c : Ctx) {e i : Nat} (f : EngCtx → EngCtx) (n : e ≠ i) : engOf (modEng c e f) i = engOf c i := by
  simp [modEng, engOf_setEng, n]
@[simp] theorem curCtx_modCurEng (s : State) (f : EngCtx → EngCtx) : curCtx (modCurEng s f) = modEng (curCtx s) s.cur.e f := by
  simp [modCurEng]
@[simp] theorem curEng_modCurEng (s : State) (f : EngCtx → EngCtx) : curEng (modCurEng s f) = f (curEng s) := by simp [curEng]

/-! ### Cores, fens, queues, dies -/

theorem coreOf_setCore (s : State) (k j : Nat) (x : Core) : coreOf (setCore s k x) j = if k = j then x else coreOf s j := tget_tset _ _ _ _ _
@[simp] theorem coreOf_modCore_same (s : State) (k : Nat) (f : Core → Core) : coreOf (modCore s k f) k = f (coreOf s k) := by
  simp [modCore, coreOf_setCore]
theorem coreOf_modCore_other (s : State) {k j : Nat} (f : Core → Core) (n : k ≠ j) : coreOf (modCore s k f) j = coreOf s j := by
  simp [modCore, coreOf_setCore, n]
theorem fenOf_setFen (s : State) (i j : Nat) (x : Fen) : fenOf (setFen s i x) j = if i = j then x else fenOf s j := tget_tset _ _ _ _ _
@[simp] theorem fenOf_modFen_same (s : State) (i : Nat) (f : Fen → Fen) : fenOf (modFen s i f) i = f (fenOf s i) := by
  simp [modFen, fenOf_setFen]
theorem fenOf_modFen_other (s : State) {i j : Nat} (f : Fen → Fen) (n : i ≠ j) : fenOf (modFen s i f) j = fenOf s j := by
  simp [modFen, fenOf_setFen, n]
theorem queueOf_setQueue (s : State) (i j : Nat) (x : LQueue) : queueOf (setQueue s i x) j = if i = j then x else queueOf s j :=
  tget_tset _ _ _ _ _
@[simp] theorem queueOf_modQueue_same (s : State) (q : Nat) (f : LQueue → LQueue) : queueOf (modQueue s q f) q = f (queueOf s q) := by
  simp [modQueue, queueOf_setQueue]
theorem queueOf_modQueue_other (s : State) {q j : Nat} (f : LQueue → LQueue) (n : q ≠ j) : queueOf (modQueue s q f) j = queueOf s j := by
  simp [modQueue, queueOf_setQueue, n]
theorem dieOf_setDie (s : State) (i j : Nat) (x : Die) : dieOf (setDie s i x) j = if i = j then x else dieOf s j := tget_tset _ _ _ _ _
@[simp] theorem dieOf_modDie_same (s : State) (d : Nat) (f : Die → Die) : dieOf (modDie s d f) d = f (dieOf s d) := by
  simp [modDie, dieOf_setDie]

/-! ### What the operations of a meaning do -/

/-- Changing the executing engine touches nothing but that engine. -/
theorem modCurEng_frame (s : State) (f : EngCtx → EngCtx) :
    SameMemory s (modCurEng s f) ∧ SameElsewhere s (modCurEng s f) ∧ SameContext s (modCurEng s f) ∧ SameEngines s (modCurEng s f) := by
  refine ⟨fun _ => rfl, ⟨rfl, fun g h => subOf_modCur_other s _ h, ?_⟩, ?_, fun e h => ?_⟩
  · rw [curCtx_modCurEng]; exact subOf_modCur s _
  · simp [SameContext, modEng, setEng]
  · simp [engOf_modEng_other _ _ (Ne.symm h)]

/-- Everything that `landIn` can do. -/
theorem landIn_oneResult (s : State) (l : Landing) : OneResult s (landIn s l) := by
  obtain ⟨a, b, c, d⟩ := modCurEng_frame s fun x => { x with pipe := x.pipe ++ [{ l with grp := x.grp }] }
  exact ⟨a, b, c, d, { l with grp := (curEng s).grp }, by simp only [landIn, curEng_modCurEng]⟩

/-- Everything that `land` can do. -/
theorem land_oneResult (s : State) (n : Nat) (d : Dest) (v : Val) : OneResult s (land s n d v) := landIn_oneResult s _

/-- Consuming sound operands goes on. -/
@[simp] theorem consume_sound (s : State) (v : Word) (k : State → State) : consume s [⟨v, none⟩] k = k s := rfl
@[simp] theorem consume_sound2 (s : State) (v w : Word) (k : State → State) : consume s [⟨v, none⟩, ⟨w, none⟩] k = k s := rfl
/-- Consuming a poisoned operand traps with its cause. -/
@[simp] theorem consume_poisoned (s : State) (v : Word) (c : Cause) (k : State → State) : consume s [⟨v, some c⟩] k = trapWith s c v := rfl

/-- What several consumed operands do: all sound, or the trap that the worst of them asks for. -/
theorem consume_cases (s : State) (vs : List Val) (k : State → State) :
    (worst vs = none ∧ consume s vs k = k s) ∨ ∃ c w, worst vs = some (c, w) ∧ consume s vs k = trapWith s c w := by
  unfold consume
  split
  · exact .inr ⟨_, _, ‹_›, rfl⟩
  · exact .inl ⟨‹_›, rfl⟩

end Sys2Proof.Machine
end

