-- ==== Sys2Proof/Laws/Access.lean ====
section
/-! SUPPORT. What issuing an access leaves unchanged, and where the access then is. -/

namespace Sys2Proof.Machine
open Sys2Proof

/-- What the issue of an access leaves: contexts, memory, fens, launches, raises, completions, the clock and the executing place. -/
structure SameBut (s t : State) : Prop where
  subs : t.subs = s.subs
  mem : t.mem = s.mem
  ecc : t.ecc = s.ecc
  fens : t.fens = s.fens
  queues : t.queues = s.queues
  raises : t.raises = s.raises
  posted : t.posted = s.posted
  clock : t.clock = s.clock
  place : t.cur.g = s.cur.g ∧ t.cur.e = s.cur.e ∧ t.cur.pfx = s.cur.pfx

theorem SameBut.refl (s : State) : SameBut s s := ⟨rfl, rfl, rfl, rfl, rfl, rfl, rfl, rfl, rfl, rfl, rfl⟩
theorem SameBut.trans {s t u : State} (h : SameBut s t) (k : SameBut t u) : SameBut s u :=
  ⟨k.subs.trans h.subs, k.mem.trans h.mem, k.ecc.trans h.ecc, k.fens.trans h.fens, k.queues.trans h.queues, k.raises.trans h.raises,
   k.posted.trans h.posted, k.clock.trans h.clock, k.place.1.trans h.place.1, k.place.2.1.trans h.place.2.1, k.place.2.2.trans h.place.2.2⟩

theorem SameBut.memory {s t : State} (h : SameBut s t) : SameMemory s t := fun k => by unfold byteAt; rw [h.mem]
theorem SameBut.ctx {s t : State} (h : SameBut s t) : curCtx t = curCtx s := by
  simp only [curCtx, ctxOf, subOf, h.subs, h.place.1]
theorem SameBut.eng {s t : State} (h : SameBut s t) : curEng t = curEng s := by simp only [curEng, h.ctx, h.place.2.1]

theorem draw_sameBut (s : State) : SameBut s (draw s).2 := by
  unfold draw; split <;> exact ⟨rfl, rfl, rfl, rfl, rfl, rfl, rfl, rfl, rfl, rfl, rfl⟩
@[simp] theorem draw_accs (s : State) : (draw s).2.accs = s.accs := by unfold draw; split <;> rfl

theorem launchPacket_sameBut (s : State) (a : Access) : SameBut s (launchPacket s a) :=
  have h := draw_sameBut { s with fresh := s.fresh + 1 }
  ⟨h.subs, h.mem, h.ecc, h.fens, h.queues, h.raises, h.posted, h.clock, h.place⟩

@[simp] theorem launchPacket_accs (s : State) (a : Access) : (launchPacket s a).accs = s.accs := draw_accs { s with fresh := s.fresh + 1 }

/-- What stays of an access on its way: all but where it goes and when it may perform. -/
def Access.core (a : Access) : Access := { a with due := 0, agent := 0 }

/-- An injected access is the last in flight, and nothing else that matters has changed. -/
theorem inject_spec (s : State) (a : Access) :
    SameBut s (inject s a) ∧ ∃ b, (inject s a).accs = s.accs ++ [b] ∧ b.core = a.core := by
  have put : ∀ (t : State) (l : List Access), SameBut t { t with accs := l } := fun _ _ =>
    ⟨rfl, rfl, rfl, rfl, rfl, rfl, rfl, rfl, rfl, rfl, rfl⟩
  unfold inject
  dsimp only
  split
  · refine ⟨(draw_sameBut s).trans (put _ _), { a with due := (draw s).2.clock + (draw s).1, agent := agentOf a.loc }, ?_, rfl⟩
    exact congrArg (· ++ _) (draw_accs s)
  · split
    · exact ⟨(put _ _).trans (launchPacket_sameBut _ a), _, launchPacket_accs _ a, rfl⟩
    · exact ⟨put _ _, _, rfl, rfl⟩

/-- Only reductions have been put in flight. -/
def MoreReds (s t : State) : Prop := SameBut s t ∧ ∃ r, t.accs = s.accs ++ r ∧ ∀ b ∈ r, b.isRed = true

theorem MoreReds.refl (s : State) : MoreReds s s := ⟨.refl s, [], by simp, by simp⟩
theorem MoreReds.trans {s t u : State} (h : MoreReds s t) (k : MoreReds t u) : MoreReds s u := by
  obtain ⟨h1, r, h2, h3⟩ := h
  obtain ⟨k1, q, k2, k3⟩ := k
  refine ⟨h1.trans k1, r ++ q, by rw [k2, h2, List.append_assoc], fun b hb => ?_⟩
  exact (List.mem_append.1 hb).elim (h3 b) (k3 b)

/-- Sending the application of a resting entry puts one reduction in flight. -/
theorem sendRed_spec (s : State) (e : CombEntry) : MoreReds s (sendRed s e) := by
  obtain ⟨i1, b, i2, i3⟩ := inject_spec s
    { id := e.id, g := e.g, cid := e.contributors.headD 0, kind := .red e.op, cls := e.cls, loc := e.loc, size := e.size, data := e.operand,
      after := e.after, owner := e.owner, contrib := e.contributors, via := e.via,
      pages := e.pages }
  refine ⟨i1, [b], i2, fun y hy => ?_⟩
  have := congrArg Access.kind i3
  simp only [Access.core] at this
  simp [List.mem_singleton.1 hy, Access.isRed, this]

/-- The applications of several entries, one after another. -/
theorem sendReds_spec : ∀ (es : List CombEntry) (s : State), MoreReds s (es.foldl sendRed s)
  | [], s => .refl s
  | e :: es, s => (sendRed_spec s e).trans (sendReds_spec es (sendRed s e))

/-- Flushing resting entries leaves every access in flight and adds reductions. -/
theorem flushComb_spec (s : State) (k : Nat) (p : CombEntry → Bool) : MoreReds s (flushComb s k p).2 := by
  unfold flushComb
  dsimp only
  split
  · exact .refl _
  · let mark := fun (e : CombEntry) => if p e then { e with leave := true } else e
    refine .trans (t := modCore s k fun c => { c with comb := (c.comb.filter fun e => !(p e && flushable s k e)).map mark })
      ⟨⟨rfl, rfl, rfl, rfl, rfl, rfl, rfl, rfl, rfl, rfl, rfl⟩, [], by simp, by simp⟩ (sendReds_spec _ _)

/-- Using a bank in a group notes only its lines. -/
theorem useBanks_sameBut (s : State) (l : Loc) (n : Nat) : SameBut s (useBanks s l n) := by
  unfold useBanks; split <;> exact ⟨rfl, rfl, rfl, rfl, rfl, rfl, rfl, rfl, rfl, rfl, rfl⟩
@[simp] theorem useBanks_accs (s : State) (l : Loc) (n : Nat) : (useBanks s l n).accs = s.accs := by unfold useBanks; split <;> rfl

/-- An access at home in the executing core uses banks of it; another one does not. -/
def atBanks (s : State) (a : Access) : State := if isLocal (coreNo s.cur.g) a.loc then useBanks s a.loc a.size else s
theorem atBanks_spec (s : State) (a : Access) : SameBut s (atBanks s a) ∧ (atBanks s a).accs = s.accs := by
  unfold atBanks
  split
  · exact ⟨useBanks_sameBut s _ _, useBanks_accs s _ _⟩
  · exact ⟨.refl s, rfl⟩

/-- An issued access is the last in flight, after the accesses of its context and class (R303); contexts and memory stay. -/
theorem issueAccess_spec (s : State) (a : Access) :
    SameBut s (issueAccess s a).2 ∧ ∃ q r, (issueAccess s a).2.accs = s.accs ++ r ++ [q] ∧ q.id = (issueAccess s a).1 ∧ q.kind = a.kind ∧
      q.loc = a.loc ∧ q.size = a.size ∧ q.data = a.data ∧ q.expect = a.expect ∧ q.dest = a.dest ∧ q.cls = a.cls ∧ q.g = s.cur.g ∧
      q.cid = (curCtx s).cid ∧ q.token = a.token ∧ q.held = a.held ∧ q.hidx = a.hidx ∧ q.owner = a.owner ∧ q.contrib = a.contrib ∧
      (∀ y, y ∈ s.accs → y.cid = q.cid → y.cls = q.cls → y.isRed = false → y.id ∈ q.after) := by
  obtain ⟨f1, r, f2, f3⟩ := flushComb_spec s (coreNo s.cur.g) fun e => overlaps e.loc e.size a.loc a.size
  let S := (freshId (flushTouched s (coreNo s.cur.g) a.loc a.size).2).2
  have hS : SameBut s S := SameBut.trans f1 ⟨rfl, rfl, rfl, rfl, rfl, rfl, rfl, rfl, rfl, rfl, rfl⟩
  let b : Access := { a with id := (freshId (flushTouched s (coreNo s.cur.g) a.loc a.size).2).1, g := S.cur.g, cid := (curCtx S).cid, after := precedes S (curCtx S).cid a.cls a.isLoad a.loc a.size ++ (flushTouched s (coreNo s.cur.g) a.loc a.size).1, level := (curCtx S).pl.toNat, grp := (curEng S).grp, pages := handlePage S (curFen S) a.hidx }
  obtain ⟨i1, q, i2, i3⟩ := inject_spec S b
  let T := atBanks (inject S b) a
  obtain ⟨t1, t2⟩ := atBanks_spec (inject S b) a
  have e2 : (issueAccess s a).2 = { T with cur := { T.cur with made := T.cur.made ++ [b.id] } } := rfl
  have e1 : (issueAccess s a).1 = b.id := rfl
  have hacc : S.accs = s.accs ++ r := f2
  have get : ∀ {β : Type} (f : Access → β), (∀ x : Access, f x.core = f x) → f q = f b := fun f h => by
    rw [← h q, ← h b, i3]
  refine ⟨?_, q, r, ?_, ?_, ?_⟩
  · rw [e2]; exact hS.trans (i1.trans (t1.trans ⟨rfl, rfl, rfl, rfl, rfl, rfl, rfl, rfl, rfl, rfl, rfl⟩))
  · rw [e2]; show T.accs = _; rw [t2, i2, hacc]
  · rw [e1]; exact get (·.id) fun _ => rfl
  · refine ⟨get (·.kind) fun _ => rfl, get (·.loc) fun _ => rfl, get (·.size) fun _ => rfl, get (·.data) fun _ => rfl,
      get (·.expect) fun _ => rfl, get (·.dest) fun _ => rfl, get (·.cls) fun _ => rfl, (get (·.g) fun _ => rfl).trans hS.place.1,
      (get (·.cid) fun _ => rfl).trans (by show (curCtx S).cid = _; rw [hS.ctx]), get (·.token) fun _ => rfl, get (·.held) fun _ => rfl,
      get (·.hidx) fun _ => rfl, get (·.owner) fun _ => rfl, get (·.contrib) fun _ => rfl, ?_⟩
    intro y hy hc hk hr
    rw [get (·.after) fun _ => rfl]
    have hc' : y.cid = (curCtx S).cid := hc.trans (get (·.cid) fun _ => rfl)
    have hk' : y.cls = a.cls := hk.trans (get (·.cls) fun _ => rfl)
    show y.id ∈ precedes S (curCtx S).cid a.cls a.isLoad a.loc a.size ++ _
    refine List.mem_append_left _ ?_
    unfold precedes
    refine List.mem_eraseDups.2 (List.mem_map.2 ⟨y, List.mem_append_left _ (List.mem_filter.2 ⟨?_, ?_⟩), rfl⟩)
    · rw [hacc]; exact List.mem_append_left _ hy
    · simp [hc', hk', hr]

end Sys2Proof.Machine
end

