-- ==== Sys2Proof/Laws/Encoding.lean ====
section
/-! SUPPORT. Reading fields back from a word or a record that was put together from them. -/

namespace Sys2Proof

theorem word_nil (m : Nat) : word m [] = m := rfl
theorem word_cons (m f : Nat) (fs : List Nat) : word m (f :: fs) = word (m + f) fs := rfl
theorem put_eq {n : Nat} (x : BitVec n) (lo : Nat) : put x lo = x.toNat * 2 ^ lo := rfl

theorem fld_eq {w lo n : Nat} {x : BitVec n} (h : w / 2 ^ lo % 2 ^ n = x.toNat) : fld w lo n = x := by
  apply BitVec.eq_of_toNat_eq
  simpa [fld] using h

theorem candidate_shared {e w m : Nat} (h : w / 2 ^ 24 % 128 = m) (l : m < 64) : candidate e w = sharedOf w := by
  unfold candidate
  rw [h, if_pos l]

theorem candidate_seq {w m : Nat} (h : w / 2 ^ 24 % 128 = m) (l : 64 ≤ m) : candidate 0 w = seqOf w := by
  unfold candidate
  rw [h, if_neg (Nat.not_lt.mpr l), if_pos rfl]

theorem candidate_vec {w m : Nat} (h : w / 2 ^ 24 % 128 = m) (l : 64 ≤ m) : candidate 1 w = vecOf w := by
  unfold candidate
  rw [h, if_neg (Nat.not_lt.mpr l), if_neg (by decide), if_pos rfl]

/-- A word decodes to an instruction when its candidate is that instruction, well formed and in the engine, and encodes it. -/
theorem decodeWord_of_candidate {i : Instr} {e : Nat} {stop : Bool} (he : i.inEngine e = true) (hw : i.wf = true)
    (hb : encodeWord i < 2 ^ 31) (hc : ∀ k, k < 2 → candidate e (encodeWord i + k * 2 ^ 31) = some i) :
    decodeWord e (encodeWord i + if stop then 2 ^ 31 else 0) = (stop, some i) := by
  have key : ∀ k, k < 2 → decodeWord e (encodeWord i + k * 2 ^ 31) = (k == 1, some i) := by
    intro k hk
    have h1 : (encodeWord i + k * 2 ^ 31) / 2 ^ 31 % 2 = k := by omega
    have h2 : (encodeWord i + k * 2 ^ 31) % 2 ^ 31 = encodeWord i := by omega
    unfold decodeWord
    rw [hc k hk, h1, h2]
    simp [he, hw]
  cases stop
  · simpa using key 0 (by omega)
  · simpa using key 1 (by omega)

/-- What a well-formed instruction's words decode to (R34, R35, R38, R39, R52, R55): a word, with its stop bit, and a record, to the
instruction itself; an event has no words. -/
def RoundTrips (i : Instr) : Prop :=
  (∀ (e : Nat) (stop : Bool), recordOf i = none → i.home ≠ .event → i.inEngine e = true → i.wf = true →
    encodeWord i < 2 ^ 31 ∧ decodeWord e (encodeWord i + if stop then 2 ^ 31 else 0) = (stop, some i)) ∧
  (∀ (m e : Nat) (r : Record), recordOf i = some (m, r) → i.inEngine e = true → i.wf = true →
    ∃ a b c d, encodeRecord m r = [a, b, c, d] ∧ a < 2 ^ 32 ∧ b < 2 ^ 32 ∧ c < 2 ^ 32 ∧ d < 2 ^ 32 ∧ decodeRecord e a b c d = some i)

theorem roundTrips_word {i : Instr} (hr : recordOf i = none) (hb : encodeWord i < 2 ^ 31)
    (hc : ∀ e, i.inEngine e = true → i.wf = true → ∀ k, k < 2 → candidate e (encodeWord i + k * 2 ^ 31) = some i) : RoundTrips i :=
  ⟨fun e _ _ _ he hw => ⟨hb, decodeWord_of_candidate he hw hb (hc e he hw)⟩, fun _ _ _ h => by rw [hr] at h; cases h⟩

theorem roundTrips_event {i : Instr} (hr : recordOf i = none) (hh : i.home = .event) : RoundTrips i :=
  ⟨fun _ _ _ h => absurd hh h, fun _ _ _ h => by rw [hr] at h; cases h⟩

/-- What a record's first word holds under its marker (R52): the major opcode, and its fields by their places. -/
theorem recordHead (m : Nat) (v c y : BitVec 4) (w p : BitVec 5) (e : Bool) (hm : m < 128) :
    let a := 0x80000000 + m * 2 ^ 24 + v.toNat * 2 ^ 20 + c.toNat * 2 ^ 16 + w.toNat * 2 ^ 11 + p.toNat * 2 ^ 6 + (if e then 32 else 0) + y.toNat
    a < 2 ^ 32 ∧ a / 2 ^ 24 % 128 = m ∧ fld a 20 4 = v ∧ fld a 16 4 = c ∧ fld a 11 5 = w ∧ fld a 6 5 = p ∧ (a / 32 % 2 == 1) = e ∧
      fld a 0 4 = y := by
  intro a
  have := v.isLt; have := c.isLt; have := w.isLt; have := p.isLt; have := y.isLt
  obtain ⟨k, hk, k2⟩ : ∃ k, (if e then 32 else 0) = 32 * k ∧ k = e.toNat := ⟨e.toNat, by cases e <;> rfl, rfl⟩
  have k3 : k < 2 := k2 ▸ e.toNat_lt
  have sum : a = 0x80000000 + m * 2 ^ 24 + v.toNat * 2 ^ 20 + c.toNat * 2 ^ 16 + w.toNat * 2 ^ 11 + p.toNat * 2 ^ 6 + 32 * k + y.toNat := by
    rw [← hk]
  have flag : (a / 32 % 2 == 1) = e := by
    rw [show a / 32 % 2 = e.toNat by omega]; cases e <;> rfl
  exact ⟨by omega, by omega, fld_eq (by omega), fld_eq (by omega), fld_eq (by omega), fld_eq (by omega), flag, fld_eq (by omega)⟩

/-- A record's words are words, show its major opcode, and give its fields back (R52). -/
theorem recordFields_encode (m : Nat) (r : Record) (hm : m < 128) :
    ∃ a b c d, encodeRecord m r = [a, b, c, d] ∧ a < 2 ^ 32 ∧ b < 2 ^ 32 ∧ c < 2 ^ 32 ∧ d < 2 ^ 32 ∧ a / 2 ^ 24 % 128 = m ∧
      recordFields a b c d = r := by
  obtain ⟨hlt, hmaj, hv, hc, hw, hp, he, hy⟩ := recordHead m r.variant r.cls r.typ r.wtok r.ptok r.we hm
  have aux := r.aux.isLt
  have thr := r.thr.isLt
  have hx : fld (r.aux.toNat * 2 ^ 16 + r.thr.toNat) 16 16 = r.aux := fld_eq (by omega)
  have ht : fld (r.aux.toNat * 2 ^ 16 + r.thr.toNat) 0 16 = r.thr := fld_eq (by omega)
  have whole : ∀ x : BitVec 32, fld x.toNat 0 32 = x := fun x => fld_eq (by have := x.isLt; omega)
  refine ⟨_, _, _, _, rfl, hlt, by omega, r.opA.isLt, r.opB.isLt, hmaj, ?_⟩
  simp only [recordFields, hv, hc, hw, hp, he, hy, hx, ht, whole]

theorem roundTrips_record {i : Instr} {m k : Nat} {r : Record} (hr : recordOf i = some (m, r)) (hm : m < 128)
    (hh : ∀ e, i.inEngine e = true → e = k) (hc : recordCandidate k m r = some i) : RoundTrips i := by
  refine ⟨fun _ _ h => (by rw [hr] at h; cases h), fun m' e r' h he hw => ?_⟩
  rw [hr] at h
  cases h
  obtain ⟨a, b, c, d, h0, h1, h2, h3, h4, h5, h6⟩ := recordFields_encode m r hm
  refine ⟨a, b, c, d, h0, h1, h2, h3, h4, ?_⟩
  have hk := hh e he
  subst hk
  unfold decodeRecord
  rw [h5, h6, hc]
  simp only [hr]
  simp [he, hw, h0]

end Sys2Proof
end

