-- ==== Sys2Proof/Laws/PerInstr.lean ====
section
/-! SUPPORT. Family RoundTrip: one lemma per instruction, that what encodes it decodes to it (R34, R35, R38, R39, R52, R55). -/

namespace Sys2Proof.Laws.RoundTrip
open Sys2Proof

/-- A well-formed instruction's words decode to it. -/
def Statement (i : Instr) : Prop := RoundTrips i

theorem sharedOf0A_eq {w : Nat} (hm : w / 2 ^ 24 % 128 = 0x0A) : sharedOf w = sharedOf0A w := by
  unfold sharedOf
  simp only [hm]

theorem sharedOf0C_eq {w : Nat} (hm : w / 2 ^ 24 % 128 = 0x0C) : sharedOf w = sharedOf0C w := by
  unfold sharedOf
  simp only [hm]

theorem sharedOf19_eq {w : Nat} (hm : w / 2 ^ 24 % 128 = 0x19) : sharedOf w = sharedOf19 w := by
  unfold sharedOf
  simp only [hm]

theorem sharedOf20_eq {w : Nat} (hm : w / 2 ^ 24 % 128 = 0x20) : sharedOf w = sharedOf20 w := by
  unfold sharedOf
  simp only [hm]

theorem seqOf40_eq {w : Nat} (hm : w / 2 ^ 24 % 128 = 0x40) : seqOf w = seqOf40 w := by
  unfold seqOf
  simp only [hm]

theorem seqOf45_eq {w : Nat} (hm : w / 2 ^ 24 % 128 = 0x45) : seqOf w = seqOf45 w := by
  unfold seqOf
  simp only [hm]

theorem seqOf63_eq {w : Nat} (hm : w / 2 ^ 24 % 128 = 0x63) : seqOf w = seqOf63 w := by
  unfold seqOf
  simp only [hm]

theorem seqOf64_eq {w : Nat} (hm : w / 2 ^ 24 % 128 = 0x64) : seqOf w = seqOf64 w := by
  unfold seqOf
  simp only [hm]

theorem seqOf6A_eq {w : Nat} (hm : w / 2 ^ 24 % 128 = 0x6A) : seqOf w = seqOf6A w := by
  unfold seqOf
  simp only [hm]

theorem seqOf6C_eq {w : Nat} (hm : w / 2 ^ 24 % 128 = 0x6C) : seqOf w = seqOf6C w := by
  unfold seqOf
  simp only [hm]

theorem csrwOf_eq {w : Nat} (hm : w / 2 ^ 24 % 128 = 0x6E) : seqOf w = csrwOf w := by
  unfold seqOf
  simp only [hm]

theorem vecOf43_eq {w : Nat} (hm : w / 2 ^ 24 % 128 = 0x43) : vecOf w = vecOf43 w := by
  unfold vecOf
  simp only [hm]

theorem vecOf46_eq {w : Nat} (hm : w / 2 ^ 24 % 128 = 0x46) : vecOf w = vecOf46 w := by
  unfold vecOf
  simp only [hm]

theorem vecOf4C_eq {w : Nat} (hm : w / 2 ^ 24 % 128 = 0x4C) : vecOf w = vecOf4C w := by
  unfold vecOf
  simp only [hm]

theorem vecOf4D_eq {w : Nat} (hm : w / 2 ^ 24 % 128 = 0x4D) : vecOf w = vecOf4D w := by
  unfold vecOf
  simp only [hm]

theorem vecOf4E_eq {w : Nat} (hm : w / 2 ^ 24 % 128 = 0x4E) : vecOf w = vecOf4E w := by
  unfold vecOf
  simp only [hm]

theorem vecOf4F_eq {w : Nat} (hm : w / 2 ^ 24 % 128 = 0x4F) : vecOf w = vecOf4F w := by
  unfold vecOf
  simp only [hm]

theorem vecOf53_eq {w : Nat} (hm : w / 2 ^ 24 % 128 = 0x53) : vecOf w = vecOf53 w := by
  unfold vecOf
  simp only [hm]

theorem vecOf54_eq {w : Nat} (hm : w / 2 ^ 24 % 128 = 0x54) : vecOf w = vecOf54 w := by
  unfold vecOf
  simp only [hm]

theorem dly (n : BitVec 16) : Statement (.dly n) := by
  have h0 := n.isLt
  have e0 : encodeWord (.dly n) = 0x02000000 + n.toNat * 2 ^ 0 := by
    show word 0x02000000 [put n 0] = _
    rw [word_cons, word_nil, put_eq]
  refine roundTrips_word rfl (by omega) fun e₁ he hw k₁ hk => ?_
  rw [e0]
  clear e0
  generalize hW : 0x02000000 + n.toNat * 2 ^ 0 + k₁ * 2 ^ 31 = w₁
  have hm : w₁ / 2 ^ 24 % 128 = 0x02 := by omega
  have f0 : fld w₁ 0 16 = n := fld_eq (by omega)
  rw [candidate_shared hm (by decide)]
  unfold sharedOf
  rw [hm]
  show some (Instr.dly (fld w₁ 0 16)) = _
  rw [f0]

theorem br (o : BitVec 24) : Statement (.br o) := by
  have h0 := o.isLt
  have e0 : encodeWord (.br o) = 0x03000000 + o.toNat * 2 ^ 0 := by
    show word 0x03000000 [put o 0] = _
    rw [word_cons, word_nil, put_eq]
  refine roundTrips_word rfl (by omega) fun e₁ he hw k₁ hk => ?_
  rw [e0]
  clear e0
  generalize hW : 0x03000000 + o.toNat * 2 ^ 0 + k₁ * 2 ^ 31 = w₁
  have hm : w₁ / 2 ^ 24 % 128 = 0x03 := by omega
  have f0 : fld w₁ 0 24 = o := fld_eq (by omega)
  rw [candidate_shared hm (by decide)]
  unfold sharedOf
  rw [hm]
  show some (Instr.br (fld w₁ 0 24)) = _
  rw [f0]

theorem beq (a : BitVec 4) (b : BitVec 4) (o : BitVec 16) : Statement (.beq a b o) := by
  have h0 := a.isLt; have h1 := b.isLt; have h2 := o.isLt
  have e0 : encodeWord (.beq a b o) = 0x04000000 + a.toNat * 2 ^ 20 + b.toNat * 2 ^ 16 + o.toNat * 2 ^ 0 := by
    show word 0x04000000 [put a 20, put b 16, put o 0] = _
    rw [word_cons, word_cons, word_cons, word_nil, put_eq, put_eq, put_eq]
  refine roundTrips_word rfl (by omega) fun e₁ he hw k₁ hk => ?_
  rw [e0]
  clear e0
  generalize hW : 0x04000000 + a.toNat * 2 ^ 20 + b.toNat * 2 ^ 16 + o.toNat * 2 ^ 0 + k₁ * 2 ^ 31 = w₁
  have hm : w₁ / 2 ^ 24 % 128 = 0x04 := by omega
  have f0 : fld w₁ 20 4 = a := fld_eq (by omega)
  have f1 : fld w₁ 16 4 = b := fld_eq (by omega)
  have f2 : fld w₁ 0 16 = o := fld_eq (by omega)
  rw [candidate_shared hm (by decide)]
  unfold sharedOf
  rw [hm]
  show some (Instr.beq (fld w₁ 20 4) (fld w₁ 16 4) (fld w₁ 0 16)) = _
  rw [f0, f1, f2]

theorem bne (a : BitVec 4) (b : BitVec 4) (o : BitVec 16) : Statement (.bne a b o) := by
  have h0 := a.isLt; have h1 := b.isLt; have h2 := o.isLt
  have e0 : encodeWord (.bne a b o) = 0x05000000 + a.toNat * 2 ^ 20 + b.toNat * 2 ^ 16 + o.toNat * 2 ^ 0 := by
    show word 0x05000000 [put a 20, put b 16, put o 0] = _
    rw [word_cons, word_cons, word_cons, word_nil, put_eq, put_eq, put_eq]
  refine roundTrips_word rfl (by omega) fun e₁ he hw k₁ hk => ?_
  rw [e0]
  clear e0
  generalize hW : 0x05000000 + a.toNat * 2 ^ 20 + b.toNat * 2 ^ 16 + o.toNat * 2 ^ 0 + k₁ * 2 ^ 31 = w₁
  have hm : w₁ / 2 ^ 24 % 128 = 0x05 := by omega
  have f0 : fld w₁ 20 4 = a := fld_eq (by omega)
  have f1 : fld w₁ 16 4 = b := fld_eq (by omega)
  have f2 : fld w₁ 0 16 = o := fld_eq (by omega)
  rw [candidate_shared hm (by decide)]
  unfold sharedOf
  rw [hm]
  show some (Instr.bne (fld w₁ 20 4) (fld w₁ 16 4) (fld w₁ 0 16)) = _
  rw [f0, f1, f2]

theorem blt (a : BitVec 4) (b : BitVec 4) (o : BitVec 16) : Statement (.blt a b o) := by
  have h0 := a.isLt; have h1 := b.isLt; have h2 := o.isLt
  have e0 : encodeWord (.blt a b o) = 0x06000000 + a.toNat * 2 ^ 20 + b.toNat * 2 ^ 16 + o.toNat * 2 ^ 0 := by
    show word 0x06000000 [put a 20, put b 16, put o 0] = _
    rw [word_cons, word_cons, word_cons, word_nil, put_eq, put_eq, put_eq]
  refine roundTrips_word rfl (by omega) fun e₁ he hw k₁ hk => ?_
  rw [e0]
  clear e0
  generalize hW : 0x06000000 + a.toNat * 2 ^ 20 + b.toNat * 2 ^ 16 + o.toNat * 2 ^ 0 + k₁ * 2 ^ 31 = w₁
  have hm : w₁ / 2 ^ 24 % 128 = 0x06 := by omega
  have f0 : fld w₁ 20 4 = a := fld_eq (by omega)
  have f1 : fld w₁ 16 4 = b := fld_eq (by omega)
  have f2 : fld w₁ 0 16 = o := fld_eq (by omega)
  rw [candidate_shared hm (by decide)]
  unfold sharedOf
  rw [hm]
  show some (Instr.blt (fld w₁ 20 4) (fld w₁ 16 4) (fld w₁ 0 16)) = _
  rw [f0, f1, f2]

theorem bge (a : BitVec 4) (b : BitVec 4) (o : BitVec 16) : Statement (.bge a b o) := by
  have h0 := a.isLt; have h1 := b.isLt; have h2 := o.isLt
  have e0 : encodeWord (.bge a b o) = 0x07000000 + a.toNat * 2 ^ 20 + b.toNat * 2 ^ 16 + o.toNat * 2 ^ 0 := by
    show word 0x07000000 [put a 20, put b 16, put o 0] = _
    rw [word_cons, word_cons, word_cons, word_nil, put_eq, put_eq, put_eq]
  refine roundTrips_word rfl (by omega) fun e₁ he hw k₁ hk => ?_
  rw [e0]
  clear e0
  generalize hW : 0x07000000 + a.toNat * 2 ^ 20 + b.toNat * 2 ^ 16 + o.toNat * 2 ^ 0 + k₁ * 2 ^ 31 = w₁
  have hm : w₁ / 2 ^ 24 % 128 = 0x07 := by omega
  have f0 : fld w₁ 20 4 = a := fld_eq (by omega)
  have f1 : fld w₁ 16 4 = b := fld_eq (by omega)
  have f2 : fld w₁ 0 16 = o := fld_eq (by omega)
  rw [candidate_shared hm (by decide)]
  unfold sharedOf
  rw [hm]
  show some (Instr.bge (fld w₁ 20 4) (fld w₁ 16 4) (fld w₁ 0 16)) = _
  rw [f0, f1, f2]

theorem bltu (a : BitVec 4) (b : BitVec 4) (o : BitVec 16) : Statement (.bltu a b o) := by
  have h0 := a.isLt; have h1 := b.isLt; have h2 := o.isLt
  have e0 : encodeWord (.bltu a b o) = 0x08000000 + a.toNat * 2 ^ 20 + b.toNat * 2 ^ 16 + o.toNat * 2 ^ 0 := by
    show word 0x08000000 [put a 20, put b 16, put o 0] = _
    rw [word_cons, word_cons, word_cons, word_nil, put_eq, put_eq, put_eq]
  refine roundTrips_word rfl (by omega) fun e₁ he hw k₁ hk => ?_
  rw [e0]
  clear e0
  generalize hW : 0x08000000 + a.toNat * 2 ^ 20 + b.toNat * 2 ^ 16 + o.toNat * 2 ^ 0 + k₁ * 2 ^ 31 = w₁
  have hm : w₁ / 2 ^ 24 % 128 = 0x08 := by omega
  have f0 : fld w₁ 20 4 = a := fld_eq (by omega)
  have f1 : fld w₁ 16 4 = b := fld_eq (by omega)
  have f2 : fld w₁ 0 16 = o := fld_eq (by omega)
  rw [candidate_shared hm (by decide)]
  unfold sharedOf
  rw [hm]
  show some (Instr.bltu (fld w₁ 20 4) (fld w₁ 16 4) (fld w₁ 0 16)) = _
  rw [f0, f1, f2]

theorem bgeu (a : BitVec 4) (b : BitVec 4) (o : BitVec 16) : Statement (.bgeu a b o) := by
  have h0 := a.isLt; have h1 := b.isLt; have h2 := o.isLt
  have e0 : encodeWord (.bgeu a b o) = 0x09000000 + a.toNat * 2 ^ 20 + b.toNat * 2 ^ 16 + o.toNat * 2 ^ 0 := by
    show word 0x09000000 [put a 20, put b 16, put o 0] = _
    rw [word_cons, word_cons, word_cons, word_nil, put_eq, put_eq, put_eq]
  refine roundTrips_word rfl (by omega) fun e₁ he hw k₁ hk => ?_
  rw [e0]
  clear e0
  generalize hW : 0x09000000 + a.toNat * 2 ^ 20 + b.toNat * 2 ^ 16 + o.toNat * 2 ^ 0 + k₁ * 2 ^ 31 = w₁
  have hm : w₁ / 2 ^ 24 % 128 = 0x09 := by omega
  have f0 : fld w₁ 20 4 = a := fld_eq (by omega)
  have f1 : fld w₁ 16 4 = b := fld_eq (by omega)
  have f2 : fld w₁ 0 16 = o := fld_eq (by omega)
  rw [candidate_shared hm (by decide)]
  unfold sharedOf
  rw [hm]
  show some (Instr.bgeu (fld w₁ 20 4) (fld w₁ 16 4) (fld w₁ 0 16)) = _
  rw [f0, f1, f2]

theorem bqt (o : BitVec 16) : Statement (.bqt o) := by
  have h0 := o.isLt
  have e0 : encodeWord (.bqt o) = 0x0A800000 + o.toNat * 2 ^ 0 := by
    show word 0x0A800000 [put o 0] = _
    rw [word_cons, word_nil, put_eq]
  refine roundTrips_word rfl (by omega) fun e₁ he hw k₁ hk => ?_
  rw [e0]
  clear e0
  generalize hW : 0x0A800000 + o.toNat * 2 ^ 0 + k₁ * 2 ^ 31 = w₁
  have hm : w₁ / 2 ^ 24 % 128 = 0x0A := by omega
  have f0 : fld w₁ 0 16 = o := fld_eq (by omega)
  rw [candidate_shared hm (by decide)]
  rw [sharedOf0A_eq hm]
  have hs : w₁ / 2 ^ 23 % 2 = 0x01 := by omega
  unfold sharedOf0A
  rw [hs]
  show some (Instr.bqt (fld w₁ 0 16)) = _
  rw [f0]

theorem bqf (o : BitVec 16) : Statement (.bqf o) := by
  have h0 := o.isLt
  have e0 : encodeWord (.bqf o) = 0x0A000000 + o.toNat * 2 ^ 0 := by
    show word 0x0A000000 [put o 0] = _
    rw [word_cons, word_nil, put_eq]
  refine roundTrips_word rfl (by omega) fun e₁ he hw k₁ hk => ?_
  rw [e0]
  clear e0
  generalize hW : 0x0A000000 + o.toNat * 2 ^ 0 + k₁ * 2 ^ 31 = w₁
  have hm : w₁ / 2 ^ 24 % 128 = 0x0A := by omega
  have f0 : fld w₁ 0 16 = o := fld_eq (by omega)
  rw [candidate_shared hm (by decide)]
  rw [sharedOf0A_eq hm]
  have hs : w₁ / 2 ^ 23 % 2 = 0x00 := by omega
  unfold sharedOf0A
  rw [hs]
  show some (Instr.bqf (fld w₁ 0 16)) = _
  rw [f0]

theorem jal (o : BitVec 24) : Statement (.jal o) := by
  have h0 := o.isLt
  have e0 : encodeWord (.jal o) = 0x0B000000 + o.toNat * 2 ^ 0 := by
    show word 0x0B000000 [put o 0] = _
    rw [word_cons, word_nil, put_eq]
  refine roundTrips_word rfl (by omega) fun e₁ he hw k₁ hk => ?_
  rw [e0]
  clear e0
  generalize hW : 0x0B000000 + o.toNat * 2 ^ 0 + k₁ * 2 ^ 31 = w₁
  have hm : w₁ / 2 ^ 24 % 128 = 0x0B := by omega
  have f0 : fld w₁ 0 24 = o := fld_eq (by omega)
  rw [candidate_shared hm (by decide)]
  unfold sharedOf
  rw [hm]
  show some (Instr.jal (fld w₁ 0 24)) = _
  rw [f0]

theorem jr (a : BitVec 4) : Statement (.jr a) := by
  have h0 := a.isLt
  have e0 : encodeWord (.jr a) = 0x0C000000 + a.toNat * 2 ^ 20 := by
    show word 0x0C000000 [put a 20] = _
    rw [word_cons, word_nil, put_eq]
  refine roundTrips_word rfl (by omega) fun e₁ he hw k₁ hk => ?_
  rw [e0]
  clear e0
  generalize hW : 0x0C000000 + a.toNat * 2 ^ 20 + k₁ * 2 ^ 31 = w₁
  have hm : w₁ / 2 ^ 24 % 128 = 0x0C := by omega
  have f0 : fld w₁ 20 4 = a := fld_eq (by omega)
  rw [candidate_shared hm (by decide)]
  rw [sharedOf0C_eq hm]
  have hs : w₁ / 2 ^ 19 % 2 = 0x00 := by omega
  unfold sharedOf0C
  rw [hs]
  show some (Instr.jr (fld w₁ 20 4)) = _
  rw [f0]

theorem loop (l : BitVec 2) (a : BitVec 4) (b : BitVec 16) : Statement (.loop l a b) := by
  have h0 := l.isLt; have h1 := a.isLt; have h2 := b.isLt
  have e0 : encodeWord (.loop l a b) = 0x0D000000 + l.toNat * 2 ^ 22 + a.toNat * 2 ^ 18 + b.toNat * 2 ^ 0 := by
    show word 0x0D000000 [put l 22, put a 18, put b 0] = _
    rw [word_cons, word_cons, word_cons, word_nil, put_eq, put_eq, put_eq]
  refine roundTrips_word rfl (by omega) fun e₁ he hw k₁ hk => ?_
  rw [e0]
  clear e0
  generalize hW : 0x0D000000 + l.toNat * 2 ^ 22 + a.toNat * 2 ^ 18 + b.toNat * 2 ^ 0 + k₁ * 2 ^ 31 = w₁
  have hm : w₁ / 2 ^ 24 % 128 = 0x0D := by omega
  have f0 : fld w₁ 22 2 = l := fld_eq (by omega)
  have f1 : fld w₁ 18 4 = a := fld_eq (by omega)
  have f2 : fld w₁ 0 16 = b := fld_eq (by omega)
  rw [candidate_shared hm (by decide)]
  unfold sharedOf
  rw [hm]
  show some (Instr.loop (fld w₁ 22 2) (fld w₁ 18 4) (fld w₁ 0 16)) = _
  rw [f0, f1, f2]

theorem loopi (l : BitVec 2) (n : BitVec 16) (b : BitVec 6) : Statement (.loopi l n b) := by
  have h0 := l.isLt; have h1 := n.isLt; have h2 := b.isLt
  have e0 : encodeWord (.loopi l n b) = 0x0E000000 + l.toNat * 2 ^ 22 + n.toNat * 2 ^ 6 + b.toNat * 2 ^ 0 := by
    show word 0x0E000000 [put l 22, put n 6, put b 0] = _
    rw [word_cons, word_cons, word_cons, word_nil, put_eq, put_eq, put_eq]
  refine roundTrips_word rfl (by omega) fun e₁ he hw k₁ hk => ?_
  rw [e0]
  clear e0
  generalize hW : 0x0E000000 + l.toNat * 2 ^ 22 + n.toNat * 2 ^ 6 + b.toNat * 2 ^ 0 + k₁ * 2 ^ 31 = w₁
  have hm : w₁ / 2 ^ 24 % 128 = 0x0E := by omega
  have f0 : fld w₁ 22 2 = l := fld_eq (by omega)
  have f1 : fld w₁ 6 16 = n := fld_eq (by omega)
  have f2 : fld w₁ 0 6 = b := fld_eq (by omega)
  rw [candidate_shared hm (by decide)]
  unfold sharedOf
  rw [hm]
  show some (Instr.loopi (fld w₁ 22 2) (fld w₁ 6 16) (fld w₁ 0 6)) = _
  rw [f0, f1, f2]

theorem adda (d : BitVec 4) (a : BitVec 4) (b : BitVec 4) : Statement (.adda d a b) := by
  have h0 := d.isLt; have h1 := a.isLt; have h2 := b.isLt
  have e0 : encodeWord (.adda d a b) = 0x10000000 + d.toNat * 2 ^ 20 + a.toNat * 2 ^ 16 + b.toNat * 2 ^ 12 := by
    show word 0x10000000 [put d 20, put a 16, put b 12] = _
    rw [word_cons, word_cons, word_cons, word_nil, put_eq, put_eq, put_eq]
  refine roundTrips_word rfl (by omega) fun e₁ he hw k₁ hk => ?_
  rw [e0]
  clear e0
  generalize hW : 0x10000000 + d.toNat * 2 ^ 20 + a.toNat * 2 ^ 16 + b.toNat * 2 ^ 12 + k₁ * 2 ^ 31 = w₁
  have hm : w₁ / 2 ^ 24 % 128 = 0x10 := by omega
  have f0 : fld w₁ 20 4 = d := fld_eq (by omega)
  have f1 : fld w₁ 16 4 = a := fld_eq (by omega)
  have f2 : fld w₁ 12 4 = b := fld_eq (by omega)
  rw [candidate_shared hm (by decide)]
  unfold sharedOf
  rw [hm]
  show some (Instr.adda (fld w₁ 20 4) (fld w₁ 16 4) (fld w₁ 12 4)) = _
  rw [f0, f1, f2]

theorem suba (d : BitVec 4) (a : BitVec 4) (b : BitVec 4) : Statement (.suba d a b) := by
  have h0 := d.isLt; have h1 := a.isLt; have h2 := b.isLt
  have e0 : encodeWord (.suba d a b) = 0x11000000 + d.toNat * 2 ^ 20 + a.toNat * 2 ^ 16 + b.toNat * 2 ^ 12 := by
    show word 0x11000000 [put d 20, put a 16, put b 12] = _
    rw [word_cons, word_cons, word_cons, word_nil, put_eq, put_eq, put_eq]
  refine roundTrips_word rfl (by omega) fun e₁ he hw k₁ hk => ?_
  rw [e0]
  clear e0
  generalize hW : 0x11000000 + d.toNat * 2 ^ 20 + a.toNat * 2 ^ 16 + b.toNat * 2 ^ 12 + k₁ * 2 ^ 31 = w₁
  have hm : w₁ / 2 ^ 24 % 128 = 0x11 := by omega
  have f0 : fld w₁ 20 4 = d := fld_eq (by omega)
  have f1 : fld w₁ 16 4 = a := fld_eq (by omega)
  have f2 : fld w₁ 12 4 = b := fld_eq (by omega)
  rw [candidate_shared hm (by decide)]
  unfold sharedOf
  rw [hm]
  show some (Instr.suba (fld w₁ 20 4) (fld w₁ 16 4) (fld w₁ 12 4)) = _
  rw [f0, f1, f2]

theorem addma (d : BitVec 4) (a : BitVec 4) (b : BitVec 4) (c : BitVec 4) : Statement (.addma d a b c) := by
  have h0 := d.isLt; have h1 := a.isLt; have h2 := b.isLt; have h3 := c.isLt
  have e0 : encodeWord (.addma d a b c) = 0x12000000 + d.toNat * 2 ^ 20 + a.toNat * 2 ^ 16 + b.toNat * 2 ^ 12 + c.toNat * 2 ^ 8 := by
    show word 0x12000000 [put d 20, put a 16, put b 12, put c 8] = _
    rw [word_cons, word_cons, word_cons, word_cons, word_nil, put_eq, put_eq, put_eq, put_eq]
  refine roundTrips_word rfl (by omega) fun e₁ he hw k₁ hk => ?_
  rw [e0]
  clear e0
  generalize hW : 0x12000000 + d.toNat * 2 ^ 20 + a.toNat * 2 ^ 16 + b.toNat * 2 ^ 12 + c.toNat * 2 ^ 8 + k₁ * 2 ^ 31 = w₁
  have hm : w₁ / 2 ^ 24 % 128 = 0x12 := by omega
  have f0 : fld w₁ 20 4 = d := fld_eq (by omega)
  have f1 : fld w₁ 16 4 = a := fld_eq (by omega)
  have f2 : fld w₁ 12 4 = b := fld_eq (by omega)
  have f3 : fld w₁ 8 4 = c := fld_eq (by omega)
  rw [candidate_shared hm (by decide)]
  unfold sharedOf
  rw [hm]
  show some (Instr.addma (fld w₁ 20 4) (fld w₁ 16 4) (fld w₁ 12 4) (fld w₁ 8 4)) = _
  rw [f0, f1, f2, f3]

theorem addia (d : BitVec 4) (a : BitVec 4) (i : BitVec 16) : Statement (.addia d a i) := by
  have h0 := d.isLt; have h1 := a.isLt; have h2 := i.isLt
  have e0 : encodeWord (.addia d a i) = 0x13000000 + d.toNat * 2 ^ 20 + a.toNat * 2 ^ 16 + i.toNat * 2 ^ 0 := by
    show word 0x13000000 [put d 20, put a 16, put i 0] = _
    rw [word_cons, word_cons, word_cons, word_nil, put_eq, put_eq, put_eq]
  refine roundTrips_word rfl (by omega) fun e₁ he hw k₁ hk => ?_
  rw [e0]
  clear e0
  generalize hW : 0x13000000 + d.toNat * 2 ^ 20 + a.toNat * 2 ^ 16 + i.toNat * 2 ^ 0 + k₁ * 2 ^ 31 = w₁
  have hm : w₁ / 2 ^ 24 % 128 = 0x13 := by omega
  have f0 : fld w₁ 20 4 = d := fld_eq (by omega)
  have f1 : fld w₁ 16 4 = a := fld_eq (by omega)
  have f2 : fld w₁ 0 16 = i := fld_eq (by omega)
  rw [candidate_shared hm (by decide)]
  unfold sharedOf
  rw [hm]
  show some (Instr.addia (fld w₁ 20 4) (fld w₁ 16 4) (fld w₁ 0 16)) = _
  rw [f0, f1, f2]

theorem andia (d : BitVec 4) (a : BitVec 4) (i : BitVec 16) : Statement (.andia d a i) := by
  have h0 := d.isLt; have h1 := a.isLt; have h2 := i.isLt
  have e0 : encodeWord (.andia d a i) = 0x14000000 + d.toNat * 2 ^ 20 + a.toNat * 2 ^ 16 + i.toNat * 2 ^ 0 := by
    show word 0x14000000 [put d 20, put a 16, put i 0] = _
    rw [word_cons, word_cons, word_cons, word_nil, put_eq, put_eq, put_eq]
  refine roundTrips_word rfl (by omega) fun e₁ he hw k₁ hk => ?_
  rw [e0]
  clear e0
  generalize hW : 0x14000000 + d.toNat * 2 ^ 20 + a.toNat * 2 ^ 16 + i.toNat * 2 ^ 0 + k₁ * 2 ^ 31 = w₁
  have hm : w₁ / 2 ^ 24 % 128 = 0x14 := by omega
  have f0 : fld w₁ 20 4 = d := fld_eq (by omega)
  have f1 : fld w₁ 16 4 = a := fld_eq (by omega)
  have f2 : fld w₁ 0 16 = i := fld_eq (by omega)
  rw [candidate_shared hm (by decide)]
  unfold sharedOf
  rw [hm]
  show some (Instr.andia (fld w₁ 20 4) (fld w₁ 16 4) (fld w₁ 0 16)) = _
  rw [f0, f1, f2]

theorem sllia (d : BitVec 4) (a : BitVec 4) (n : BitVec 6) : Statement (.sllia d a n) := by
  have h0 := d.isLt; have h1 := a.isLt; have h2 := n.isLt
  have e0 : encodeWord (.sllia d a n) = 0x15000000 + d.toNat * 2 ^ 20 + a.toNat * 2 ^ 16 + n.toNat * 2 ^ 0 := by
    show word 0x15000000 [put d 20, put a 16, put n 0] = _
    rw [word_cons, word_cons, word_cons, word_nil, put_eq, put_eq, put_eq]
  refine roundTrips_word rfl (by omega) fun e₁ he hw k₁ hk => ?_
  rw [e0]
  clear e0
  generalize hW : 0x15000000 + d.toNat * 2 ^ 20 + a.toNat * 2 ^ 16 + n.toNat * 2 ^ 0 + k₁ * 2 ^ 31 = w₁
  have hm : w₁ / 2 ^ 24 % 128 = 0x15 := by omega
  have f0 : fld w₁ 20 4 = d := fld_eq (by omega)
  have f1 : fld w₁ 16 4 = a := fld_eq (by omega)
  have f2 : fld w₁ 0 6 = n := fld_eq (by omega)
  rw [candidate_shared hm (by decide)]
  unfold sharedOf
  rw [hm]
  show some (Instr.sllia (fld w₁ 20 4) (fld w₁ 16 4) (fld w₁ 0 6)) = _
  rw [f0, f1, f2]

theorem srlia (d : BitVec 4) (a : BitVec 4) (n : BitVec 6) : Statement (.srlia d a n) := by
  have h0 := d.isLt; have h1 := a.isLt; have h2 := n.isLt
  have e0 : encodeWord (.srlia d a n) = 0x16000000 + d.toNat * 2 ^ 20 + a.toNat * 2 ^ 16 + n.toNat * 2 ^ 0 := by
    show word 0x16000000 [put d 20, put a 16, put n 0] = _
    rw [word_cons, word_cons, word_cons, word_nil, put_eq, put_eq, put_eq]
  refine roundTrips_word rfl (by omega) fun e₁ he hw k₁ hk => ?_
  rw [e0]
  clear e0
  generalize hW : 0x16000000 + d.toNat * 2 ^ 20 + a.toNat * 2 ^ 16 + n.toNat * 2 ^ 0 + k₁ * 2 ^ 31 = w₁
  have hm : w₁ / 2 ^ 24 % 128 = 0x16 := by omega
  have f0 : fld w₁ 20 4 = d := fld_eq (by omega)
  have f1 : fld w₁ 16 4 = a := fld_eq (by omega)
  have f2 : fld w₁ 0 6 = n := fld_eq (by omega)
  rw [candidate_shared hm (by decide)]
  unfold sharedOf
  rw [hm]
  show some (Instr.srlia (fld w₁ 20 4) (fld w₁ 16 4) (fld w₁ 0 6)) = _
  rw [f0, f1, f2]

theorem movia (d : BitVec 4) (h : BitVec 2) (i : BitVec 16) : Statement (.movia d h i) := by
  have h0 := d.isLt; have h1 := h.isLt; have h2 := i.isLt
  have e0 : encodeWord (.movia d h i) = 0x17000000 + d.toNat * 2 ^ 20 + h.toNat * 2 ^ 18 + i.toNat * 2 ^ 0 := by
    show word 0x17000000 [put d 20, put h 18, put i 0] = _
    rw [word_cons, word_cons, word_cons, word_nil, put_eq, put_eq, put_eq]
  refine roundTrips_word rfl (by omega) fun e₁ he hw k₁ hk => ?_
  rw [e0]
  clear e0
  generalize hW : 0x17000000 + d.toNat * 2 ^ 20 + h.toNat * 2 ^ 18 + i.toNat * 2 ^ 0 + k₁ * 2 ^ 31 = w₁
  have hm : w₁ / 2 ^ 24 % 128 = 0x17 := by omega
  have f0 : fld w₁ 20 4 = d := fld_eq (by omega)
  have f1 : fld w₁ 18 2 = h := fld_eq (by omega)
  have f2 : fld w₁ 0 16 = i := fld_eq (by omega)
  rw [candidate_shared hm (by decide)]
  unfold sharedOf
  rw [hm]
  show some (Instr.movia (fld w₁ 20 4) (fld w₁ 18 2) (fld w₁ 0 16)) = _
  rw [f0, f1, f2]

theorem movka (d : BitVec 4) (h : BitVec 2) (i : BitVec 16) : Statement (.movka d h i) := by
  have h0 := d.isLt; have h1 := h.isLt; have h2 := i.isLt
  have e0 : encodeWord (.movka d h i) = 0x18000000 + d.toNat * 2 ^ 20 + h.toNat * 2 ^ 18 + i.toNat * 2 ^ 0 := by
    show word 0x18000000 [put d 20, put h 18, put i 0] = _
    rw [word_cons, word_cons, word_cons, word_nil, put_eq, put_eq, put_eq]
  refine roundTrips_word rfl (by omega) fun e₁ he hw k₁ hk => ?_
  rw [e0]
  clear e0
  generalize hW : 0x18000000 + d.toNat * 2 ^ 20 + h.toNat * 2 ^ 18 + i.toNat * 2 ^ 0 + k₁ * 2 ^ 31 = w₁
  have hm : w₁ / 2 ^ 24 % 128 = 0x18 := by omega
  have f0 : fld w₁ 20 4 = d := fld_eq (by omega)
  have f1 : fld w₁ 18 2 = h := fld_eq (by omega)
  have f2 : fld w₁ 0 16 = i := fld_eq (by omega)
  rw [candidate_shared hm (by decide)]
  unfold sharedOf
  rw [hm]
  show some (Instr.movka (fld w₁ 20 4) (fld w₁ 18 2) (fld w₁ 0 16)) = _
  rw [f0, f1, f2]

theorem moval (l : BitVec 2) (a : BitVec 4) : Statement (.moval l a) := by
  have h0 := l.isLt; have h1 := a.isLt
  have e0 : encodeWord (.moval l a) = 0x19000000 + l.toNat * 2 ^ 21 + a.toNat * 2 ^ 17 := by
    show word 0x19000000 [put l 21, put a 17] = _
    rw [word_cons, word_cons, word_nil, put_eq, put_eq]
  refine roundTrips_word rfl (by omega) fun e₁ he hw k₁ hk => ?_
  rw [e0]
  clear e0
  generalize hW : 0x19000000 + l.toNat * 2 ^ 21 + a.toNat * 2 ^ 17 + k₁ * 2 ^ 31 = w₁
  have hm : w₁ / 2 ^ 24 % 128 = 0x19 := by omega
  have f0 : fld w₁ 21 2 = l := fld_eq (by omega)
  have f1 : fld w₁ 17 4 = a := fld_eq (by omega)
  rw [candidate_shared hm (by decide)]
  rw [sharedOf19_eq hm]
  have hs : w₁ / 2 ^ 23 % 2 = 0x00 := by omega
  unfold sharedOf19
  rw [hs]
  show some (Instr.moval (fld w₁ 21 2) (fld w₁ 17 4)) = _
  rw [f0, f1]

theorem movla (l : BitVec 2) (a : BitVec 4) : Statement (.movla l a) := by
  have h0 := l.isLt; have h1 := a.isLt
  have e0 : encodeWord (.movla l a) = 0x19800000 + l.toNat * 2 ^ 21 + a.toNat * 2 ^ 17 := by
    show word 0x19800000 [put l 21, put a 17] = _
    rw [word_cons, word_cons, word_nil, put_eq, put_eq]
  refine roundTrips_word rfl (by omega) fun e₁ he hw k₁ hk => ?_
  rw [e0]
  clear e0
  generalize hW : 0x19800000 + l.toNat * 2 ^ 21 + a.toNat * 2 ^ 17 + k₁ * 2 ^ 31 = w₁
  have hm : w₁ / 2 ^ 24 % 128 = 0x19 := by omega
  have f0 : fld w₁ 21 2 = l := fld_eq (by omega)
  have f1 : fld w₁ 17 4 = a := fld_eq (by omega)
  rw [candidate_shared hm (by decide)]
  rw [sharedOf19_eq hm]
  have hs : w₁ / 2 ^ 23 % 2 = 0x01 := by omega
  unfold sharedOf19
  rw [hs]
  show some (Instr.movla (fld w₁ 21 2) (fld w₁ 17 4)) = _
  rw [f0, f1]

theorem twait (t : BitVec 5) (n : BitVec 16) : Statement (.twait t n) := by
  have h0 := t.isLt; have h1 := n.isLt
  have e0 : encodeWord (.twait t n) = 0x20000000 + t.toNat * 2 ^ 19 + n.toNat * 2 ^ 0 := by
    show word 0x20000000 [put t 19, put n 0] = _
    rw [word_cons, word_cons, word_nil, put_eq, put_eq]
  refine roundTrips_word rfl (by omega) fun e₁ he hw k₁ hk => ?_
  rw [e0]
  clear e0
  generalize hW : 0x20000000 + t.toNat * 2 ^ 19 + n.toNat * 2 ^ 0 + k₁ * 2 ^ 31 = w₁
  have hm : w₁ / 2 ^ 24 % 128 = 0x20 := by omega
  have f0 : fld w₁ 19 5 = t := fld_eq (by omega)
  have f1 : fld w₁ 0 16 = n := fld_eq (by omega)
  rw [candidate_shared hm (by decide)]
  rw [sharedOf20_eq hm]
  have hs : w₁ / 2 ^ 18 % 2 = 0x00 := by omega
  unfold sharedOf20
  rw [hs]
  show some (Instr.twait (fld w₁ 19 5) (fld w₁ 0 16)) = _
  rw [f0, f1]

theorem twaitReg (t : BitVec 5) (a : BitVec 4) : Statement (.twaitReg t a) := by
  have h0 := t.isLt; have h1 := a.isLt
  have e0 : encodeWord (.twaitReg t a) = 0x20040000 + t.toNat * 2 ^ 19 + a.toNat * 2 ^ 0 := by
    show word 0x20040000 [put t 19, put a 0] = _
    rw [word_cons, word_cons, word_nil, put_eq, put_eq]
  refine roundTrips_word rfl (by omega) fun e₁ he hw k₁ hk => ?_
  rw [e0]
  clear e0
  generalize hW : 0x20040000 + t.toNat * 2 ^ 19 + a.toNat * 2 ^ 0 + k₁ * 2 ^ 31 = w₁
  have hm : w₁ / 2 ^ 24 % 128 = 0x20 := by omega
  have f0 : fld w₁ 19 5 = t := fld_eq (by omega)
  have f1 : fld w₁ 0 4 = a := fld_eq (by omega)
  rw [candidate_shared hm (by decide)]
  rw [sharedOf20_eq hm]
  have hs : w₁ / 2 ^ 18 % 2 = 0x01 := by omega
  unfold sharedOf20
  rw [hs]
  show some (Instr.twaitReg (fld w₁ 19 5) (fld w₁ 0 4)) = _
  rw [f0, f1]

theorem tpost (t : BitVec 5) (n : BitVec 8) : Statement (.tpost t n) := by
  have h0 := t.isLt; have h1 := n.isLt
  have e0 : encodeWord (.tpost t n) = 0x21000000 + t.toNat * 2 ^ 19 + n.toNat * 2 ^ 0 := by
    show word 0x21000000 [put t 19, put n 0] = _
    rw [word_cons, word_cons, word_nil, put_eq, put_eq]
  refine roundTrips_word rfl (by omega) fun e₁ he hw k₁ hk => ?_
  rw [e0]
  clear e0
  generalize hW : 0x21000000 + t.toNat * 2 ^ 19 + n.toNat * 2 ^ 0 + k₁ * 2 ^ 31 = w₁
  have hm : w₁ / 2 ^ 24 % 128 = 0x21 := by omega
  have f0 : fld w₁ 19 5 = t := fld_eq (by omega)
  have f1 : fld w₁ 0 8 = n := fld_eq (by omega)
  rw [candidate_shared hm (by decide)]
  unfold sharedOf
  rw [hm]
  show some (Instr.tpost (fld w₁ 19 5) (fld w₁ 0 8)) = _
  rw [f0, f1]

theorem tstat (t : BitVec 5) (d : BitVec 4) (c : BitVec 1) : Statement (.tstat t d c) := by
  have h0 := t.isLt; have h1 := d.isLt; have h2 := c.isLt
  have e0 : encodeWord (.tstat t d c) = 0x22000000 + t.toNat * 2 ^ 19 + d.toNat * 2 ^ 15 + c.toNat * 2 ^ 14 := by
    show word 0x22000000 [put t 19, put d 15, put c 14] = _
    rw [word_cons, word_cons, word_cons, word_nil, put_eq, put_eq, put_eq]
  refine roundTrips_word rfl (by omega) fun e₁ he hw k₁ hk => ?_
  rw [e0]
  clear e0
  generalize hW : 0x22000000 + t.toNat * 2 ^ 19 + d.toNat * 2 ^ 15 + c.toNat * 2 ^ 14 + k₁ * 2 ^ 31 = w₁
  have hm : w₁ / 2 ^ 24 % 128 = 0x22 := by omega
  have f0 : fld w₁ 19 5 = t := fld_eq (by omega)
  have f1 : fld w₁ 15 4 = d := fld_eq (by omega)
  have f2 : fld w₁ 14 1 = c := fld_eq (by omega)
  rw [candidate_shared hm (by decide)]
  unfold sharedOf
  rw [hm]
  show some (Instr.tstat (fld w₁ 19 5) (fld w₁ 15 4) (fld w₁ 14 1)) = _
  rw [f0, f1, f2]

theorem chk (f : BitVec 2) (n : BitVec 6) : Statement (.chk f n) := by
  have h0 := f.isLt; have h1 := n.isLt
  have e0 : encodeWord (.chk f n) = 0x23000000 + f.toNat * 2 ^ 22 + n.toNat * 2 ^ 16 := by
    show word 0x23000000 [put f 22, put n 16] = _
    rw [word_cons, word_cons, word_nil, put_eq, put_eq]
  refine roundTrips_word rfl (by omega) fun e₁ he hw k₁ hk => ?_
  rw [e0]
  clear e0
  generalize hW : 0x23000000 + f.toNat * 2 ^ 22 + n.toNat * 2 ^ 16 + k₁ * 2 ^ 31 = w₁
  have hm : w₁ / 2 ^ 24 % 128 = 0x23 := by omega
  have f0 : fld w₁ 22 2 = f := fld_eq (by omega)
  have f1 : fld w₁ 16 6 = n := fld_eq (by omega)
  rw [candidate_shared hm (by decide)]
  unfold sharedOf
  rw [hm]
  show some (Instr.chk (fld w₁ 22 2) (fld w₁ 16 6)) = _
  rw [f0, f1]

theorem selcShared (d : BitVec 4) (c : BitVec 4) (x : BitVec 4) (y : BitVec 4) : Statement (.selcShared d c x y) := by
  have h0 := d.isLt; have h1 := c.isLt; have h2 := x.isLt; have h3 := y.isLt
  have e0 : encodeWord (.selcShared d c x y) = 0x24000000 + d.toNat * 2 ^ 20 + c.toNat * 2 ^ 16 + x.toNat * 2 ^ 12 + y.toNat * 2 ^ 8 := by
    show word 0x24000000 [put d 20, put c 16, put x 12, put y 8] = _
    rw [word_cons, word_cons, word_cons, word_cons, word_nil, put_eq, put_eq, put_eq, put_eq]
  refine roundTrips_word rfl (by omega) fun e₁ he hw k₁ hk => ?_
  rw [e0]
  clear e0
  generalize hW : 0x24000000 + d.toNat * 2 ^ 20 + c.toNat * 2 ^ 16 + x.toNat * 2 ^ 12 + y.toNat * 2 ^ 8 + k₁ * 2 ^ 31 = w₁
  have hm : w₁ / 2 ^ 24 % 128 = 0x24 := by omega
  have f0 : fld w₁ 20 4 = d := fld_eq (by omega)
  have f1 : fld w₁ 16 4 = c := fld_eq (by omega)
  have f2 : fld w₁ 12 4 = x := fld_eq (by omega)
  have f3 : fld w₁ 8 4 = y := fld_eq (by omega)
  rw [candidate_shared hm (by decide)]
  unfold sharedOf
  rw [hm]
  show some (Instr.selcShared (fld w₁ 20 4) (fld w₁ 16 4) (fld w₁ 12 4) (fld w₁ 8 4)) = _
  rw [f0, f1, f2, f3]

theorem pfx (t : BitVec 1) (k : BitVec 5) (p : BitVec 4) (r : BitVec 3) (x : BitVec 1) (q : BitVec 1) (m : BitVec 1) (n : BitVec 1) : Statement (.pfx t k p r x q m n) := by
  have h0 := t.isLt; have h1 := k.isLt; have h2 := p.isLt; have h3 := r.isLt; have h4 := x.isLt; have h5 := q.isLt; have h6 := m.isLt; have h7 := n.isLt
  have e0 : encodeWord (.pfx t k p r x q m n) = 0x3F000000 + t.toNat * 2 ^ 23 + k.toNat * 2 ^ 18 + p.toNat * 2 ^ 14 + r.toNat * 2 ^ 11 + x.toNat * 2 ^ 10 + q.toNat * 2 ^ 9 + m.toNat * 2 ^ 8 + n.toNat * 2 ^ 7 := by
    show word 0x3F000000 [put t 23, put k 18, put p 14, put r 11, put x 10, put q 9, put m 8, put n 7] = _
    rw [word_cons, word_cons, word_cons, word_cons, word_cons, word_cons, word_cons, word_cons, word_nil, put_eq, put_eq, put_eq, put_eq, put_eq, put_eq, put_eq, put_eq]
  refine roundTrips_word rfl (by omega) fun e₁ he hw k₁ hk => ?_
  rw [e0]
  clear e0
  generalize hW : 0x3F000000 + t.toNat * 2 ^ 23 + k.toNat * 2 ^ 18 + p.toNat * 2 ^ 14 + r.toNat * 2 ^ 11 + x.toNat * 2 ^ 10 + q.toNat * 2 ^ 9 + m.toNat * 2 ^ 8 + n.toNat * 2 ^ 7 + k₁ * 2 ^ 31 = w₁
  have hm : w₁ / 2 ^ 24 % 128 = 0x3F := by omega
  have f0 : fld w₁ 23 1 = t := fld_eq (by omega)
  have f1 : fld w₁ 18 5 = k := fld_eq (by omega)
  have f2 : fld w₁ 14 4 = p := fld_eq (by omega)
  have f3 : fld w₁ 11 3 = r := fld_eq (by omega)
  have f4 : fld w₁ 10 1 = x := fld_eq (by omega)
  have f5 : fld w₁ 9 1 = q := fld_eq (by omega)
  have f6 : fld w₁ 8 1 = m := fld_eq (by omega)
  have f7 : fld w₁ 7 1 = n := fld_eq (by omega)
  rw [candidate_shared hm (by decide)]
  unfold sharedOf
  rw [hm]
  show some (Instr.pfx (fld w₁ 23 1) (fld w₁ 18 5) (fld w₁ 14 4) (fld w₁ 11 3) (fld w₁ 10 1) (fld w₁ 9 1) (fld w₁ 8 1) (fld w₁ 7 1)) = _
  rw [f0, f1, f2, f3, f4, f5, f6, f7]

theorem add (d : BitVec 6) (a : BitVec 6) (b : BitVec 6) : Statement (.add d a b) := by
  have h0 := d.isLt; have h1 := a.isLt; have h2 := b.isLt
  have e0 : encodeWord (.add d a b) = 0x40000000 + d.toNat * 2 ^ 18 + a.toNat * 2 ^ 12 + b.toNat * 2 ^ 6 := by
    show word 0x40000000 [put d 18, put a 12, put b 6] = _
    rw [word_cons, word_cons, word_cons, word_nil, put_eq, put_eq, put_eq]
  refine roundTrips_word rfl (by omega) fun e₁ he hw k₁ hk => ?_
  rw [e0]
  clear e0
  generalize hW : 0x40000000 + d.toNat * 2 ^ 18 + a.toNat * 2 ^ 12 + b.toNat * 2 ^ 6 + k₁ * 2 ^ 31 = w₁
  have hm : w₁ / 2 ^ 24 % 128 = 0x40 := by omega
  have f0 : fld w₁ 18 6 = d := fld_eq (by omega)
  have f1 : fld w₁ 12 6 = a := fld_eq (by omega)
  have f2 : fld w₁ 6 6 = b := fld_eq (by omega)
  obtain rfl : e₁ = 0 := by simpa using (show (e₁ == 0) = true from he)
  rw [candidate_seq hm (by decide)]
  rw [seqOf40_eq hm]
  have hs : w₁ % 64 = 0x00 := by omega
  unfold seqOf40
  rw [hs]
  show some (Instr.add (fld w₁ 18 6) (fld w₁ 12 6) (fld w₁ 6 6)) = _
  rw [f0, f1, f2]

theorem sub (d : BitVec 6) (a : BitVec 6) (b : BitVec 6) : Statement (.sub d a b) := by
  have h0 := d.isLt; have h1 := a.isLt; have h2 := b.isLt
  have e0 : encodeWord (.sub d a b) = 0x40000001 + d.toNat * 2 ^ 18 + a.toNat * 2 ^ 12 + b.toNat * 2 ^ 6 := by
    show word 0x40000001 [put d 18, put a 12, put b 6] = _
    rw [word_cons, word_cons, word_cons, word_nil, put_eq, put_eq, put_eq]
  refine roundTrips_word rfl (by omega) fun e₁ he hw k₁ hk => ?_
  rw [e0]
  clear e0
  generalize hW : 0x40000001 + d.toNat * 2 ^ 18 + a.toNat * 2 ^ 12 + b.toNat * 2 ^ 6 + k₁ * 2 ^ 31 = w₁
  have hm : w₁ / 2 ^ 24 % 128 = 0x40 := by omega
  have f0 : fld w₁ 18 6 = d := fld_eq (by omega)
  have f1 : fld w₁ 12 6 = a := fld_eq (by omega)
  have f2 : fld w₁ 6 6 = b := fld_eq (by omega)
  obtain rfl : e₁ = 0 := by simpa using (show (e₁ == 0) = true from he)
  rw [candidate_seq hm (by decide)]
  rw [seqOf40_eq hm]
  have hs : w₁ % 64 = 0x01 := by omega
  unfold seqOf40
  rw [hs]
  show some (Instr.sub (fld w₁ 18 6) (fld w₁ 12 6) (fld w₁ 6 6)) = _
  rw [f0, f1, f2]

theorem and (d : BitVec 6) (a : BitVec 6) (b : BitVec 6) : Statement (.and d a b) := by
  have h0 := d.isLt; have h1 := a.isLt; have h2 := b.isLt
  have e0 : encodeWord (.and d a b) = 0x40000002 + d.toNat * 2 ^ 18 + a.toNat * 2 ^ 12 + b.toNat * 2 ^ 6 := by
    show word 0x40000002 [put d 18, put a 12, put b 6] = _
    rw [word_cons, word_cons, word_cons, word_nil, put_eq, put_eq, put_eq]
  refine roundTrips_word rfl (by omega) fun e₁ he hw k₁ hk => ?_
  rw [e0]
  clear e0
  generalize hW : 0x40000002 + d.toNat * 2 ^ 18 + a.toNat * 2 ^ 12 + b.toNat * 2 ^ 6 + k₁ * 2 ^ 31 = w₁
  have hm : w₁ / 2 ^ 24 % 128 = 0x40 := by omega
  have f0 : fld w₁ 18 6 = d := fld_eq (by omega)
  have f1 : fld w₁ 12 6 = a := fld_eq (by omega)
  have f2 : fld w₁ 6 6 = b := fld_eq (by omega)
  obtain rfl : e₁ = 0 := by simpa using (show (e₁ == 0) = true from he)
  rw [candidate_seq hm (by decide)]
  rw [seqOf40_eq hm]
  have hs : w₁ % 64 = 0x02 := by omega
  unfold seqOf40
  rw [hs]
  show some (Instr.and (fld w₁ 18 6) (fld w₁ 12 6) (fld w₁ 6 6)) = _
  rw [f0, f1, f2]

theorem or (d : BitVec 6) (a : BitVec 6) (b : BitVec 6) : Statement (.or d a b) := by
  have h0 := d.isLt; have h1 := a.isLt; have h2 := b.isLt
  have e0 : encodeWord (.or d a b) = 0x40000003 + d.toNat * 2 ^ 18 + a.toNat * 2 ^ 12 + b.toNat * 2 ^ 6 := by
    show word 0x40000003 [put d 18, put a 12, put b 6] = _
    rw [word_cons, word_cons, word_cons, word_nil, put_eq, put_eq, put_eq]
  refine roundTrips_word rfl (by omega) fun e₁ he hw k₁ hk => ?_
  rw [e0]
  clear e0
  generalize hW : 0x40000003 + d.toNat * 2 ^ 18 + a.toNat * 2 ^ 12 + b.toNat * 2 ^ 6 + k₁ * 2 ^ 31 = w₁
  have hm : w₁ / 2 ^ 24 % 128 = 0x40 := by omega
  have f0 : fld w₁ 18 6 = d := fld_eq (by omega)
  have f1 : fld w₁ 12 6 = a := fld_eq (by omega)
  have f2 : fld w₁ 6 6 = b := fld_eq (by omega)
  obtain rfl : e₁ = 0 := by simpa using (show (e₁ == 0) = true from he)
  rw [candidate_seq hm (by decide)]
  rw [seqOf40_eq hm]
  have hs : w₁ % 64 = 0x03 := by omega
  unfold seqOf40
  rw [hs]
  show some (Instr.or (fld w₁ 18 6) (fld w₁ 12 6) (fld w₁ 6 6)) = _
  rw [f0, f1, f2]

theorem xor (d : BitVec 6) (a : BitVec 6) (b : BitVec 6) : Statement (.xor d a b) := by
  have h0 := d.isLt; have h1 := a.isLt; have h2 := b.isLt
  have e0 : encodeWord (.xor d a b) = 0x40000004 + d.toNat * 2 ^ 18 + a.toNat * 2 ^ 12 + b.toNat * 2 ^ 6 := by
    show word 0x40000004 [put d 18, put a 12, put b 6] = _
    rw [word_cons, word_cons, word_cons, word_nil, put_eq, put_eq, put_eq]
  refine roundTrips_word rfl (by omega) fun e₁ he hw k₁ hk => ?_
  rw [e0]
  clear e0
  generalize hW : 0x40000004 + d.toNat * 2 ^ 18 + a.toNat * 2 ^ 12 + b.toNat * 2 ^ 6 + k₁ * 2 ^ 31 = w₁
  have hm : w₁ / 2 ^ 24 % 128 = 0x40 := by omega
  have f0 : fld w₁ 18 6 = d := fld_eq (by omega)
  have f1 : fld w₁ 12 6 = a := fld_eq (by omega)
  have f2 : fld w₁ 6 6 = b := fld_eq (by omega)
  obtain rfl : e₁ = 0 := by simpa using (show (e₁ == 0) = true from he)
  rw [candidate_seq hm (by decide)]
  rw [seqOf40_eq hm]
  have hs : w₁ % 64 = 0x04 := by omega
  unfold seqOf40
  rw [hs]
  show some (Instr.xor (fld w₁ 18 6) (fld w₁ 12 6) (fld w₁ 6 6)) = _
  rw [f0, f1, f2]

theorem andn (d : BitVec 6) (a : BitVec 6) (b : BitVec 6) : Statement (.andn d a b) := by
  have h0 := d.isLt; have h1 := a.isLt; have h2 := b.isLt
  have e0 : encodeWord (.andn d a b) = 0x40000005 + d.toNat * 2 ^ 18 + a.toNat * 2 ^ 12 + b.toNat * 2 ^ 6 := by
    show word 0x40000005 [put d 18, put a 12, put b 6] = _
    rw [word_cons, word_cons, word_cons, word_nil, put_eq, put_eq, put_eq]
  refine roundTrips_word rfl (by omega) fun e₁ he hw k₁ hk => ?_
  rw [e0]
  clear e0
  generalize hW : 0x40000005 + d.toNat * 2 ^ 18 + a.toNat * 2 ^ 12 + b.toNat * 2 ^ 6 + k₁ * 2 ^ 31 = w₁
  have hm : w₁ / 2 ^ 24 % 128 = 0x40 := by omega
  have f0 : fld w₁ 18 6 = d := fld_eq (by omega)
  have f1 : fld w₁ 12 6 = a := fld_eq (by omega)
  have f2 : fld w₁ 6 6 = b := fld_eq (by omega)
  obtain rfl : e₁ = 0 := by simpa using (show (e₁ == 0) = true from he)
  rw [candidate_seq hm (by decide)]
  rw [seqOf40_eq hm]
  have hs : w₁ % 64 = 0x05 := by omega
  unfold seqOf40
  rw [hs]
  show some (Instr.andn (fld w₁ 18 6) (fld w₁ 12 6) (fld w₁ 6 6)) = _
  rw [f0, f1, f2]

theorem orn (d : BitVec 6) (a : BitVec 6) (b : BitVec 6) : Statement (.orn d a b) := by
  have h0 := d.isLt; have h1 := a.isLt; have h2 := b.isLt
  have e0 : encodeWord (.orn d a b) = 0x40000006 + d.toNat * 2 ^ 18 + a.toNat * 2 ^ 12 + b.toNat * 2 ^ 6 := by
    show word 0x40000006 [put d 18, put a 12, put b 6] = _
    rw [word_cons, word_cons, word_cons, word_nil, put_eq, put_eq, put_eq]
  refine roundTrips_word rfl (by omega) fun e₁ he hw k₁ hk => ?_
  rw [e0]
  clear e0
  generalize hW : 0x40000006 + d.toNat * 2 ^ 18 + a.toNat * 2 ^ 12 + b.toNat * 2 ^ 6 + k₁ * 2 ^ 31 = w₁
  have hm : w₁ / 2 ^ 24 % 128 = 0x40 := by omega
  have f0 : fld w₁ 18 6 = d := fld_eq (by omega)
  have f1 : fld w₁ 12 6 = a := fld_eq (by omega)
  have f2 : fld w₁ 6 6 = b := fld_eq (by omega)
  obtain rfl : e₁ = 0 := by simpa using (show (e₁ == 0) = true from he)
  rw [candidate_seq hm (by decide)]
  rw [seqOf40_eq hm]
  have hs : w₁ % 64 = 0x06 := by omega
  unfold seqOf40
  rw [hs]
  show some (Instr.orn (fld w₁ 18 6) (fld w₁ 12 6) (fld w₁ 6 6)) = _
  rw [f0, f1, f2]

theorem xnor (d : BitVec 6) (a : BitVec 6) (b : BitVec 6) : Statement (.xnor d a b) := by
  have h0 := d.isLt; have h1 := a.isLt; have h2 := b.isLt
  have e0 : encodeWord (.xnor d a b) = 0x40000007 + d.toNat * 2 ^ 18 + a.toNat * 2 ^ 12 + b.toNat * 2 ^ 6 := by
    show word 0x40000007 [put d 18, put a 12, put b 6] = _
    rw [word_cons, word_cons, word_cons, word_nil, put_eq, put_eq, put_eq]
  refine roundTrips_word rfl (by omega) fun e₁ he hw k₁ hk => ?_
  rw [e0]
  clear e0
  generalize hW : 0x40000007 + d.toNat * 2 ^ 18 + a.toNat * 2 ^ 12 + b.toNat * 2 ^ 6 + k₁ * 2 ^ 31 = w₁
  have hm : w₁ / 2 ^ 24 % 128 = 0x40 := by omega
  have f0 : fld w₁ 18 6 = d := fld_eq (by omega)
  have f1 : fld w₁ 12 6 = a := fld_eq (by omega)
  have f2 : fld w₁ 6 6 = b := fld_eq (by omega)
  obtain rfl : e₁ = 0 := by simpa using (show (e₁ == 0) = true from he)
  rw [candidate_seq hm (by decide)]
  rw [seqOf40_eq hm]
  have hs : w₁ % 64 = 0x07 := by omega
  unfold seqOf40
  rw [hs]
  show some (Instr.xnor (fld w₁ 18 6) (fld w₁ 12 6) (fld w₁ 6 6)) = _
  rw [f0, f1, f2]

theorem sll (d : BitVec 6) (a : BitVec 6) (b : BitVec 6) : Statement (.sll d a b) := by
  have h0 := d.isLt; have h1 := a.isLt; have h2 := b.isLt
  have e0 : encodeWord (.sll d a b) = 0x40000008 + d.toNat * 2 ^ 18 + a.toNat * 2 ^ 12 + b.toNat * 2 ^ 6 := by
    show word 0x40000008 [put d 18, put a 12, put b 6] = _
    rw [word_cons, word_cons, word_cons, word_nil, put_eq, put_eq, put_eq]
  refine roundTrips_word rfl (by omega) fun e₁ he hw k₁ hk => ?_
  rw [e0]
  clear e0
  generalize hW : 0x40000008 + d.toNat * 2 ^ 18 + a.toNat * 2 ^ 12 + b.toNat * 2 ^ 6 + k₁ * 2 ^ 31 = w₁
  have hm : w₁ / 2 ^ 24 % 128 = 0x40 := by omega
  have f0 : fld w₁ 18 6 = d := fld_eq (by omega)
  have f1 : fld w₁ 12 6 = a := fld_eq (by omega)
  have f2 : fld w₁ 6 6 = b := fld_eq (by omega)
  obtain rfl : e₁ = 0 := by simpa using (show (e₁ == 0) = true from he)
  rw [candidate_seq hm (by decide)]
  rw [seqOf40_eq hm]
  have hs : w₁ % 64 = 0x08 := by omega
  unfold seqOf40
  rw [hs]
  show some (Instr.sll (fld w₁ 18 6) (fld w₁ 12 6) (fld w₁ 6 6)) = _
  rw [f0, f1, f2]

theorem srl (d : BitVec 6) (a : BitVec 6) (b : BitVec 6) : Statement (.srl d a b) := by
  have h0 := d.isLt; have h1 := a.isLt; have h2 := b.isLt
  have e0 : encodeWord (.srl d a b) = 0x40000009 + d.toNat * 2 ^ 18 + a.toNat * 2 ^ 12 + b.toNat * 2 ^ 6 := by
    show word 0x40000009 [put d 18, put a 12, put b 6] = _
    rw [word_cons, word_cons, word_cons, word_nil, put_eq, put_eq, put_eq]
  refine roundTrips_word rfl (by omega) fun e₁ he hw k₁ hk => ?_
  rw [e0]
  clear e0
  generalize hW : 0x40000009 + d.toNat * 2 ^ 18 + a.toNat * 2 ^ 12 + b.toNat * 2 ^ 6 + k₁ * 2 ^ 31 = w₁
  have hm : w₁ / 2 ^ 24 % 128 = 0x40 := by omega
  have f0 : fld w₁ 18 6 = d := fld_eq (by omega)
  have f1 : fld w₁ 12 6 = a := fld_eq (by omega)
  have f2 : fld w₁ 6 6 = b := fld_eq (by omega)
  obtain rfl : e₁ = 0 := by simpa using (show (e₁ == 0) = true from he)
  rw [candidate_seq hm (by decide)]
  rw [seqOf40_eq hm]
  have hs : w₁ % 64 = 0x09 := by omega
  unfold seqOf40
  rw [hs]
  show some (Instr.srl (fld w₁ 18 6) (fld w₁ 12 6) (fld w₁ 6 6)) = _
  rw [f0, f1, f2]

theorem sra (d : BitVec 6) (a : BitVec 6) (b : BitVec 6) : Statement (.sra d a b) := by
  have h0 := d.isLt; have h1 := a.isLt; have h2 := b.isLt
  have e0 : encodeWord (.sra d a b) = 0x4000000A + d.toNat * 2 ^ 18 + a.toNat * 2 ^ 12 + b.toNat * 2 ^ 6 := by
    show word 0x4000000A [put d 18, put a 12, put b 6] = _
    rw [word_cons, word_cons, word_cons, word_nil, put_eq, put_eq, put_eq]
  refine roundTrips_word rfl (by omega) fun e₁ he hw k₁ hk => ?_
  rw [e0]
  clear e0
  generalize hW : 0x4000000A + d.toNat * 2 ^ 18 + a.toNat * 2 ^ 12 + b.toNat * 2 ^ 6 + k₁ * 2 ^ 31 = w₁
  have hm : w₁ / 2 ^ 24 % 128 = 0x40 := by omega
  have f0 : fld w₁ 18 6 = d := fld_eq (by omega)
  have f1 : fld w₁ 12 6 = a := fld_eq (by omega)
  have f2 : fld w₁ 6 6 = b := fld_eq (by omega)
  obtain rfl : e₁ = 0 := by simpa using (show (e₁ == 0) = true from he)
  rw [candidate_seq hm (by decide)]
  rw [seqOf40_eq hm]
  have hs : w₁ % 64 = 0x0A := by omega
  unfold seqOf40
  rw [hs]
  show some (Instr.sra (fld w₁ 18 6) (fld w₁ 12 6) (fld w₁ 6 6)) = _
  rw [f0, f1, f2]

theorem rol (d : BitVec 6) (a : BitVec 6) (b : BitVec 6) : Statement (.rol d a b) := by
  have h0 := d.isLt; have h1 := a.isLt; have h2 := b.isLt
  have e0 : encodeWord (.rol d a b) = 0x4000000B + d.toNat * 2 ^ 18 + a.toNat * 2 ^ 12 + b.toNat * 2 ^ 6 := by
    show word 0x4000000B [put d 18, put a 12, put b 6] = _
    rw [word_cons, word_cons, word_cons, word_nil, put_eq, put_eq, put_eq]
  refine roundTrips_word rfl (by omega) fun e₁ he hw k₁ hk => ?_
  rw [e0]
  clear e0
  generalize hW : 0x4000000B + d.toNat * 2 ^ 18 + a.toNat * 2 ^ 12 + b.toNat * 2 ^ 6 + k₁ * 2 ^ 31 = w₁
  have hm : w₁ / 2 ^ 24 % 128 = 0x40 := by omega
  have f0 : fld w₁ 18 6 = d := fld_eq (by omega)
  have f1 : fld w₁ 12 6 = a := fld_eq (by omega)
  have f2 : fld w₁ 6 6 = b := fld_eq (by omega)
  obtain rfl : e₁ = 0 := by simpa using (show (e₁ == 0) = true from he)
  rw [candidate_seq hm (by decide)]
  rw [seqOf40_eq hm]
  have hs : w₁ % 64 = 0x0B := by omega
  unfold seqOf40
  rw [hs]
  show some (Instr.rol (fld w₁ 18 6) (fld w₁ 12 6) (fld w₁ 6 6)) = _
  rw [f0, f1, f2]

theorem ror (d : BitVec 6) (a : BitVec 6) (b : BitVec 6) : Statement (.ror d a b) := by
  have h0 := d.isLt; have h1 := a.isLt; have h2 := b.isLt
  have e0 : encodeWord (.ror d a b) = 0x4000000C + d.toNat * 2 ^ 18 + a.toNat * 2 ^ 12 + b.toNat * 2 ^ 6 := by
    show word 0x4000000C [put d 18, put a 12, put b 6] = _
    rw [word_cons, word_cons, word_cons, word_nil, put_eq, put_eq, put_eq]
  refine roundTrips_word rfl (by omega) fun e₁ he hw k₁ hk => ?_
  rw [e0]
  clear e0
  generalize hW : 0x4000000C + d.toNat * 2 ^ 18 + a.toNat * 2 ^ 12 + b.toNat * 2 ^ 6 + k₁ * 2 ^ 31 = w₁
  have hm : w₁ / 2 ^ 24 % 128 = 0x40 := by omega
  have f0 : fld w₁ 18 6 = d := fld_eq (by omega)
  have f1 : fld w₁ 12 6 = a := fld_eq (by omega)
  have f2 : fld w₁ 6 6 = b := fld_eq (by omega)
  obtain rfl : e₁ = 0 := by simpa using (show (e₁ == 0) = true from he)
  rw [candidate_seq hm (by decide)]
  rw [seqOf40_eq hm]
  have hs : w₁ % 64 = 0x0C := by omega
  unfold seqOf40
  rw [hs]
  show some (Instr.ror (fld w₁ 18 6) (fld w₁ 12 6) (fld w₁ 6 6)) = _
  rw [f0, f1, f2]

theorem mul (d : BitVec 6) (a : BitVec 6) (b : BitVec 6) : Statement (.mul d a b) := by
  have h0 := d.isLt; have h1 := a.isLt; have h2 := b.isLt
  have e0 : encodeWord (.mul d a b) = 0x40000010 + d.toNat * 2 ^ 18 + a.toNat * 2 ^ 12 + b.toNat * 2 ^ 6 := by
    show word 0x40000010 [put d 18, put a 12, put b 6] = _
    rw [word_cons, word_cons, word_cons, word_nil, put_eq, put_eq, put_eq]
  refine roundTrips_word rfl (by omega) fun e₁ he hw k₁ hk => ?_
  rw [e0]
  clear e0
  generalize hW : 0x40000010 + d.toNat * 2 ^ 18 + a.toNat * 2 ^ 12 + b.toNat * 2 ^ 6 + k₁ * 2 ^ 31 = w₁
  have hm : w₁ / 2 ^ 24 % 128 = 0x40 := by omega
  have f0 : fld w₁ 18 6 = d := fld_eq (by omega)
  have f1 : fld w₁ 12 6 = a := fld_eq (by omega)
  have f2 : fld w₁ 6 6 = b := fld_eq (by omega)
  obtain rfl : e₁ = 0 := by simpa using (show (e₁ == 0) = true from he)
  rw [candidate_seq hm (by decide)]
  rw [seqOf40_eq hm]
  have hs : w₁ % 64 = 0x10 := by omega
  unfold seqOf40
  rw [hs]
  show some (Instr.mul (fld w₁ 18 6) (fld w₁ 12 6) (fld w₁ 6 6)) = _
  rw [f0, f1, f2]

theorem mulh (d : BitVec 6) (a : BitVec 6) (b : BitVec 6) : Statement (.mulh d a b) := by
  have h0 := d.isLt; have h1 := a.isLt; have h2 := b.isLt
  have e0 : encodeWord (.mulh d a b) = 0x40000011 + d.toNat * 2 ^ 18 + a.toNat * 2 ^ 12 + b.toNat * 2 ^ 6 := by
    show word 0x40000011 [put d 18, put a 12, put b 6] = _
    rw [word_cons, word_cons, word_cons, word_nil, put_eq, put_eq, put_eq]
  refine roundTrips_word rfl (by omega) fun e₁ he hw k₁ hk => ?_
  rw [e0]
  clear e0
  generalize hW : 0x40000011 + d.toNat * 2 ^ 18 + a.toNat * 2 ^ 12 + b.toNat * 2 ^ 6 + k₁ * 2 ^ 31 = w₁
  have hm : w₁ / 2 ^ 24 % 128 = 0x40 := by omega
  have f0 : fld w₁ 18 6 = d := fld_eq (by omega)
  have f1 : fld w₁ 12 6 = a := fld_eq (by omega)
  have f2 : fld w₁ 6 6 = b := fld_eq (by omega)
  obtain rfl : e₁ = 0 := by simpa using (show (e₁ == 0) = true from he)
  rw [candidate_seq hm (by decide)]
  rw [seqOf40_eq hm]
  have hs : w₁ % 64 = 0x11 := by omega
  unfold seqOf40
  rw [hs]
  show some (Instr.mulh (fld w₁ 18 6) (fld w₁ 12 6) (fld w₁ 6 6)) = _
  rw [f0, f1, f2]

theorem mulhu (d : BitVec 6) (a : BitVec 6) (b : BitVec 6) : Statement (.mulhu d a b) := by
  have h0 := d.isLt; have h1 := a.isLt; have h2 := b.isLt
  have e0 : encodeWord (.mulhu d a b) = 0x40000012 + d.toNat * 2 ^ 18 + a.toNat * 2 ^ 12 + b.toNat * 2 ^ 6 := by
    show word 0x40000012 [put d 18, put a 12, put b 6] = _
    rw [word_cons, word_cons, word_cons, word_nil, put_eq, put_eq, put_eq]
  refine roundTrips_word rfl (by omega) fun e₁ he hw k₁ hk => ?_
  rw [e0]
  clear e0
  generalize hW : 0x40000012 + d.toNat * 2 ^ 18 + a.toNat * 2 ^ 12 + b.toNat * 2 ^ 6 + k₁ * 2 ^ 31 = w₁
  have hm : w₁ / 2 ^ 24 % 128 = 0x40 := by omega
  have f0 : fld w₁ 18 6 = d := fld_eq (by omega)
  have f1 : fld w₁ 12 6 = a := fld_eq (by omega)
  have f2 : fld w₁ 6 6 = b := fld_eq (by omega)
  obtain rfl : e₁ = 0 := by simpa using (show (e₁ == 0) = true from he)
  rw [candidate_seq hm (by decide)]
  rw [seqOf40_eq hm]
  have hs : w₁ % 64 = 0x12 := by omega
  unfold seqOf40
  rw [hs]
  show some (Instr.mulhu (fld w₁ 18 6) (fld w₁ 12 6) (fld w₁ 6 6)) = _
  rw [f0, f1, f2]

theorem mulhsu (d : BitVec 6) (a : BitVec 6) (b : BitVec 6) : Statement (.mulhsu d a b) := by
  have h0 := d.isLt; have h1 := a.isLt; have h2 := b.isLt
  have e0 : encodeWord (.mulhsu d a b) = 0x40000013 + d.toNat * 2 ^ 18 + a.toNat * 2 ^ 12 + b.toNat * 2 ^ 6 := by
    show word 0x40000013 [put d 18, put a 12, put b 6] = _
    rw [word_cons, word_cons, word_cons, word_nil, put_eq, put_eq, put_eq]
  refine roundTrips_word rfl (by omega) fun e₁ he hw k₁ hk => ?_
  rw [e0]
  clear e0
  generalize hW : 0x40000013 + d.toNat * 2 ^ 18 + a.toNat * 2 ^ 12 + b.toNat * 2 ^ 6 + k₁ * 2 ^ 31 = w₁
  have hm : w₁ / 2 ^ 24 % 128 = 0x40 := by omega
  have f0 : fld w₁ 18 6 = d := fld_eq (by omega)
  have f1 : fld w₁ 12 6 = a := fld_eq (by omega)
  have f2 : fld w₁ 6 6 = b := fld_eq (by omega)
  obtain rfl : e₁ = 0 := by simpa using (show (e₁ == 0) = true from he)
  rw [candidate_seq hm (by decide)]
  rw [seqOf40_eq hm]
  have hs : w₁ % 64 = 0x13 := by omega
  unfold seqOf40
  rw [hs]
  show some (Instr.mulhsu (fld w₁ 18 6) (fld w₁ 12 6) (fld w₁ 6 6)) = _
  rw [f0, f1, f2]

theorem div (d : BitVec 6) (a : BitVec 6) (b : BitVec 6) : Statement (.div d a b) := by
  have h0 := d.isLt; have h1 := a.isLt; have h2 := b.isLt
  have e0 : encodeWord (.div d a b) = 0x40000014 + d.toNat * 2 ^ 18 + a.toNat * 2 ^ 12 + b.toNat * 2 ^ 6 := by
    show word 0x40000014 [put d 18, put a 12, put b 6] = _
    rw [word_cons, word_cons, word_cons, word_nil, put_eq, put_eq, put_eq]
  refine roundTrips_word rfl (by omega) fun e₁ he hw k₁ hk => ?_
  rw [e0]
  clear e0
  generalize hW : 0x40000014 + d.toNat * 2 ^ 18 + a.toNat * 2 ^ 12 + b.toNat * 2 ^ 6 + k₁ * 2 ^ 31 = w₁
  have hm : w₁ / 2 ^ 24 % 128 = 0x40 := by omega
  have f0 : fld w₁ 18 6 = d := fld_eq (by omega)
  have f1 : fld w₁ 12 6 = a := fld_eq (by omega)
  have f2 : fld w₁ 6 6 = b := fld_eq (by omega)
  obtain rfl : e₁ = 0 := by simpa using (show (e₁ == 0) = true from he)
  rw [candidate_seq hm (by decide)]
  rw [seqOf40_eq hm]
  have hs : w₁ % 64 = 0x14 := by omega
  unfold seqOf40
  rw [hs]
  show some (Instr.div (fld w₁ 18 6) (fld w₁ 12 6) (fld w₁ 6 6)) = _
  rw [f0, f1, f2]

theorem divu (d : BitVec 6) (a : BitVec 6) (b : BitVec 6) : Statement (.divu d a b) := by
  have h0 := d.isLt; have h1 := a.isLt; have h2 := b.isLt
  have e0 : encodeWord (.divu d a b) = 0x40000015 + d.toNat * 2 ^ 18 + a.toNat * 2 ^ 12 + b.toNat * 2 ^ 6 := by
    show word 0x40000015 [put d 18, put a 12, put b 6] = _
    rw [word_cons, word_cons, word_cons, word_nil, put_eq, put_eq, put_eq]
  refine roundTrips_word rfl (by omega) fun e₁ he hw k₁ hk => ?_
  rw [e0]
  clear e0
  generalize hW : 0x40000015 + d.toNat * 2 ^ 18 + a.toNat * 2 ^ 12 + b.toNat * 2 ^ 6 + k₁ * 2 ^ 31 = w₁
  have hm : w₁ / 2 ^ 24 % 128 = 0x40 := by omega
  have f0 : fld w₁ 18 6 = d := fld_eq (by omega)
  have f1 : fld w₁ 12 6 = a := fld_eq (by omega)
  have f2 : fld w₁ 6 6 = b := fld_eq (by omega)
  obtain rfl : e₁ = 0 := by simpa using (show (e₁ == 0) = true from he)
  rw [candidate_seq hm (by decide)]
  rw [seqOf40_eq hm]
  have hs : w₁ % 64 = 0x15 := by omega
  unfold seqOf40
  rw [hs]
  show some (Instr.divu (fld w₁ 18 6) (fld w₁ 12 6) (fld w₁ 6 6)) = _
  rw [f0, f1, f2]

theorem rem (d : BitVec 6) (a : BitVec 6) (b : BitVec 6) : Statement (.rem d a b) := by
  have h0 := d.isLt; have h1 := a.isLt; have h2 := b.isLt
  have e0 : encodeWord (.rem d a b) = 0x40000016 + d.toNat * 2 ^ 18 + a.toNat * 2 ^ 12 + b.toNat * 2 ^ 6 := by
    show word 0x40000016 [put d 18, put a 12, put b 6] = _
    rw [word_cons, word_cons, word_cons, word_nil, put_eq, put_eq, put_eq]
  refine roundTrips_word rfl (by omega) fun e₁ he hw k₁ hk => ?_
  rw [e0]
  clear e0
  generalize hW : 0x40000016 + d.toNat * 2 ^ 18 + a.toNat * 2 ^ 12 + b.toNat * 2 ^ 6 + k₁ * 2 ^ 31 = w₁
  have hm : w₁ / 2 ^ 24 % 128 = 0x40 := by omega
  have f0 : fld w₁ 18 6 = d := fld_eq (by omega)
  have f1 : fld w₁ 12 6 = a := fld_eq (by omega)
  have f2 : fld w₁ 6 6 = b := fld_eq (by omega)
  obtain rfl : e₁ = 0 := by simpa using (show (e₁ == 0) = true from he)
  rw [candidate_seq hm (by decide)]
  rw [seqOf40_eq hm]
  have hs : w₁ % 64 = 0x16 := by omega
  unfold seqOf40
  rw [hs]
  show some (Instr.rem (fld w₁ 18 6) (fld w₁ 12 6) (fld w₁ 6 6)) = _
  rw [f0, f1, f2]

theorem remu (d : BitVec 6) (a : BitVec 6) (b : BitVec 6) : Statement (.remu d a b) := by
  have h0 := d.isLt; have h1 := a.isLt; have h2 := b.isLt
  have e0 : encodeWord (.remu d a b) = 0x40000017 + d.toNat * 2 ^ 18 + a.toNat * 2 ^ 12 + b.toNat * 2 ^ 6 := by
    show word 0x40000017 [put d 18, put a 12, put b 6] = _
    rw [word_cons, word_cons, word_cons, word_nil, put_eq, put_eq, put_eq]
  refine roundTrips_word rfl (by omega) fun e₁ he hw k₁ hk => ?_
  rw [e0]
  clear e0
  generalize hW : 0x40000017 + d.toNat * 2 ^ 18 + a.toNat * 2 ^ 12 + b.toNat * 2 ^ 6 + k₁ * 2 ^ 31 = w₁
  have hm : w₁ / 2 ^ 24 % 128 = 0x40 := by omega
  have f0 : fld w₁ 18 6 = d := fld_eq (by omega)
  have f1 : fld w₁ 12 6 = a := fld_eq (by omega)
  have f2 : fld w₁ 6 6 = b := fld_eq (by omega)
  obtain rfl : e₁ = 0 := by simpa using (show (e₁ == 0) = true from he)
  rw [candidate_seq hm (by decide)]
  rw [seqOf40_eq hm]
  have hs : w₁ % 64 = 0x17 := by omega
  unfold seqOf40
  rw [hs]
  show some (Instr.remu (fld w₁ 18 6) (fld w₁ 12 6) (fld w₁ 6 6)) = _
  rw [f0, f1, f2]

theorem min (d : BitVec 6) (a : BitVec 6) (b : BitVec 6) : Statement (.min d a b) := by
  have h0 := d.isLt; have h1 := a.isLt; have h2 := b.isLt
  have e0 : encodeWord (.min d a b) = 0x40000018 + d.toNat * 2 ^ 18 + a.toNat * 2 ^ 12 + b.toNat * 2 ^ 6 := by
    show word 0x40000018 [put d 18, put a 12, put b 6] = _
    rw [word_cons, word_cons, word_cons, word_nil, put_eq, put_eq, put_eq]
  refine roundTrips_word rfl (by omega) fun e₁ he hw k₁ hk => ?_
  rw [e0]
  clear e0
  generalize hW : 0x40000018 + d.toNat * 2 ^ 18 + a.toNat * 2 ^ 12 + b.toNat * 2 ^ 6 + k₁ * 2 ^ 31 = w₁
  have hm : w₁ / 2 ^ 24 % 128 = 0x40 := by omega
  have f0 : fld w₁ 18 6 = d := fld_eq (by omega)
  have f1 : fld w₁ 12 6 = a := fld_eq (by omega)
  have f2 : fld w₁ 6 6 = b := fld_eq (by omega)
  obtain rfl : e₁ = 0 := by simpa using (show (e₁ == 0) = true from he)
  rw [candidate_seq hm (by decide)]
  rw [seqOf40_eq hm]
  have hs : w₁ % 64 = 0x18 := by omega
  unfold seqOf40
  rw [hs]
  show some (Instr.min (fld w₁ 18 6) (fld w₁ 12 6) (fld w₁ 6 6)) = _
  rw [f0, f1, f2]

theorem max (d : BitVec 6) (a : BitVec 6) (b : BitVec 6) : Statement (.max d a b) := by
  have h0 := d.isLt; have h1 := a.isLt; have h2 := b.isLt
  have e0 : encodeWord (.max d a b) = 0x40000019 + d.toNat * 2 ^ 18 + a.toNat * 2 ^ 12 + b.toNat * 2 ^ 6 := by
    show word 0x40000019 [put d 18, put a 12, put b 6] = _
    rw [word_cons, word_cons, word_cons, word_nil, put_eq, put_eq, put_eq]
  refine roundTrips_word rfl (by omega) fun e₁ he hw k₁ hk => ?_
  rw [e0]
  clear e0
  generalize hW : 0x40000019 + d.toNat * 2 ^ 18 + a.toNat * 2 ^ 12 + b.toNat * 2 ^ 6 + k₁ * 2 ^ 31 = w₁
  have hm : w₁ / 2 ^ 24 % 128 = 0x40 := by omega
  have f0 : fld w₁ 18 6 = d := fld_eq (by omega)
  have f1 : fld w₁ 12 6 = a := fld_eq (by omega)
  have f2 : fld w₁ 6 6 = b := fld_eq (by omega)
  obtain rfl : e₁ = 0 := by simpa using (show (e₁ == 0) = true from he)
  rw [candidate_seq hm (by decide)]
  rw [seqOf40_eq hm]
  have hs : w₁ % 64 = 0x19 := by omega
  unfold seqOf40
  rw [hs]
  show some (Instr.max (fld w₁ 18 6) (fld w₁ 12 6) (fld w₁ 6 6)) = _
  rw [f0, f1, f2]

theorem minu (d : BitVec 6) (a : BitVec 6) (b : BitVec 6) : Statement (.minu d a b) := by
  have h0 := d.isLt; have h1 := a.isLt; have h2 := b.isLt
  have e0 : encodeWord (.minu d a b) = 0x4000001A + d.toNat * 2 ^ 18 + a.toNat * 2 ^ 12 + b.toNat * 2 ^ 6 := by
    show word 0x4000001A [put d 18, put a 12, put b 6] = _
    rw [word_cons, word_cons, word_cons, word_nil, put_eq, put_eq, put_eq]
  refine roundTrips_word rfl (by omega) fun e₁ he hw k₁ hk => ?_
  rw [e0]
  clear e0
  generalize hW : 0x4000001A + d.toNat * 2 ^ 18 + a.toNat * 2 ^ 12 + b.toNat * 2 ^ 6 + k₁ * 2 ^ 31 = w₁
  have hm : w₁ / 2 ^ 24 % 128 = 0x40 := by omega
  have f0 : fld w₁ 18 6 = d := fld_eq (by omega)
  have f1 : fld w₁ 12 6 = a := fld_eq (by omega)
  have f2 : fld w₁ 6 6 = b := fld_eq (by omega)
  obtain rfl : e₁ = 0 := by simpa using (show (e₁ == 0) = true from he)
  rw [candidate_seq hm (by decide)]
  rw [seqOf40_eq hm]
  have hs : w₁ % 64 = 0x1A := by omega
  unfold seqOf40
  rw [hs]
  show some (Instr.minu (fld w₁ 18 6) (fld w₁ 12 6) (fld w₁ 6 6)) = _
  rw [f0, f1, f2]

theorem maxu (d : BitVec 6) (a : BitVec 6) (b : BitVec 6) : Statement (.maxu d a b) := by
  have h0 := d.isLt; have h1 := a.isLt; have h2 := b.isLt
  have e0 : encodeWord (.maxu d a b) = 0x4000001B + d.toNat * 2 ^ 18 + a.toNat * 2 ^ 12 + b.toNat * 2 ^ 6 := by
    show word 0x4000001B [put d 18, put a 12, put b 6] = _
    rw [word_cons, word_cons, word_cons, word_nil, put_eq, put_eq, put_eq]
  refine roundTrips_word rfl (by omega) fun e₁ he hw k₁ hk => ?_
  rw [e0]
  clear e0
  generalize hW : 0x4000001B + d.toNat * 2 ^ 18 + a.toNat * 2 ^ 12 + b.toNat * 2 ^ 6 + k₁ * 2 ^ 31 = w₁
  have hm : w₁ / 2 ^ 24 % 128 = 0x40 := by omega
  have f0 : fld w₁ 18 6 = d := fld_eq (by omega)
  have f1 : fld w₁ 12 6 = a := fld_eq (by omega)
  have f2 : fld w₁ 6 6 = b := fld_eq (by omega)
  obtain rfl : e₁ = 0 := by simpa using (show (e₁ == 0) = true from he)
  rw [candidate_seq hm (by decide)]
  rw [seqOf40_eq hm]
  have hs : w₁ % 64 = 0x1B := by omega
  unfold seqOf40
  rw [hs]
  show some (Instr.maxu (fld w₁ 18 6) (fld w₁ 12 6) (fld w₁ 6 6)) = _
  rw [f0, f1, f2]

theorem slt (d : BitVec 6) (a : BitVec 6) (b : BitVec 6) : Statement (.slt d a b) := by
  have h0 := d.isLt; have h1 := a.isLt; have h2 := b.isLt
  have e0 : encodeWord (.slt d a b) = 0x4000001C + d.toNat * 2 ^ 18 + a.toNat * 2 ^ 12 + b.toNat * 2 ^ 6 := by
    show word 0x4000001C [put d 18, put a 12, put b 6] = _
    rw [word_cons, word_cons, word_cons, word_nil, put_eq, put_eq, put_eq]
  refine roundTrips_word rfl (by omega) fun e₁ he hw k₁ hk => ?_
  rw [e0]
  clear e0
  generalize hW : 0x4000001C + d.toNat * 2 ^ 18 + a.toNat * 2 ^ 12 + b.toNat * 2 ^ 6 + k₁ * 2 ^ 31 = w₁
  have hm : w₁ / 2 ^ 24 % 128 = 0x40 := by omega
  have f0 : fld w₁ 18 6 = d := fld_eq (by omega)
  have f1 : fld w₁ 12 6 = a := fld_eq (by omega)
  have f2 : fld w₁ 6 6 = b := fld_eq (by omega)
  obtain rfl : e₁ = 0 := by simpa using (show (e₁ == 0) = true from he)
  rw [candidate_seq hm (by decide)]
  rw [seqOf40_eq hm]
  have hs : w₁ % 64 = 0x1C := by omega
  unfold seqOf40
  rw [hs]
  show some (Instr.slt (fld w₁ 18 6) (fld w₁ 12 6) (fld w₁ 6 6)) = _
  rw [f0, f1, f2]

theorem sltu (d : BitVec 6) (a : BitVec 6) (b : BitVec 6) : Statement (.sltu d a b) := by
  have h0 := d.isLt; have h1 := a.isLt; have h2 := b.isLt
  have e0 : encodeWord (.sltu d a b) = 0x4000001D + d.toNat * 2 ^ 18 + a.toNat * 2 ^ 12 + b.toNat * 2 ^ 6 := by
    show word 0x4000001D [put d 18, put a 12, put b 6] = _
    rw [word_cons, word_cons, word_cons, word_nil, put_eq, put_eq, put_eq]
  refine roundTrips_word rfl (by omega) fun e₁ he hw k₁ hk => ?_
  rw [e0]
  clear e0
  generalize hW : 0x4000001D + d.toNat * 2 ^ 18 + a.toNat * 2 ^ 12 + b.toNat * 2 ^ 6 + k₁ * 2 ^ 31 = w₁
  have hm : w₁ / 2 ^ 24 % 128 = 0x40 := by omega
  have f0 : fld w₁ 18 6 = d := fld_eq (by omega)
  have f1 : fld w₁ 12 6 = a := fld_eq (by omega)
  have f2 : fld w₁ 6 6 = b := fld_eq (by omega)
  obtain rfl : e₁ = 0 := by simpa using (show (e₁ == 0) = true from he)
  rw [candidate_seq hm (by decide)]
  rw [seqOf40_eq hm]
  have hs : w₁ % 64 = 0x1D := by omega
  unfold seqOf40
  rw [hs]
  show some (Instr.sltu (fld w₁ 18 6) (fld w₁ 12 6) (fld w₁ 6 6)) = _
  rw [f0, f1, f2]

theorem seq (d : BitVec 6) (a : BitVec 6) (b : BitVec 6) : Statement (.seq d a b) := by
  have h0 := d.isLt; have h1 := a.isLt; have h2 := b.isLt
  have e0 : encodeWord (.seq d a b) = 0x4000001E + d.toNat * 2 ^ 18 + a.toNat * 2 ^ 12 + b.toNat * 2 ^ 6 := by
    show word 0x4000001E [put d 18, put a 12, put b 6] = _
    rw [word_cons, word_cons, word_cons, word_nil, put_eq, put_eq, put_eq]
  refine roundTrips_word rfl (by omega) fun e₁ he hw k₁ hk => ?_
  rw [e0]
  clear e0
  generalize hW : 0x4000001E + d.toNat * 2 ^ 18 + a.toNat * 2 ^ 12 + b.toNat * 2 ^ 6 + k₁ * 2 ^ 31 = w₁
  have hm : w₁ / 2 ^ 24 % 128 = 0x40 := by omega
  have f0 : fld w₁ 18 6 = d := fld_eq (by omega)
  have f1 : fld w₁ 12 6 = a := fld_eq (by omega)
  have f2 : fld w₁ 6 6 = b := fld_eq (by omega)
  obtain rfl : e₁ = 0 := by simpa using (show (e₁ == 0) = true from he)
  rw [candidate_seq hm (by decide)]
  rw [seqOf40_eq hm]
  have hs : w₁ % 64 = 0x1E := by omega
  unfold seqOf40
  rw [hs]
  show some (Instr.seq (fld w₁ 18 6) (fld w₁ 12 6) (fld w₁ 6 6)) = _
  rw [f0, f1, f2]

theorem sne (d : BitVec 6) (a : BitVec 6) (b : BitVec 6) : Statement (.sne d a b) := by
  have h0 := d.isLt; have h1 := a.isLt; have h2 := b.isLt
  have e0 : encodeWord (.sne d a b) = 0x4000001F + d.toNat * 2 ^ 18 + a.toNat * 2 ^ 12 + b.toNat * 2 ^ 6 := by
    show word 0x4000001F [put d 18, put a 12, put b 6] = _
    rw [word_cons, word_cons, word_cons, word_nil, put_eq, put_eq, put_eq]
  refine roundTrips_word rfl (by omega) fun e₁ he hw k₁ hk => ?_
  rw [e0]
  clear e0
  generalize hW : 0x4000001F + d.toNat * 2 ^ 18 + a.toNat * 2 ^ 12 + b.toNat * 2 ^ 6 + k₁ * 2 ^ 31 = w₁
  have hm : w₁ / 2 ^ 24 % 128 = 0x40 := by omega
  have f0 : fld w₁ 18 6 = d := fld_eq (by omega)
  have f1 : fld w₁ 12 6 = a := fld_eq (by omega)
  have f2 : fld w₁ 6 6 = b := fld_eq (by omega)
  obtain rfl : e₁ = 0 := by simpa using (show (e₁ == 0) = true from he)
  rw [candidate_seq hm (by decide)]
  rw [seqOf40_eq hm]
  have hs : w₁ % 64 = 0x1F := by omega
  unfold seqOf40
  rw [hs]
  show some (Instr.sne (fld w₁ 18 6) (fld w₁ 12 6) (fld w₁ 6 6)) = _
  rw [f0, f1, f2]

theorem addw (d : BitVec 6) (a : BitVec 6) (b : BitVec 6) : Statement (.addw d a b) := by
  have h0 := d.isLt; have h1 := a.isLt; have h2 := b.isLt
  have e0 : encodeWord (.addw d a b) = 0x40000020 + d.toNat * 2 ^ 18 + a.toNat * 2 ^ 12 + b.toNat * 2 ^ 6 := by
    show word 0x40000020 [put d 18, put a 12, put b 6] = _
    rw [word_cons, word_cons, word_cons, word_nil, put_eq, put_eq, put_eq]
  refine roundTrips_word rfl (by omega) fun e₁ he hw k₁ hk => ?_
  rw [e0]
  clear e0
  generalize hW : 0x40000020 + d.toNat * 2 ^ 18 + a.toNat * 2 ^ 12 + b.toNat * 2 ^ 6 + k₁ * 2 ^ 31 = w₁
  have hm : w₁ / 2 ^ 24 % 128 = 0x40 := by omega
  have f0 : fld w₁ 18 6 = d := fld_eq (by omega)
  have f1 : fld w₁ 12 6 = a := fld_eq (by omega)
  have f2 : fld w₁ 6 6 = b := fld_eq (by omega)
  obtain rfl : e₁ = 0 := by simpa using (show (e₁ == 0) = true from he)
  rw [candidate_seq hm (by decide)]
  rw [seqOf40_eq hm]
  have hs : w₁ % 64 = 0x20 := by omega
  unfold seqOf40
  rw [hs]
  show some (Instr.addw (fld w₁ 18 6) (fld w₁ 12 6) (fld w₁ 6 6)) = _
  rw [f0, f1, f2]

theorem subw (d : BitVec 6) (a : BitVec 6) (b : BitVec 6) : Statement (.subw d a b) := by
  have h0 := d.isLt; have h1 := a.isLt; have h2 := b.isLt
  have e0 : encodeWord (.subw d a b) = 0x40000021 + d.toNat * 2 ^ 18 + a.toNat * 2 ^ 12 + b.toNat * 2 ^ 6 := by
    show word 0x40000021 [put d 18, put a 12, put b 6] = _
    rw [word_cons, word_cons, word_cons, word_nil, put_eq, put_eq, put_eq]
  refine roundTrips_word rfl (by omega) fun e₁ he hw k₁ hk => ?_
  rw [e0]
  clear e0
  generalize hW : 0x40000021 + d.toNat * 2 ^ 18 + a.toNat * 2 ^ 12 + b.toNat * 2 ^ 6 + k₁ * 2 ^ 31 = w₁
  have hm : w₁ / 2 ^ 24 % 128 = 0x40 := by omega
  have f0 : fld w₁ 18 6 = d := fld_eq (by omega)
  have f1 : fld w₁ 12 6 = a := fld_eq (by omega)
  have f2 : fld w₁ 6 6 = b := fld_eq (by omega)
  obtain rfl : e₁ = 0 := by simpa using (show (e₁ == 0) = true from he)
  rw [candidate_seq hm (by decide)]
  rw [seqOf40_eq hm]
  have hs : w₁ % 64 = 0x21 := by omega
  unfold seqOf40
  rw [hs]
  show some (Instr.subw (fld w₁ 18 6) (fld w₁ 12 6) (fld w₁ 6 6)) = _
  rw [f0, f1, f2]

theorem sllw (d : BitVec 6) (a : BitVec 6) (b : BitVec 6) : Statement (.sllw d a b) := by
  have h0 := d.isLt; have h1 := a.isLt; have h2 := b.isLt
  have e0 : encodeWord (.sllw d a b) = 0x40000022 + d.toNat * 2 ^ 18 + a.toNat * 2 ^ 12 + b.toNat * 2 ^ 6 := by
    show word 0x40000022 [put d 18, put a 12, put b 6] = _
    rw [word_cons, word_cons, word_cons, word_nil, put_eq, put_eq, put_eq]
  refine roundTrips_word rfl (by omega) fun e₁ he hw k₁ hk => ?_
  rw [e0]
  clear e0
  generalize hW : 0x40000022 + d.toNat * 2 ^ 18 + a.toNat * 2 ^ 12 + b.toNat * 2 ^ 6 + k₁ * 2 ^ 31 = w₁
  have hm : w₁ / 2 ^ 24 % 128 = 0x40 := by omega
  have f0 : fld w₁ 18 6 = d := fld_eq (by omega)
  have f1 : fld w₁ 12 6 = a := fld_eq (by omega)
  have f2 : fld w₁ 6 6 = b := fld_eq (by omega)
  obtain rfl : e₁ = 0 := by simpa using (show (e₁ == 0) = true from he)
  rw [candidate_seq hm (by decide)]
  rw [seqOf40_eq hm]
  have hs : w₁ % 64 = 0x22 := by omega
  unfold seqOf40
  rw [hs]
  show some (Instr.sllw (fld w₁ 18 6) (fld w₁ 12 6) (fld w₁ 6 6)) = _
  rw [f0, f1, f2]

theorem srlw (d : BitVec 6) (a : BitVec 6) (b : BitVec 6) : Statement (.srlw d a b) := by
  have h0 := d.isLt; have h1 := a.isLt; have h2 := b.isLt
  have e0 : encodeWord (.srlw d a b) = 0x40000023 + d.toNat * 2 ^ 18 + a.toNat * 2 ^ 12 + b.toNat * 2 ^ 6 := by
    show word 0x40000023 [put d 18, put a 12, put b 6] = _
    rw [word_cons, word_cons, word_cons, word_nil, put_eq, put_eq, put_eq]
  refine roundTrips_word rfl (by omega) fun e₁ he hw k₁ hk => ?_
  rw [e0]
  clear e0
  generalize hW : 0x40000023 + d.toNat * 2 ^ 18 + a.toNat * 2 ^ 12 + b.toNat * 2 ^ 6 + k₁ * 2 ^ 31 = w₁
  have hm : w₁ / 2 ^ 24 % 128 = 0x40 := by omega
  have f0 : fld w₁ 18 6 = d := fld_eq (by omega)
  have f1 : fld w₁ 12 6 = a := fld_eq (by omega)
  have f2 : fld w₁ 6 6 = b := fld_eq (by omega)
  obtain rfl : e₁ = 0 := by simpa using (show (e₁ == 0) = true from he)
  rw [candidate_seq hm (by decide)]
  rw [seqOf40_eq hm]
  have hs : w₁ % 64 = 0x23 := by omega
  unfold seqOf40
  rw [hs]
  show some (Instr.srlw (fld w₁ 18 6) (fld w₁ 12 6) (fld w₁ 6 6)) = _
  rw [f0, f1, f2]

theorem sraw (d : BitVec 6) (a : BitVec 6) (b : BitVec 6) : Statement (.sraw d a b) := by
  have h0 := d.isLt; have h1 := a.isLt; have h2 := b.isLt
  have e0 : encodeWord (.sraw d a b) = 0x40000024 + d.toNat * 2 ^ 18 + a.toNat * 2 ^ 12 + b.toNat * 2 ^ 6 := by
    show word 0x40000024 [put d 18, put a 12, put b 6] = _
    rw [word_cons, word_cons, word_cons, word_nil, put_eq, put_eq, put_eq]
  refine roundTrips_word rfl (by omega) fun e₁ he hw k₁ hk => ?_
  rw [e0]
  clear e0
  generalize hW : 0x40000024 + d.toNat * 2 ^ 18 + a.toNat * 2 ^ 12 + b.toNat * 2 ^ 6 + k₁ * 2 ^ 31 = w₁
  have hm : w₁ / 2 ^ 24 % 128 = 0x40 := by omega
  have f0 : fld w₁ 18 6 = d := fld_eq (by omega)
  have f1 : fld w₁ 12 6 = a := fld_eq (by omega)
  have f2 : fld w₁ 6 6 = b := fld_eq (by omega)
  obtain rfl : e₁ = 0 := by simpa using (show (e₁ == 0) = true from he)
  rw [candidate_seq hm (by decide)]
  rw [seqOf40_eq hm]
  have hs : w₁ % 64 = 0x24 := by omega
  unfold seqOf40
  rw [hs]
  show some (Instr.sraw (fld w₁ 18 6) (fld w₁ 12 6) (fld w₁ 6 6)) = _
  rw [f0, f1, f2]

theorem mulw (d : BitVec 6) (a : BitVec 6) (b : BitVec 6) : Statement (.mulw d a b) := by
  have h0 := d.isLt; have h1 := a.isLt; have h2 := b.isLt
  have e0 : encodeWord (.mulw d a b) = 0x40000025 + d.toNat * 2 ^ 18 + a.toNat * 2 ^ 12 + b.toNat * 2 ^ 6 := by
    show word 0x40000025 [put d 18, put a 12, put b 6] = _
    rw [word_cons, word_cons, word_cons, word_nil, put_eq, put_eq, put_eq]
  refine roundTrips_word rfl (by omega) fun e₁ he hw k₁ hk => ?_
  rw [e0]
  clear e0
  generalize hW : 0x40000025 + d.toNat * 2 ^ 18 + a.toNat * 2 ^ 12 + b.toNat * 2 ^ 6 + k₁ * 2 ^ 31 = w₁
  have hm : w₁ / 2 ^ 24 % 128 = 0x40 := by omega
  have f0 : fld w₁ 18 6 = d := fld_eq (by omega)
  have f1 : fld w₁ 12 6 = a := fld_eq (by omega)
  have f2 : fld w₁ 6 6 = b := fld_eq (by omega)
  obtain rfl : e₁ = 0 := by simpa using (show (e₁ == 0) = true from he)
  rw [candidate_seq hm (by decide)]
  rw [seqOf40_eq hm]
  have hs : w₁ % 64 = 0x25 := by omega
  unfold seqOf40
  rw [hs]
  show some (Instr.mulw (fld w₁ 18 6) (fld w₁ 12 6) (fld w₁ 6 6)) = _
  rw [f0, f1, f2]

theorem clmul (d : BitVec 6) (a : BitVec 6) (b : BitVec 6) : Statement (.clmul d a b) := by
  have h0 := d.isLt; have h1 := a.isLt; have h2 := b.isLt
  have e0 : encodeWord (.clmul d a b) = 0x40000028 + d.toNat * 2 ^ 18 + a.toNat * 2 ^ 12 + b.toNat * 2 ^ 6 := by
    show word 0x40000028 [put d 18, put a 12, put b 6] = _
    rw [word_cons, word_cons, word_cons, word_nil, put_eq, put_eq, put_eq]
  refine roundTrips_word rfl (by omega) fun e₁ he hw k₁ hk => ?_
  rw [e0]
  clear e0
  generalize hW : 0x40000028 + d.toNat * 2 ^ 18 + a.toNat * 2 ^ 12 + b.toNat * 2 ^ 6 + k₁ * 2 ^ 31 = w₁
  have hm : w₁ / 2 ^ 24 % 128 = 0x40 := by omega
  have f0 : fld w₁ 18 6 = d := fld_eq (by omega)
  have f1 : fld w₁ 12 6 = a := fld_eq (by omega)
  have f2 : fld w₁ 6 6 = b := fld_eq (by omega)
  obtain rfl : e₁ = 0 := by simpa using (show (e₁ == 0) = true from he)
  rw [candidate_seq hm (by decide)]
  rw [seqOf40_eq hm]
  have hs : w₁ % 64 = 0x28 := by omega
  unfold seqOf40
  rw [hs]
  show some (Instr.clmul (fld w₁ 18 6) (fld w₁ 12 6) (fld w₁ 6 6)) = _
  rw [f0, f1, f2]

theorem clmulh (d : BitVec 6) (a : BitVec 6) (b : BitVec 6) : Statement (.clmulh d a b) := by
  have h0 := d.isLt; have h1 := a.isLt; have h2 := b.isLt
  have e0 : encodeWord (.clmulh d a b) = 0x40000029 + d.toNat * 2 ^ 18 + a.toNat * 2 ^ 12 + b.toNat * 2 ^ 6 := by
    show word 0x40000029 [put d 18, put a 12, put b 6] = _
    rw [word_cons, word_cons, word_cons, word_nil, put_eq, put_eq, put_eq]
  refine roundTrips_word rfl (by omega) fun e₁ he hw k₁ hk => ?_
  rw [e0]
  clear e0
  generalize hW : 0x40000029 + d.toNat * 2 ^ 18 + a.toNat * 2 ^ 12 + b.toNat * 2 ^ 6 + k₁ * 2 ^ 31 = w₁
  have hm : w₁ / 2 ^ 24 % 128 = 0x40 := by omega
  have f0 : fld w₁ 18 6 = d := fld_eq (by omega)
  have f1 : fld w₁ 12 6 = a := fld_eq (by omega)
  have f2 : fld w₁ 6 6 = b := fld_eq (by omega)
  obtain rfl : e₁ = 0 := by simpa using (show (e₁ == 0) = true from he)
  rw [candidate_seq hm (by decide)]
  rw [seqOf40_eq hm]
  have hs : w₁ % 64 = 0x29 := by omega
  unfold seqOf40
  rw [hs]
  show some (Instr.clmulh (fld w₁ 18 6) (fld w₁ 12 6) (fld w₁ 6 6)) = _
  rw [f0, f1, f2]

theorem clz (d : BitVec 6) (a : BitVec 6) : Statement (.clz d a) := by
  have h0 := d.isLt; have h1 := a.isLt
  have e0 : encodeWord (.clz d a) = 0x40000030 + d.toNat * 2 ^ 18 + a.toNat * 2 ^ 12 := by
    show word 0x40000030 [put d 18, put a 12] = _
    rw [word_cons, word_cons, word_nil, put_eq, put_eq]
  refine roundTrips_word rfl (by omega) fun e₁ he hw k₁ hk => ?_
  rw [e0]
  clear e0
  generalize hW : 0x40000030 + d.toNat * 2 ^ 18 + a.toNat * 2 ^ 12 + k₁ * 2 ^ 31 = w₁
  have hm : w₁ / 2 ^ 24 % 128 = 0x40 := by omega
  have f0 : fld w₁ 18 6 = d := fld_eq (by omega)
  have f1 : fld w₁ 12 6 = a := fld_eq (by omega)
  obtain rfl : e₁ = 0 := by simpa using (show (e₁ == 0) = true from he)
  rw [candidate_seq hm (by decide)]
  rw [seqOf40_eq hm]
  have hs : w₁ % 64 = 0x30 := by omega
  unfold seqOf40
  rw [hs]
  show some (Instr.clz (fld w₁ 18 6) (fld w₁ 12 6)) = _
  rw [f0, f1]

theorem ctz (d : BitVec 6) (a : BitVec 6) : Statement (.ctz d a) := by
  have h0 := d.isLt; have h1 := a.isLt
  have e0 : encodeWord (.ctz d a) = 0x40000031 + d.toNat * 2 ^ 18 + a.toNat * 2 ^ 12 := by
    show word 0x40000031 [put d 18, put a 12] = _
    rw [word_cons, word_cons, word_nil, put_eq, put_eq]
  refine roundTrips_word rfl (by omega) fun e₁ he hw k₁ hk => ?_
  rw [e0]
  clear e0
  generalize hW : 0x40000031 + d.toNat * 2 ^ 18 + a.toNat * 2 ^ 12 + k₁ * 2 ^ 31 = w₁
  have hm : w₁ / 2 ^ 24 % 128 = 0x40 := by omega
  have f0 : fld w₁ 18 6 = d := fld_eq (by omega)
  have f1 : fld w₁ 12 6 = a := fld_eq (by omega)
  obtain rfl : e₁ = 0 := by simpa using (show (e₁ == 0) = true from he)
  rw [candidate_seq hm (by decide)]
  rw [seqOf40_eq hm]
  have hs : w₁ % 64 = 0x31 := by omega
  unfold seqOf40
  rw [hs]
  show some (Instr.ctz (fld w₁ 18 6) (fld w₁ 12 6)) = _
  rw [f0, f1]

theorem popc (d : BitVec 6) (a : BitVec 6) : Statement (.popc d a) := by
  have h0 := d.isLt; have h1 := a.isLt
  have e0 : encodeWord (.popc d a) = 0x40000032 + d.toNat * 2 ^ 18 + a.toNat * 2 ^ 12 := by
    show word 0x40000032 [put d 18, put a 12] = _
    rw [word_cons, word_cons, word_nil, put_eq, put_eq]
  refine roundTrips_word rfl (by omega) fun e₁ he hw k₁ hk => ?_
  rw [e0]
  clear e0
  generalize hW : 0x40000032 + d.toNat * 2 ^ 18 + a.toNat * 2 ^ 12 + k₁ * 2 ^ 31 = w₁
  have hm : w₁ / 2 ^ 24 % 128 = 0x40 := by omega
  have f0 : fld w₁ 18 6 = d := fld_eq (by omega)
  have f1 : fld w₁ 12 6 = a := fld_eq (by omega)
  obtain rfl : e₁ = 0 := by simpa using (show (e₁ == 0) = true from he)
  rw [candidate_seq hm (by decide)]
  rw [seqOf40_eq hm]
  have hs : w₁ % 64 = 0x32 := by omega
  unfold seqOf40
  rw [hs]
  show some (Instr.popc (fld w₁ 18 6) (fld w₁ 12 6)) = _
  rw [f0, f1]

theorem brev (d : BitVec 6) (a : BitVec 6) : Statement (.brev d a) := by
  have h0 := d.isLt; have h1 := a.isLt
  have e0 : encodeWord (.brev d a) = 0x40000033 + d.toNat * 2 ^ 18 + a.toNat * 2 ^ 12 := by
    show word 0x40000033 [put d 18, put a 12] = _
    rw [word_cons, word_cons, word_nil, put_eq, put_eq]
  refine roundTrips_word rfl (by omega) fun e₁ he hw k₁ hk => ?_
  rw [e0]
  clear e0
  generalize hW : 0x40000033 + d.toNat * 2 ^ 18 + a.toNat * 2 ^ 12 + k₁ * 2 ^ 31 = w₁
  have hm : w₁ / 2 ^ 24 % 128 = 0x40 := by omega
  have f0 : fld w₁ 18 6 = d := fld_eq (by omega)
  have f1 : fld w₁ 12 6 = a := fld_eq (by omega)
  obtain rfl : e₁ = 0 := by simpa using (show (e₁ == 0) = true from he)
  rw [candidate_seq hm (by decide)]
  rw [seqOf40_eq hm]
  have hs : w₁ % 64 = 0x33 := by omega
  unfold seqOf40
  rw [hs]
  show some (Instr.brev (fld w₁ 18 6) (fld w₁ 12 6)) = _
  rw [f0, f1]

theorem bswap (d : BitVec 6) (a : BitVec 6) : Statement (.bswap d a) := by
  have h0 := d.isLt; have h1 := a.isLt
  have e0 : encodeWord (.bswap d a) = 0x40000034 + d.toNat * 2 ^ 18 + a.toNat * 2 ^ 12 := by
    show word 0x40000034 [put d 18, put a 12] = _
    rw [word_cons, word_cons, word_nil, put_eq, put_eq]
  refine roundTrips_word rfl (by omega) fun e₁ he hw k₁ hk => ?_
  rw [e0]
  clear e0
  generalize hW : 0x40000034 + d.toNat * 2 ^ 18 + a.toNat * 2 ^ 12 + k₁ * 2 ^ 31 = w₁
  have hm : w₁ / 2 ^ 24 % 128 = 0x40 := by omega
  have f0 : fld w₁ 18 6 = d := fld_eq (by omega)
  have f1 : fld w₁ 12 6 = a := fld_eq (by omega)
  obtain rfl : e₁ = 0 := by simpa using (show (e₁ == 0) = true from he)
  rw [candidate_seq hm (by decide)]
  rw [seqOf40_eq hm]
  have hs : w₁ % 64 = 0x34 := by omega
  unfold seqOf40
  rw [hs]
  show some (Instr.bswap (fld w₁ 18 6) (fld w₁ 12 6)) = _
  rw [f0, f1]

theorem sextb (d : BitVec 6) (a : BitVec 6) : Statement (.sextb d a) := by
  have h0 := d.isLt; have h1 := a.isLt
  have e0 : encodeWord (.sextb d a) = 0x40000035 + d.toNat * 2 ^ 18 + a.toNat * 2 ^ 12 := by
    show word 0x40000035 [put d 18, put a 12] = _
    rw [word_cons, word_cons, word_nil, put_eq, put_eq]
  refine roundTrips_word rfl (by omega) fun e₁ he hw k₁ hk => ?_
  rw [e0]
  clear e0
  generalize hW : 0x40000035 + d.toNat * 2 ^ 18 + a.toNat * 2 ^ 12 + k₁ * 2 ^ 31 = w₁
  have hm : w₁ / 2 ^ 24 % 128 = 0x40 := by omega
  have f0 : fld w₁ 18 6 = d := fld_eq (by omega)
  have f1 : fld w₁ 12 6 = a := fld_eq (by omega)
  obtain rfl : e₁ = 0 := by simpa using (show (e₁ == 0) = true from he)
  rw [candidate_seq hm (by decide)]
  rw [seqOf40_eq hm]
  have hs : w₁ % 64 = 0x35 := by omega
  unfold seqOf40
  rw [hs]
  show some (Instr.sextb (fld w₁ 18 6) (fld w₁ 12 6)) = _
  rw [f0, f1]

theorem sexth (d : BitVec 6) (a : BitVec 6) : Statement (.sexth d a) := by
  have h0 := d.isLt; have h1 := a.isLt
  have e0 : encodeWord (.sexth d a) = 0x40000036 + d.toNat * 2 ^ 18 + a.toNat * 2 ^ 12 := by
    show word 0x40000036 [put d 18, put a 12] = _
    rw [word_cons, word_cons, word_nil, put_eq, put_eq]
  refine roundTrips_word rfl (by omega) fun e₁ he hw k₁ hk => ?_
  rw [e0]
  clear e0
  generalize hW : 0x40000036 + d.toNat * 2 ^ 18 + a.toNat * 2 ^ 12 + k₁ * 2 ^ 31 = w₁
  have hm : w₁ / 2 ^ 24 % 128 = 0x40 := by omega
  have f0 : fld w₁ 18 6 = d := fld_eq (by omega)
  have f1 : fld w₁ 12 6 = a := fld_eq (by omega)
  obtain rfl : e₁ = 0 := by simpa using (show (e₁ == 0) = true from he)
  rw [candidate_seq hm (by decide)]
  rw [seqOf40_eq hm]
  have hs : w₁ % 64 = 0x36 := by omega
  unfold seqOf40
  rw [hs]
  show some (Instr.sexth (fld w₁ 18 6) (fld w₁ 12 6)) = _
  rw [f0, f1]

theorem sextw (d : BitVec 6) (a : BitVec 6) : Statement (.sextw d a) := by
  have h0 := d.isLt; have h1 := a.isLt
  have e0 : encodeWord (.sextw d a) = 0x40000037 + d.toNat * 2 ^ 18 + a.toNat * 2 ^ 12 := by
    show word 0x40000037 [put d 18, put a 12] = _
    rw [word_cons, word_cons, word_nil, put_eq, put_eq]
  refine roundTrips_word rfl (by omega) fun e₁ he hw k₁ hk => ?_
  rw [e0]
  clear e0
  generalize hW : 0x40000037 + d.toNat * 2 ^ 18 + a.toNat * 2 ^ 12 + k₁ * 2 ^ 31 = w₁
  have hm : w₁ / 2 ^ 24 % 128 = 0x40 := by omega
  have f0 : fld w₁ 18 6 = d := fld_eq (by omega)
  have f1 : fld w₁ 12 6 = a := fld_eq (by omega)
  obtain rfl : e₁ = 0 := by simpa using (show (e₁ == 0) = true from he)
  rw [candidate_seq hm (by decide)]
  rw [seqOf40_eq hm]
  have hs : w₁ % 64 = 0x37 := by omega
  unfold seqOf40
  rw [hs]
  show some (Instr.sextw (fld w₁ 18 6) (fld w₁ 12 6)) = _
  rw [f0, f1]

theorem addi (d : BitVec 6) (a : BitVec 6) (i : BitVec 12) : Statement (.addi d a i) := by
  have h0 := d.isLt; have h1 := a.isLt; have h2 := i.isLt
  have e0 : encodeWord (.addi d a i) = 0x41000000 + d.toNat * 2 ^ 18 + a.toNat * 2 ^ 12 + i.toNat * 2 ^ 0 := by
    show word 0x41000000 [put d 18, put a 12, put i 0] = _
    rw [word_cons, word_cons, word_cons, word_nil, put_eq, put_eq, put_eq]
  refine roundTrips_word rfl (by omega) fun e₁ he hw k₁ hk => ?_
  rw [e0]
  clear e0
  generalize hW : 0x41000000 + d.toNat * 2 ^ 18 + a.toNat * 2 ^ 12 + i.toNat * 2 ^ 0 + k₁ * 2 ^ 31 = w₁
  have hm : w₁ / 2 ^ 24 % 128 = 0x41 := by omega
  have f0 : fld w₁ 18 6 = d := fld_eq (by omega)
  have f1 : fld w₁ 12 6 = a := fld_eq (by omega)
  have f2 : fld w₁ 0 12 = i := fld_eq (by omega)
  obtain rfl : e₁ = 0 := by simpa using (show (e₁ == 0) = true from he)
  rw [candidate_seq hm (by decide)]
  unfold seqOf
  rw [hm]
  show some (Instr.addi (fld w₁ 18 6) (fld w₁ 12 6) (fld w₁ 0 12)) = _
  rw [f0, f1, f2]

theorem andi (d : BitVec 6) (a : BitVec 6) (i : BitVec 12) : Statement (.andi d a i) := by
  have h0 := d.isLt; have h1 := a.isLt; have h2 := i.isLt
  have e0 : encodeWord (.andi d a i) = 0x42000000 + d.toNat * 2 ^ 18 + a.toNat * 2 ^ 12 + i.toNat * 2 ^ 0 := by
    show word 0x42000000 [put d 18, put a 12, put i 0] = _
    rw [word_cons, word_cons, word_cons, word_nil, put_eq, put_eq, put_eq]
  refine roundTrips_word rfl (by omega) fun e₁ he hw k₁ hk => ?_
  rw [e0]
  clear e0
  generalize hW : 0x42000000 + d.toNat * 2 ^ 18 + a.toNat * 2 ^ 12 + i.toNat * 2 ^ 0 + k₁ * 2 ^ 31 = w₁
  have hm : w₁ / 2 ^ 24 % 128 = 0x42 := by omega
  have f0 : fld w₁ 18 6 = d := fld_eq (by omega)
  have f1 : fld w₁ 12 6 = a := fld_eq (by omega)
  have f2 : fld w₁ 0 12 = i := fld_eq (by omega)
  obtain rfl : e₁ = 0 := by simpa using (show (e₁ == 0) = true from he)
  rw [candidate_seq hm (by decide)]
  unfold seqOf
  rw [hm]
  show some (Instr.andi (fld w₁ 18 6) (fld w₁ 12 6) (fld w₁ 0 12)) = _
  rw [f0, f1, f2]

theorem ori (d : BitVec 6) (a : BitVec 6) (i : BitVec 12) : Statement (.ori d a i) := by
  have h0 := d.isLt; have h1 := a.isLt; have h2 := i.isLt
  have e0 : encodeWord (.ori d a i) = 0x43000000 + d.toNat * 2 ^ 18 + a.toNat * 2 ^ 12 + i.toNat * 2 ^ 0 := by
    show word 0x43000000 [put d 18, put a 12, put i 0] = _
    rw [word_cons, word_cons, word_cons, word_nil, put_eq, put_eq, put_eq]
  refine roundTrips_word rfl (by omega) fun e₁ he hw k₁ hk => ?_
  rw [e0]
  clear e0
  generalize hW : 0x43000000 + d.toNat * 2 ^ 18 + a.toNat * 2 ^ 12 + i.toNat * 2 ^ 0 + k₁ * 2 ^ 31 = w₁
  have hm : w₁ / 2 ^ 24 % 128 = 0x43 := by omega
  have f0 : fld w₁ 18 6 = d := fld_eq (by omega)
  have f1 : fld w₁ 12 6 = a := fld_eq (by omega)
  have f2 : fld w₁ 0 12 = i := fld_eq (by omega)
  obtain rfl : e₁ = 0 := by simpa using (show (e₁ == 0) = true from he)
  rw [candidate_seq hm (by decide)]
  unfold seqOf
  rw [hm]
  show some (Instr.ori (fld w₁ 18 6) (fld w₁ 12 6) (fld w₁ 0 12)) = _
  rw [f0, f1, f2]

theorem xori (d : BitVec 6) (a : BitVec 6) (i : BitVec 12) : Statement (.xori d a i) := by
  have h0 := d.isLt; have h1 := a.isLt; have h2 := i.isLt
  have e0 : encodeWord (.xori d a i) = 0x44000000 + d.toNat * 2 ^ 18 + a.toNat * 2 ^ 12 + i.toNat * 2 ^ 0 := by
    show word 0x44000000 [put d 18, put a 12, put i 0] = _
    rw [word_cons, word_cons, word_cons, word_nil, put_eq, put_eq, put_eq]
  refine roundTrips_word rfl (by omega) fun e₁ he hw k₁ hk => ?_
  rw [e0]
  clear e0
  generalize hW : 0x44000000 + d.toNat * 2 ^ 18 + a.toNat * 2 ^ 12 + i.toNat * 2 ^ 0 + k₁ * 2 ^ 31 = w₁
  have hm : w₁ / 2 ^ 24 % 128 = 0x44 := by omega
  have f0 : fld w₁ 18 6 = d := fld_eq (by omega)
  have f1 : fld w₁ 12 6 = a := fld_eq (by omega)
  have f2 : fld w₁ 0 12 = i := fld_eq (by omega)
  obtain rfl : e₁ = 0 := by simpa using (show (e₁ == 0) = true from he)
  rw [candidate_seq hm (by decide)]
  unfold seqOf
  rw [hm]
  show some (Instr.xori (fld w₁ 18 6) (fld w₁ 12 6) (fld w₁ 0 12)) = _
  rw [f0, f1, f2]

theorem slli (d : BitVec 6) (a : BitVec 6) (n : BitVec 6) : Statement (.slli d a n) := by
  have h0 := d.isLt; have h1 := a.isLt; have h2 := n.isLt
  have e0 : encodeWord (.slli d a n) = 0x45000000 + d.toNat * 2 ^ 18 + a.toNat * 2 ^ 12 + n.toNat * 2 ^ 0 := by
    show word 0x45000000 [put d 18, put a 12, put n 0] = _
    rw [word_cons, word_cons, word_cons, word_nil, put_eq, put_eq, put_eq]
  refine roundTrips_word rfl (by omega) fun e₁ he hw k₁ hk => ?_
  rw [e0]
  clear e0
  generalize hW : 0x45000000 + d.toNat * 2 ^ 18 + a.toNat * 2 ^ 12 + n.toNat * 2 ^ 0 + k₁ * 2 ^ 31 = w₁
  have hm : w₁ / 2 ^ 24 % 128 = 0x45 := by omega
  have f0 : fld w₁ 18 6 = d := fld_eq (by omega)
  have f1 : fld w₁ 12 6 = a := fld_eq (by omega)
  have f2 : fld w₁ 0 6 = n := fld_eq (by omega)
  obtain rfl : e₁ = 0 := by simpa using (show (e₁ == 0) = true from he)
  rw [candidate_seq hm (by decide)]
  rw [seqOf45_eq hm]
  have hs : w₁ / 2 ^ 10 % 4 = 0x00 := by omega
  unfold seqOf45
  rw [hs]
  show some (Instr.slli (fld w₁ 18 6) (fld w₁ 12 6) (fld w₁ 0 6)) = _
  rw [f0, f1, f2]

theorem srli (d : BitVec 6) (a : BitVec 6) (n : BitVec 6) : Statement (.srli d a n) := by
  have h0 := d.isLt; have h1 := a.isLt; have h2 := n.isLt
  have e0 : encodeWord (.srli d a n) = 0x45000400 + d.toNat * 2 ^ 18 + a.toNat * 2 ^ 12 + n.toNat * 2 ^ 0 := by
    show word 0x45000400 [put d 18, put a 12, put n 0] = _
    rw [word_cons, word_cons, word_cons, word_nil, put_eq, put_eq, put_eq]
  refine roundTrips_word rfl (by omega) fun e₁ he hw k₁ hk => ?_
  rw [e0]
  clear e0
  generalize hW : 0x45000400 + d.toNat * 2 ^ 18 + a.toNat * 2 ^ 12 + n.toNat * 2 ^ 0 + k₁ * 2 ^ 31 = w₁
  have hm : w₁ / 2 ^ 24 % 128 = 0x45 := by omega
  have f0 : fld w₁ 18 6 = d := fld_eq (by omega)
  have f1 : fld w₁ 12 6 = a := fld_eq (by omega)
  have f2 : fld w₁ 0 6 = n := fld_eq (by omega)
  obtain rfl : e₁ = 0 := by simpa using (show (e₁ == 0) = true from he)
  rw [candidate_seq hm (by decide)]
  rw [seqOf45_eq hm]
  have hs : w₁ / 2 ^ 10 % 4 = 0x01 := by omega
  unfold seqOf45
  rw [hs]
  show some (Instr.srli (fld w₁ 18 6) (fld w₁ 12 6) (fld w₁ 0 6)) = _
  rw [f0, f1, f2]

theorem srai (d : BitVec 6) (a : BitVec 6) (n : BitVec 6) : Statement (.srai d a n) := by
  have h0 := d.isLt; have h1 := a.isLt; have h2 := n.isLt
  have e0 : encodeWord (.srai d a n) = 0x45000800 + d.toNat * 2 ^ 18 + a.toNat * 2 ^ 12 + n.toNat * 2 ^ 0 := by
    show word 0x45000800 [put d 18, put a 12, put n 0] = _
    rw [word_cons, word_cons, word_cons, word_nil, put_eq, put_eq, put_eq]
  refine roundTrips_word rfl (by omega) fun e₁ he hw k₁ hk => ?_
  rw [e0]
  clear e0
  generalize hW : 0x45000800 + d.toNat * 2 ^ 18 + a.toNat * 2 ^ 12 + n.toNat * 2 ^ 0 + k₁ * 2 ^ 31 = w₁
  have hm : w₁ / 2 ^ 24 % 128 = 0x45 := by omega
  have f0 : fld w₁ 18 6 = d := fld_eq (by omega)
  have f1 : fld w₁ 12 6 = a := fld_eq (by omega)
  have f2 : fld w₁ 0 6 = n := fld_eq (by omega)
  obtain rfl : e₁ = 0 := by simpa using (show (e₁ == 0) = true from he)
  rw [candidate_seq hm (by decide)]
  rw [seqOf45_eq hm]
  have hs : w₁ / 2 ^ 10 % 4 = 0x02 := by omega
  unfold seqOf45
  rw [hs]
  show some (Instr.srai (fld w₁ 18 6) (fld w₁ 12 6) (fld w₁ 0 6)) = _
  rw [f0, f1, f2]

theorem rori (d : BitVec 6) (a : BitVec 6) (n : BitVec 6) : Statement (.rori d a n) := by
  have h0 := d.isLt; have h1 := a.isLt; have h2 := n.isLt
  have e0 : encodeWord (.rori d a n) = 0x45000C00 + d.toNat * 2 ^ 18 + a.toNat * 2 ^ 12 + n.toNat * 2 ^ 0 := by
    show word 0x45000C00 [put d 18, put a 12, put n 0] = _
    rw [word_cons, word_cons, word_cons, word_nil, put_eq, put_eq, put_eq]
  refine roundTrips_word rfl (by omega) fun e₁ he hw k₁ hk => ?_
  rw [e0]
  clear e0
  generalize hW : 0x45000C00 + d.toNat * 2 ^ 18 + a.toNat * 2 ^ 12 + n.toNat * 2 ^ 0 + k₁ * 2 ^ 31 = w₁
  have hm : w₁ / 2 ^ 24 % 128 = 0x45 := by omega
  have f0 : fld w₁ 18 6 = d := fld_eq (by omega)
  have f1 : fld w₁ 12 6 = a := fld_eq (by omega)
  have f2 : fld w₁ 0 6 = n := fld_eq (by omega)
  obtain rfl : e₁ = 0 := by simpa using (show (e₁ == 0) = true from he)
  rw [candidate_seq hm (by decide)]
  rw [seqOf45_eq hm]
  have hs : w₁ / 2 ^ 10 % 4 = 0x03 := by omega
  unfold seqOf45
  rw [hs]
  show some (Instr.rori (fld w₁ 18 6) (fld w₁ 12 6) (fld w₁ 0 6)) = _
  rw [f0, f1, f2]

theorem slti (d : BitVec 6) (a : BitVec 6) (i : BitVec 12) : Statement (.slti d a i) := by
  have h0 := d.isLt; have h1 := a.isLt; have h2 := i.isLt
  have e0 : encodeWord (.slti d a i) = 0x46000000 + d.toNat * 2 ^ 18 + a.toNat * 2 ^ 12 + i.toNat * 2 ^ 0 := by
    show word 0x46000000 [put d 18, put a 12, put i 0] = _
    rw [word_cons, word_cons, word_cons, word_nil, put_eq, put_eq, put_eq]
  refine roundTrips_word rfl (by omega) fun e₁ he hw k₁ hk => ?_
  rw [e0]
  clear e0
  generalize hW : 0x46000000 + d.toNat * 2 ^ 18 + a.toNat * 2 ^ 12 + i.toNat * 2 ^ 0 + k₁ * 2 ^ 31 = w₁
  have hm : w₁ / 2 ^ 24 % 128 = 0x46 := by omega
  have f0 : fld w₁ 18 6 = d := fld_eq (by omega)
  have f1 : fld w₁ 12 6 = a := fld_eq (by omega)
  have f2 : fld w₁ 0 12 = i := fld_eq (by omega)
  obtain rfl : e₁ = 0 := by simpa using (show (e₁ == 0) = true from he)
  rw [candidate_seq hm (by decide)]
  unfold seqOf
  rw [hm]
  show some (Instr.slti (fld w₁ 18 6) (fld w₁ 12 6) (fld w₁ 0 12)) = _
  rw [f0, f1, f2]

theorem sltiu (d : BitVec 6) (a : BitVec 6) (i : BitVec 12) : Statement (.sltiu d a i) := by
  have h0 := d.isLt; have h1 := a.isLt; have h2 := i.isLt
  have e0 : encodeWord (.sltiu d a i) = 0x47000000 + d.toNat * 2 ^ 18 + a.toNat * 2 ^ 12 + i.toNat * 2 ^ 0 := by
    show word 0x47000000 [put d 18, put a 12, put i 0] = _
    rw [word_cons, word_cons, word_cons, word_nil, put_eq, put_eq, put_eq]
  refine roundTrips_word rfl (by omega) fun e₁ he hw k₁ hk => ?_
  rw [e0]
  clear e0
  generalize hW : 0x47000000 + d.toNat * 2 ^ 18 + a.toNat * 2 ^ 12 + i.toNat * 2 ^ 0 + k₁ * 2 ^ 31 = w₁
  have hm : w₁ / 2 ^ 24 % 128 = 0x47 := by omega
  have f0 : fld w₁ 18 6 = d := fld_eq (by omega)
  have f1 : fld w₁ 12 6 = a := fld_eq (by omega)
  have f2 : fld w₁ 0 12 = i := fld_eq (by omega)
  obtain rfl : e₁ = 0 := by simpa using (show (e₁ == 0) = true from he)
  rw [candidate_seq hm (by decide)]
  unfold seqOf
  rw [hm]
  show some (Instr.sltiu (fld w₁ 18 6) (fld w₁ 12 6) (fld w₁ 0 12)) = _
  rw [f0, f1, f2]

theorem movw (d : BitVec 6) (h : BitVec 2) (i : BitVec 16) : Statement (.movw d h i) := by
  have h0 := d.isLt; have h1 := h.isLt; have h2 := i.isLt
  have e0 : encodeWord (.movw d h i) = 0x48000000 + d.toNat * 2 ^ 18 + h.toNat * 2 ^ 16 + i.toNat * 2 ^ 0 := by
    show word 0x48000000 [put d 18, put h 16, put i 0] = _
    rw [word_cons, word_cons, word_cons, word_nil, put_eq, put_eq, put_eq]
  refine roundTrips_word rfl (by omega) fun e₁ he hw k₁ hk => ?_
  rw [e0]
  clear e0
  generalize hW : 0x48000000 + d.toNat * 2 ^ 18 + h.toNat * 2 ^ 16 + i.toNat * 2 ^ 0 + k₁ * 2 ^ 31 = w₁
  have hm : w₁ / 2 ^ 24 % 128 = 0x48 := by omega
  have f0 : fld w₁ 18 6 = d := fld_eq (by omega)
  have f1 : fld w₁ 16 2 = h := fld_eq (by omega)
  have f2 : fld w₁ 0 16 = i := fld_eq (by omega)
  obtain rfl : e₁ = 0 := by simpa using (show (e₁ == 0) = true from he)
  rw [candidate_seq hm (by decide)]
  unfold seqOf
  rw [hm]
  show some (Instr.movw (fld w₁ 18 6) (fld w₁ 16 2) (fld w₁ 0 16)) = _
  rw [f0, f1, f2]

theorem movk (d : BitVec 6) (h : BitVec 2) (i : BitVec 16) : Statement (.movk d h i) := by
  have h0 := d.isLt; have h1 := h.isLt; have h2 := i.isLt
  have e0 : encodeWord (.movk d h i) = 0x49000000 + d.toNat * 2 ^ 18 + h.toNat * 2 ^ 16 + i.toNat * 2 ^ 0 := by
    show word 0x49000000 [put d 18, put h 16, put i 0] = _
    rw [word_cons, word_cons, word_cons, word_nil, put_eq, put_eq, put_eq]
  refine roundTrips_word rfl (by omega) fun e₁ he hw k₁ hk => ?_
  rw [e0]
  clear e0
  generalize hW : 0x49000000 + d.toNat * 2 ^ 18 + h.toNat * 2 ^ 16 + i.toNat * 2 ^ 0 + k₁ * 2 ^ 31 = w₁
  have hm : w₁ / 2 ^ 24 % 128 = 0x49 := by omega
  have f0 : fld w₁ 18 6 = d := fld_eq (by omega)
  have f1 : fld w₁ 16 2 = h := fld_eq (by omega)
  have f2 : fld w₁ 0 16 = i := fld_eq (by omega)
  obtain rfl : e₁ = 0 := by simpa using (show (e₁ == 0) = true from he)
  rw [candidate_seq hm (by decide)]
  unfold seqOf
  rw [hm]
  show some (Instr.movk (fld w₁ 18 6) (fld w₁ 16 2) (fld w₁ 0 16)) = _
  rw [f0, f1, f2]

theorem sel (d : BitVec 6) (c : BitVec 6) (x : BitVec 6) (y : BitVec 6) : Statement (.sel d c x y) := by
  have h0 := d.isLt; have h1 := c.isLt; have h2 := x.isLt; have h3 := y.isLt
  have e0 : encodeWord (.sel d c x y) = 0x4A000000 + d.toNat * 2 ^ 18 + c.toNat * 2 ^ 12 + x.toNat * 2 ^ 6 + y.toNat * 2 ^ 0 := by
    show word 0x4A000000 [put d 18, put c 12, put x 6, put y 0] = _
    rw [word_cons, word_cons, word_cons, word_cons, word_nil, put_eq, put_eq, put_eq, put_eq]
  refine roundTrips_word rfl (by omega) fun e₁ he hw k₁ hk => ?_
  rw [e0]
  clear e0
  generalize hW : 0x4A000000 + d.toNat * 2 ^ 18 + c.toNat * 2 ^ 12 + x.toNat * 2 ^ 6 + y.toNat * 2 ^ 0 + k₁ * 2 ^ 31 = w₁
  have hm : w₁ / 2 ^ 24 % 128 = 0x4A := by omega
  have f0 : fld w₁ 18 6 = d := fld_eq (by omega)
  have f1 : fld w₁ 12 6 = c := fld_eq (by omega)
  have f2 : fld w₁ 6 6 = x := fld_eq (by omega)
  have f3 : fld w₁ 0 6 = y := fld_eq (by omega)
  obtain rfl : e₁ = 0 := by simpa using (show (e₁ == 0) = true from he)
  rw [candidate_seq hm (by decide)]
  unfold seqOf
  rw [hm]
  show some (Instr.sel (fld w₁ 18 6) (fld w₁ 12 6) (fld w₁ 6 6) (fld w₁ 0 6)) = _
  rw [f0, f1, f2, f3]

theorem selc (d : BitVec 6) (c : BitVec 6) (x : BitVec 6) (y : BitVec 6) : Statement (.selc d c x y) := by
  have h0 := d.isLt; have h1 := c.isLt; have h2 := x.isLt; have h3 := y.isLt
  have e0 : encodeWord (.selc d c x y) = 0x4B000000 + d.toNat * 2 ^ 18 + c.toNat * 2 ^ 12 + x.toNat * 2 ^ 6 + y.toNat * 2 ^ 0 := by
    show word 0x4B000000 [put d 18, put c 12, put x 6, put y 0] = _
    rw [word_cons, word_cons, word_cons, word_cons, word_nil, put_eq, put_eq, put_eq, put_eq]
  refine roundTrips_word rfl (by omega) fun e₁ he hw k₁ hk => ?_
  rw [e0]
  clear e0
  generalize hW : 0x4B000000 + d.toNat * 2 ^ 18 + c.toNat * 2 ^ 12 + x.toNat * 2 ^ 6 + y.toNat * 2 ^ 0 + k₁ * 2 ^ 31 = w₁
  have hm : w₁ / 2 ^ 24 % 128 = 0x4B := by omega
  have f0 : fld w₁ 18 6 = d := fld_eq (by omega)
  have f1 : fld w₁ 12 6 = c := fld_eq (by omega)
  have f2 : fld w₁ 6 6 = x := fld_eq (by omega)
  have f3 : fld w₁ 0 6 = y := fld_eq (by omega)
  obtain rfl : e₁ = 0 := by simpa using (show (e₁ == 0) = true from he)
  rw [candidate_seq hm (by decide)]
  unfold seqOf
  rw [hm]
  show some (Instr.selc (fld w₁ 18 6) (fld w₁ 12 6) (fld w₁ 6 6) (fld w₁ 0 6)) = _
  rw [f0, f1, f2, f3]

theorem kset (k : BitVec 3) (a : BitVec 6) : Statement (.kset k a) := by
  have h0 := k.isLt; have h1 := a.isLt
  have e0 : encodeWord (.kset k a) = 0x4C000000 + k.toNat * 2 ^ 21 + a.toNat * 2 ^ 15 := by
    show word 0x4C000000 [put k 21, put a 15] = _
    rw [word_cons, word_cons, word_nil, put_eq, put_eq]
  refine roundTrips_word rfl (by omega) fun e₁ he hw k₁ hk => ?_
  rw [e0]
  clear e0
  generalize hW : 0x4C000000 + k.toNat * 2 ^ 21 + a.toNat * 2 ^ 15 + k₁ * 2 ^ 31 = w₁
  have hm : w₁ / 2 ^ 24 % 128 = 0x4C := by omega
  have f0 : fld w₁ 21 3 = k := fld_eq (by omega)
  have f1 : fld w₁ 15 6 = a := fld_eq (by omega)
  obtain rfl : e₁ = 0 := by simpa using (show (e₁ == 0) = true from he)
  rw [candidate_seq hm (by decide)]
  unfold seqOf
  rw [hm]
  show some (Instr.kset (fld w₁ 21 3) (fld w₁ 15 6)) = _
  rw [f0, f1]

theorem kget (d : BitVec 6) (k : BitVec 3) : Statement (.kget d k) := by
  have h0 := d.isLt; have h1 := k.isLt
  have e0 : encodeWord (.kget d k) = 0x4D000000 + d.toNat * 2 ^ 18 + k.toNat * 2 ^ 15 := by
    show word 0x4D000000 [put d 18, put k 15] = _
    rw [word_cons, word_cons, word_nil, put_eq, put_eq]
  refine roundTrips_word rfl (by omega) fun e₁ he hw k₁ hk => ?_
  rw [e0]
  clear e0
  generalize hW : 0x4D000000 + d.toNat * 2 ^ 18 + k.toNat * 2 ^ 15 + k₁ * 2 ^ 31 = w₁
  have hm : w₁ / 2 ^ 24 % 128 = 0x4D := by omega
  have f0 : fld w₁ 18 6 = d := fld_eq (by omega)
  have f1 : fld w₁ 15 3 = k := fld_eq (by omega)
  obtain rfl : e₁ = 0 := by simpa using (show (e₁ == 0) = true from he)
  rw [candidate_seq hm (by decide)]
  unfold seqOf
  rw [hm]
  show some (Instr.kget (fld w₁ 18 6) (fld w₁ 15 3)) = _
  rw [f0, f1]

theorem ldb (d : BitVec 6) (b : BitVec 6) (x : BitVec 6) (z : BitVec 2) (c : BitVec 4) : Statement (.ldb d b x z c) := by
  have h0 := d.isLt; have h1 := b.isLt; have h2 := x.isLt; have h3 := z.isLt; have h4 := c.isLt
  have e0 : encodeWord (.ldb d b x z c) = 0x4E000000 + d.toNat * 2 ^ 18 + b.toNat * 2 ^ 12 + x.toNat * 2 ^ 6 + z.toNat * 2 ^ 4 + c.toNat * 2 ^ 0 := by
    show word 0x4E000000 [put d 18, put b 12, put x 6, put z 4, put c 0] = _
    rw [word_cons, word_cons, word_cons, word_cons, word_cons, word_nil, put_eq, put_eq, put_eq, put_eq, put_eq]
  refine roundTrips_word rfl (by omega) fun e₁ he hw k₁ hk => ?_
  rw [e0]
  clear e0
  generalize hW : 0x4E000000 + d.toNat * 2 ^ 18 + b.toNat * 2 ^ 12 + x.toNat * 2 ^ 6 + z.toNat * 2 ^ 4 + c.toNat * 2 ^ 0 + k₁ * 2 ^ 31 = w₁
  have hm : w₁ / 2 ^ 24 % 128 = 0x4E := by omega
  have f0 : fld w₁ 18 6 = d := fld_eq (by omega)
  have f1 : fld w₁ 12 6 = b := fld_eq (by omega)
  have f2 : fld w₁ 6 6 = x := fld_eq (by omega)
  have f3 : fld w₁ 4 2 = z := fld_eq (by omega)
  have f4 : fld w₁ 0 4 = c := fld_eq (by omega)
  obtain rfl : e₁ = 0 := by simpa using (show (e₁ == 0) = true from he)
  rw [candidate_seq hm (by decide)]
  unfold seqOf
  rw [hm]
  show some (Instr.ldb (fld w₁ 18 6) (fld w₁ 12 6) (fld w₁ 6 6) (fld w₁ 4 2) (fld w₁ 0 4)) = _
  rw [f0, f1, f2, f3, f4]

theorem stb (d : BitVec 6) (b : BitVec 6) (x : BitVec 6) (z : BitVec 2) (c : BitVec 4) : Statement (.stb d b x z c) := by
  have h0 := d.isLt; have h1 := b.isLt; have h2 := x.isLt; have h3 := z.isLt; have h4 := c.isLt
  have e0 : encodeWord (.stb d b x z c) = 0x4F000000 + d.toNat * 2 ^ 18 + b.toNat * 2 ^ 12 + x.toNat * 2 ^ 6 + z.toNat * 2 ^ 4 + c.toNat * 2 ^ 0 := by
    show word 0x4F000000 [put d 18, put b 12, put x 6, put z 4, put c 0] = _
    rw [word_cons, word_cons, word_cons, word_cons, word_cons, word_nil, put_eq, put_eq, put_eq, put_eq, put_eq]
  refine roundTrips_word rfl (by omega) fun e₁ he hw k₁ hk => ?_
  rw [e0]
  clear e0
  generalize hW : 0x4F000000 + d.toNat * 2 ^ 18 + b.toNat * 2 ^ 12 + x.toNat * 2 ^ 6 + z.toNat * 2 ^ 4 + c.toNat * 2 ^ 0 + k₁ * 2 ^ 31 = w₁
  have hm : w₁ / 2 ^ 24 % 128 = 0x4F := by omega
  have f0 : fld w₁ 18 6 = d := fld_eq (by omega)
  have f1 : fld w₁ 12 6 = b := fld_eq (by omega)
  have f2 : fld w₁ 6 6 = x := fld_eq (by omega)
  have f3 : fld w₁ 4 2 = z := fld_eq (by omega)
  have f4 : fld w₁ 0 4 = c := fld_eq (by omega)
  obtain rfl : e₁ = 0 := by simpa using (show (e₁ == 0) = true from he)
  rw [candidate_seq hm (by decide)]
  unfold seqOf
  rw [hm]
  show some (Instr.stb (fld w₁ 18 6) (fld w₁ 12 6) (fld w₁ 6 6) (fld w₁ 4 2) (fld w₁ 0 4)) = _
  rw [f0, f1, f2, f3, f4]

theorem ldScratch (d : BitVec 6) (b : BitVec 6) (p : BitVec 1) (o : BitVec 5) (z : BitVec 2) (c : BitVec 4) : Statement (.ldScratch d b p o z c) := by
  have h0 := d.isLt; have h1 := b.isLt; have h2 := p.isLt; have h3 := o.isLt; have h4 := z.isLt; have h5 := c.isLt
  have e0 : encodeWord (.ldScratch d b p o z c) = 0x50000000 + d.toNat * 2 ^ 18 + b.toNat * 2 ^ 12 + p.toNat * 2 ^ 11 + o.toNat * 2 ^ 6 + z.toNat * 2 ^ 4 + c.toNat * 2 ^ 0 := by
    show word 0x50000000 [put d 18, put b 12, put p 11, put o 6, put z 4, put c 0] = _
    rw [word_cons, word_cons, word_cons, word_cons, word_cons, word_cons, word_nil, put_eq, put_eq, put_eq, put_eq, put_eq, put_eq]
  refine roundTrips_word rfl (by omega) fun e₁ he hw k₁ hk => ?_
  rw [e0]
  clear e0
  generalize hW : 0x50000000 + d.toNat * 2 ^ 18 + b.toNat * 2 ^ 12 + p.toNat * 2 ^ 11 + o.toNat * 2 ^ 6 + z.toNat * 2 ^ 4 + c.toNat * 2 ^ 0 + k₁ * 2 ^ 31 = w₁
  have hm : w₁ / 2 ^ 24 % 128 = 0x50 := by omega
  have f0 : fld w₁ 18 6 = d := fld_eq (by omega)
  have f1 : fld w₁ 12 6 = b := fld_eq (by omega)
  have f2 : fld w₁ 11 1 = p := fld_eq (by omega)
  have f3 : fld w₁ 6 5 = o := fld_eq (by omega)
  have f4 : fld w₁ 4 2 = z := fld_eq (by omega)
  have f5 : fld w₁ 0 4 = c := fld_eq (by omega)
  obtain rfl : e₁ = 0 := by simpa using (show (e₁ == 0) = true from he)
  rw [candidate_seq hm (by decide)]
  unfold seqOf
  rw [hm]
  show some (Instr.ldScratch (fld w₁ 18 6) (fld w₁ 12 6) (fld w₁ 11 1) (fld w₁ 6 5) (fld w₁ 4 2) (fld w₁ 0 4)) = _
  rw [f0, f1, f2, f3, f4, f5]

theorem ldxScratch (d : BitVec 6) (b : BitVec 6) (p : BitVec 1) (o : BitVec 5) (z : BitVec 2) (c : BitVec 4) : Statement (.ldxScratch d b p o z c) := by
  have h0 := d.isLt; have h1 := b.isLt; have h2 := p.isLt; have h3 := o.isLt; have h4 := z.isLt; have h5 := c.isLt
  have e0 : encodeWord (.ldxScratch d b p o z c) = 0x51000000 + d.toNat * 2 ^ 18 + b.toNat * 2 ^ 12 + p.toNat * 2 ^ 11 + o.toNat * 2 ^ 6 + z.toNat * 2 ^ 4 + c.toNat * 2 ^ 0 := by
    show word 0x51000000 [put d 18, put b 12, put p 11, put o 6, put z 4, put c 0] = _
    rw [word_cons, word_cons, word_cons, word_cons, word_cons, word_cons, word_nil, put_eq, put_eq, put_eq, put_eq, put_eq, put_eq]
  refine roundTrips_word rfl (by omega) fun e₁ he hw k₁ hk => ?_
  rw [e0]
  clear e0
  generalize hW : 0x51000000 + d.toNat * 2 ^ 18 + b.toNat * 2 ^ 12 + p.toNat * 2 ^ 11 + o.toNat * 2 ^ 6 + z.toNat * 2 ^ 4 + c.toNat * 2 ^ 0 + k₁ * 2 ^ 31 = w₁
  have hm : w₁ / 2 ^ 24 % 128 = 0x51 := by omega
  have f0 : fld w₁ 18 6 = d := fld_eq (by omega)
  have f1 : fld w₁ 12 6 = b := fld_eq (by omega)
  have f2 : fld w₁ 11 1 = p := fld_eq (by omega)
  have f3 : fld w₁ 6 5 = o := fld_eq (by omega)
  have f4 : fld w₁ 4 2 = z := fld_eq (by omega)
  have f5 : fld w₁ 0 4 = c := fld_eq (by omega)
  obtain rfl : e₁ = 0 := by simpa using (show (e₁ == 0) = true from he)
  rw [candidate_seq hm (by decide)]
  unfold seqOf
  rw [hm]
  show some (Instr.ldxScratch (fld w₁ 18 6) (fld w₁ 12 6) (fld w₁ 11 1) (fld w₁ 6 5) (fld w₁ 4 2) (fld w₁ 0 4)) = _
  rw [f0, f1, f2, f3, f4, f5]

theorem stScratch (d : BitVec 6) (b : BitVec 6) (o : BitVec 5) (z : BitVec 2) (c : BitVec 4) : Statement (.stScratch d b o z c) := by
  have h0 := d.isLt; have h1 := b.isLt; have h2 := o.isLt; have h3 := z.isLt; have h4 := c.isLt
  have e0 : encodeWord (.stScratch d b o z c) = 0x52000000 + d.toNat * 2 ^ 18 + b.toNat * 2 ^ 12 + o.toNat * 2 ^ 6 + z.toNat * 2 ^ 4 + c.toNat * 2 ^ 0 := by
    show word 0x52000000 [put d 18, put b 12, put o 6, put z 4, put c 0] = _
    rw [word_cons, word_cons, word_cons, word_cons, word_cons, word_nil, put_eq, put_eq, put_eq, put_eq, put_eq]
  refine roundTrips_word rfl (by omega) fun e₁ he hw k₁ hk => ?_
  rw [e0]
  clear e0
  generalize hW : 0x52000000 + d.toNat * 2 ^ 18 + b.toNat * 2 ^ 12 + o.toNat * 2 ^ 6 + z.toNat * 2 ^ 4 + c.toNat * 2 ^ 0 + k₁ * 2 ^ 31 = w₁
  have hm : w₁ / 2 ^ 24 % 128 = 0x52 := by omega
  have f0 : fld w₁ 18 6 = d := fld_eq (by omega)
  have f1 : fld w₁ 12 6 = b := fld_eq (by omega)
  have f2 : fld w₁ 6 5 = o := fld_eq (by omega)
  have f3 : fld w₁ 4 2 = z := fld_eq (by omega)
  have f4 : fld w₁ 0 4 = c := fld_eq (by omega)
  obtain rfl : e₁ = 0 := by simpa using (show (e₁ == 0) = true from he)
  rw [candidate_seq hm (by decide)]
  unfold seqOf
  rw [hm]
  show some (Instr.stScratch (fld w₁ 18 6) (fld w₁ 12 6) (fld w₁ 6 5) (fld w₁ 4 2) (fld w₁ 0 4)) = _
  rw [f0, f1, f2, f3, f4]

theorem ldState (d : BitVec 6) (b : BitVec 6) (p : BitVec 1) (o : BitVec 5) (z : BitVec 2) (c : BitVec 4) : Statement (.ldState d b p o z c) := by
  have h0 := d.isLt; have h1 := b.isLt; have h2 := p.isLt; have h3 := o.isLt; have h4 := z.isLt; have h5 := c.isLt
  have e0 : encodeWord (.ldState d b p o z c) = 0x53000000 + d.toNat * 2 ^ 18 + b.toNat * 2 ^ 12 + p.toNat * 2 ^ 11 + o.toNat * 2 ^ 6 + z.toNat * 2 ^ 4 + c.toNat * 2 ^ 0 := by
    show word 0x53000000 [put d 18, put b 12, put p 11, put o 6, put z 4, put c 0] = _
    rw [word_cons, word_cons, word_cons, word_cons, word_cons, word_cons, word_nil, put_eq, put_eq, put_eq, put_eq, put_eq, put_eq]
  refine roundTrips_word rfl (by omega) fun e₁ he hw k₁ hk => ?_
  rw [e0]
  clear e0
  generalize hW : 0x53000000 + d.toNat * 2 ^ 18 + b.toNat * 2 ^ 12 + p.toNat * 2 ^ 11 + o.toNat * 2 ^ 6 + z.toNat * 2 ^ 4 + c.toNat * 2 ^ 0 + k₁ * 2 ^ 31 = w₁
  have hm : w₁ / 2 ^ 24 % 128 = 0x53 := by omega
  have f0 : fld w₁ 18 6 = d := fld_eq (by omega)
  have f1 : fld w₁ 12 6 = b := fld_eq (by omega)
  have f2 : fld w₁ 11 1 = p := fld_eq (by omega)
  have f3 : fld w₁ 6 5 = o := fld_eq (by omega)
  have f4 : fld w₁ 4 2 = z := fld_eq (by omega)
  have f5 : fld w₁ 0 4 = c := fld_eq (by omega)
  obtain rfl : e₁ = 0 := by simpa using (show (e₁ == 0) = true from he)
  rw [candidate_seq hm (by decide)]
  unfold seqOf
  rw [hm]
  show some (Instr.ldState (fld w₁ 18 6) (fld w₁ 12 6) (fld w₁ 11 1) (fld w₁ 6 5) (fld w₁ 4 2) (fld w₁ 0 4)) = _
  rw [f0, f1, f2, f3, f4, f5]

theorem stState (d : BitVec 6) (b : BitVec 6) (o : BitVec 5) (z : BitVec 2) (c : BitVec 4) : Statement (.stState d b o z c) := by
  have h0 := d.isLt; have h1 := b.isLt; have h2 := o.isLt; have h3 := z.isLt; have h4 := c.isLt
  have e0 : encodeWord (.stState d b o z c) = 0x54000000 + d.toNat * 2 ^ 18 + b.toNat * 2 ^ 12 + o.toNat * 2 ^ 6 + z.toNat * 2 ^ 4 + c.toNat * 2 ^ 0 := by
    show word 0x54000000 [put d 18, put b 12, put o 6, put z 4, put c 0] = _
    rw [word_cons, word_cons, word_cons, word_cons, word_cons, word_nil, put_eq, put_eq, put_eq, put_eq, put_eq]
  refine roundTrips_word rfl (by omega) fun e₁ he hw k₁ hk => ?_
  rw [e0]
  clear e0
  generalize hW : 0x54000000 + d.toNat * 2 ^ 18 + b.toNat * 2 ^ 12 + o.toNat * 2 ^ 6 + z.toNat * 2 ^ 4 + c.toNat * 2 ^ 0 + k₁ * 2 ^ 31 = w₁
  have hm : w₁ / 2 ^ 24 % 128 = 0x54 := by omega
  have f0 : fld w₁ 18 6 = d := fld_eq (by omega)
  have f1 : fld w₁ 12 6 = b := fld_eq (by omega)
  have f2 : fld w₁ 6 5 = o := fld_eq (by omega)
  have f3 : fld w₁ 4 2 = z := fld_eq (by omega)
  have f4 : fld w₁ 0 4 = c := fld_eq (by omega)
  obtain rfl : e₁ = 0 := by simpa using (show (e₁ == 0) = true from he)
  rw [candidate_seq hm (by decide)]
  unfold seqOf
  rw [hm]
  show some (Instr.stState (fld w₁ 18 6) (fld w₁ 12 6) (fld w₁ 6 5) (fld w₁ 4 2) (fld w₁ 0 4)) = _
  rw [f0, f1, f2, f3, f4]

theorem ldHandle (d : BitVec 6) (h : BitVec 4) (x : BitVec 6) (p : BitVec 1) (z : BitVec 2) (c : BitVec 4) : Statement (.ldHandle d h x p z c) := by
  have h0 := d.isLt; have h1 := h.isLt; have h2 := x.isLt; have h3 := p.isLt; have h4 := z.isLt; have h5 := c.isLt
  have e0 : encodeWord (.ldHandle d h x p z c) = 0x55000000 + d.toNat * 2 ^ 18 + h.toNat * 2 ^ 14 + x.toNat * 2 ^ 8 + p.toNat * 2 ^ 7 + z.toNat * 2 ^ 5 + c.toNat * 2 ^ 1 := by
    show word 0x55000000 [put d 18, put h 14, put x 8, put p 7, put z 5, put c 1] = _
    rw [word_cons, word_cons, word_cons, word_cons, word_cons, word_cons, word_nil, put_eq, put_eq, put_eq, put_eq, put_eq, put_eq]
  refine roundTrips_word rfl (by omega) fun e₁ he hw k₁ hk => ?_
  rw [e0]
  clear e0
  generalize hW : 0x55000000 + d.toNat * 2 ^ 18 + h.toNat * 2 ^ 14 + x.toNat * 2 ^ 8 + p.toNat * 2 ^ 7 + z.toNat * 2 ^ 5 + c.toNat * 2 ^ 1 + k₁ * 2 ^ 31 = w₁
  have hm : w₁ / 2 ^ 24 % 128 = 0x55 := by omega
  have f0 : fld w₁ 18 6 = d := fld_eq (by omega)
  have f1 : fld w₁ 14 4 = h := fld_eq (by omega)
  have f2 : fld w₁ 8 6 = x := fld_eq (by omega)
  have f3 : fld w₁ 7 1 = p := fld_eq (by omega)
  have f4 : fld w₁ 5 2 = z := fld_eq (by omega)
  have f5 : fld w₁ 1 4 = c := fld_eq (by omega)
  obtain rfl : e₁ = 0 := by simpa using (show (e₁ == 0) = true from he)
  rw [candidate_seq hm (by decide)]
  unfold seqOf
  rw [hm]
  show some (Instr.ldHandle (fld w₁ 18 6) (fld w₁ 14 4) (fld w₁ 8 6) (fld w₁ 7 1) (fld w₁ 5 2) (fld w₁ 1 4)) = _
  rw [f0, f1, f2, f3, f4, f5]

theorem ldxHandle (d : BitVec 6) (h : BitVec 4) (x : BitVec 6) (p : BitVec 1) (z : BitVec 2) (c : BitVec 4) : Statement (.ldxHandle d h x p z c) := by
  have h0 := d.isLt; have h1 := h.isLt; have h2 := x.isLt; have h3 := p.isLt; have h4 := z.isLt; have h5 := c.isLt
  have e0 : encodeWord (.ldxHandle d h x p z c) = 0x56000000 + d.toNat * 2 ^ 18 + h.toNat * 2 ^ 14 + x.toNat * 2 ^ 8 + p.toNat * 2 ^ 7 + z.toNat * 2 ^ 5 + c.toNat * 2 ^ 1 := by
    show word 0x56000000 [put d 18, put h 14, put x 8, put p 7, put z 5, put c 1] = _
    rw [word_cons, word_cons, word_cons, word_cons, word_cons, word_cons, word_nil, put_eq, put_eq, put_eq, put_eq, put_eq, put_eq]
  refine roundTrips_word rfl (by omega) fun e₁ he hw k₁ hk => ?_
  rw [e0]
  clear e0
  generalize hW : 0x56000000 + d.toNat * 2 ^ 18 + h.toNat * 2 ^ 14 + x.toNat * 2 ^ 8 + p.toNat * 2 ^ 7 + z.toNat * 2 ^ 5 + c.toNat * 2 ^ 1 + k₁ * 2 ^ 31 = w₁
  have hm : w₁ / 2 ^ 24 % 128 = 0x56 := by omega
  have f0 : fld w₁ 18 6 = d := fld_eq (by omega)
  have f1 : fld w₁ 14 4 = h := fld_eq (by omega)
  have f2 : fld w₁ 8 6 = x := fld_eq (by omega)
  have f3 : fld w₁ 7 1 = p := fld_eq (by omega)
  have f4 : fld w₁ 5 2 = z := fld_eq (by omega)
  have f5 : fld w₁ 1 4 = c := fld_eq (by omega)
  obtain rfl : e₁ = 0 := by simpa using (show (e₁ == 0) = true from he)
  rw [candidate_seq hm (by decide)]
  unfold seqOf
  rw [hm]
  show some (Instr.ldxHandle (fld w₁ 18 6) (fld w₁ 14 4) (fld w₁ 8 6) (fld w₁ 7 1) (fld w₁ 5 2) (fld w₁ 1 4)) = _
  rw [f0, f1, f2, f3, f4, f5]

theorem stHandle (d : BitVec 6) (h : BitVec 4) (x : BitVec 6) (z : BitVec 2) (c : BitVec 4) : Statement (.stHandle d h x z c) := by
  have h0 := d.isLt; have h1 := h.isLt; have h2 := x.isLt; have h3 := z.isLt; have h4 := c.isLt
  have e0 : encodeWord (.stHandle d h x z c) = 0x57000000 + d.toNat * 2 ^ 18 + h.toNat * 2 ^ 14 + x.toNat * 2 ^ 8 + z.toNat * 2 ^ 5 + c.toNat * 2 ^ 1 := by
    show word 0x57000000 [put d 18, put h 14, put x 8, put z 5, put c 1] = _
    rw [word_cons, word_cons, word_cons, word_cons, word_cons, word_nil, put_eq, put_eq, put_eq, put_eq, put_eq]
  refine roundTrips_word rfl (by omega) fun e₁ he hw k₁ hk => ?_
  rw [e0]
  clear e0
  generalize hW : 0x57000000 + d.toNat * 2 ^ 18 + h.toNat * 2 ^ 14 + x.toNat * 2 ^ 8 + z.toNat * 2 ^ 5 + c.toNat * 2 ^ 1 + k₁ * 2 ^ 31 = w₁
  have hm : w₁ / 2 ^ 24 % 128 = 0x57 := by omega
  have f0 : fld w₁ 18 6 = d := fld_eq (by omega)
  have f1 : fld w₁ 14 4 = h := fld_eq (by omega)
  have f2 : fld w₁ 8 6 = x := fld_eq (by omega)
  have f3 : fld w₁ 5 2 = z := fld_eq (by omega)
  have f4 : fld w₁ 1 4 = c := fld_eq (by omega)
  obtain rfl : e₁ = 0 := by simpa using (show (e₁ == 0) = true from he)
  rw [candidate_seq hm (by decide)]
  unfold seqOf
  rw [hm]
  show some (Instr.stHandle (fld w₁ 18 6) (fld w₁ 14 4) (fld w₁ 8 6) (fld w₁ 5 2) (fld w₁ 1 4)) = _
  rw [f0, f1, f2, f3, f4]

theorem amo32 (v : BitVec 6) (b : BitVec 4) (x : BitVec 6) (o : BitVec 4) (c : BitVec 4) : Statement (.amo32 v b x o c) := by
  have h0 := v.isLt; have h1 := b.isLt; have h2 := x.isLt; have h3 := o.isLt; have h4 := c.isLt
  have e0 : encodeWord (.amo32 v b x o c) = 0x58000000 + v.toNat * 2 ^ 18 + b.toNat * 2 ^ 14 + x.toNat * 2 ^ 8 + o.toNat * 2 ^ 4 + c.toNat * 2 ^ 0 := by
    show word 0x58000000 [put v 18, put b 14, put x 8, put o 4, put c 0] = _
    rw [word_cons, word_cons, word_cons, word_cons, word_cons, word_nil, put_eq, put_eq, put_eq, put_eq, put_eq]
  refine roundTrips_word rfl (by omega) fun e₁ he hw k₁ hk => ?_
  rw [e0]
  clear e0
  generalize hW : 0x58000000 + v.toNat * 2 ^ 18 + b.toNat * 2 ^ 14 + x.toNat * 2 ^ 8 + o.toNat * 2 ^ 4 + c.toNat * 2 ^ 0 + k₁ * 2 ^ 31 = w₁
  have hm : w₁ / 2 ^ 24 % 128 = 0x58 := by omega
  have f0 : fld w₁ 18 6 = v := fld_eq (by omega)
  have f1 : fld w₁ 14 4 = b := fld_eq (by omega)
  have f2 : fld w₁ 8 6 = x := fld_eq (by omega)
  have f3 : fld w₁ 4 4 = o := fld_eq (by omega)
  have f4 : fld w₁ 0 4 = c := fld_eq (by omega)
  obtain rfl : e₁ = 0 := by simpa using (show (e₁ == 0) = true from he)
  rw [candidate_seq hm (by decide)]
  unfold seqOf
  rw [hm]
  show some (Instr.amo32 (fld w₁ 18 6) (fld w₁ 14 4) (fld w₁ 8 6) (fld w₁ 4 4) (fld w₁ 0 4)) = _
  rw [f0, f1, f2, f3, f4]

theorem amo64 (v : BitVec 6) (b : BitVec 4) (x : BitVec 6) (o : BitVec 4) (c : BitVec 4) : Statement (.amo64 v b x o c) := by
  have h0 := v.isLt; have h1 := b.isLt; have h2 := x.isLt; have h3 := o.isLt; have h4 := c.isLt
  have e0 : encodeWord (.amo64 v b x o c) = 0x59000000 + v.toNat * 2 ^ 18 + b.toNat * 2 ^ 14 + x.toNat * 2 ^ 8 + o.toNat * 2 ^ 4 + c.toNat * 2 ^ 0 := by
    show word 0x59000000 [put v 18, put b 14, put x 8, put o 4, put c 0] = _
    rw [word_cons, word_cons, word_cons, word_cons, word_cons, word_nil, put_eq, put_eq, put_eq, put_eq, put_eq]
  refine roundTrips_word rfl (by omega) fun e₁ he hw k₁ hk => ?_
  rw [e0]
  clear e0
  generalize hW : 0x59000000 + v.toNat * 2 ^ 18 + b.toNat * 2 ^ 14 + x.toNat * 2 ^ 8 + o.toNat * 2 ^ 4 + c.toNat * 2 ^ 0 + k₁ * 2 ^ 31 = w₁
  have hm : w₁ / 2 ^ 24 % 128 = 0x59 := by omega
  have f0 : fld w₁ 18 6 = v := fld_eq (by omega)
  have f1 : fld w₁ 14 4 = b := fld_eq (by omega)
  have f2 : fld w₁ 8 6 = x := fld_eq (by omega)
  have f3 : fld w₁ 4 4 = o := fld_eq (by omega)
  have f4 : fld w₁ 0 4 = c := fld_eq (by omega)
  obtain rfl : e₁ = 0 := by simpa using (show (e₁ == 0) = true from he)
  rw [candidate_seq hm (by decide)]
  unfold seqOf
  rw [hm]
  show some (Instr.amo64 (fld w₁ 18 6) (fld w₁ 14 4) (fld w₁ 8 6) (fld w₁ 4 4) (fld w₁ 0 4)) = _
  rw [f0, f1, f2, f3, f4]

theorem amoh32 (v : BitVec 6) (h : BitVec 4) (x : BitVec 6) (o : BitVec 4) (c : BitVec 4) : Statement (.amoh32 v h x o c) := by
  have h0 := v.isLt; have h1 := h.isLt; have h2 := x.isLt; have h3 := o.isLt; have h4 := c.isLt
  have e0 : encodeWord (.amoh32 v h x o c) = 0x5A000000 + v.toNat * 2 ^ 18 + h.toNat * 2 ^ 14 + x.toNat * 2 ^ 8 + o.toNat * 2 ^ 4 + c.toNat * 2 ^ 0 := by
    show word 0x5A000000 [put v 18, put h 14, put x 8, put o 4, put c 0] = _
    rw [word_cons, word_cons, word_cons, word_cons, word_cons, word_nil, put_eq, put_eq, put_eq, put_eq, put_eq]
  refine roundTrips_word rfl (by omega) fun e₁ he hw k₁ hk => ?_
  rw [e0]
  clear e0
  generalize hW : 0x5A000000 + v.toNat * 2 ^ 18 + h.toNat * 2 ^ 14 + x.toNat * 2 ^ 8 + o.toNat * 2 ^ 4 + c.toNat * 2 ^ 0 + k₁ * 2 ^ 31 = w₁
  have hm : w₁ / 2 ^ 24 % 128 = 0x5A := by omega
  have f0 : fld w₁ 18 6 = v := fld_eq (by omega)
  have f1 : fld w₁ 14 4 = h := fld_eq (by omega)
  have f2 : fld w₁ 8 6 = x := fld_eq (by omega)
  have f3 : fld w₁ 4 4 = o := fld_eq (by omega)
  have f4 : fld w₁ 0 4 = c := fld_eq (by omega)
  obtain rfl : e₁ = 0 := by simpa using (show (e₁ == 0) = true from he)
  rw [candidate_seq hm (by decide)]
  unfold seqOf
  rw [hm]
  show some (Instr.amoh32 (fld w₁ 18 6) (fld w₁ 14 4) (fld w₁ 8 6) (fld w₁ 4 4) (fld w₁ 0 4)) = _
  rw [f0, f1, f2, f3, f4]

theorem amoh64 (v : BitVec 6) (h : BitVec 4) (x : BitVec 6) (o : BitVec 4) (c : BitVec 4) : Statement (.amoh64 v h x o c) := by
  have h0 := v.isLt; have h1 := h.isLt; have h2 := x.isLt; have h3 := o.isLt; have h4 := c.isLt
  have e0 : encodeWord (.amoh64 v h x o c) = 0x5B000000 + v.toNat * 2 ^ 18 + h.toNat * 2 ^ 14 + x.toNat * 2 ^ 8 + o.toNat * 2 ^ 4 + c.toNat * 2 ^ 0 := by
    show word 0x5B000000 [put v 18, put h 14, put x 8, put o 4, put c 0] = _
    rw [word_cons, word_cons, word_cons, word_cons, word_cons, word_nil, put_eq, put_eq, put_eq, put_eq, put_eq]
  refine roundTrips_word rfl (by omega) fun e₁ he hw k₁ hk => ?_
  rw [e0]
  clear e0
  generalize hW : 0x5B000000 + v.toNat * 2 ^ 18 + h.toNat * 2 ^ 14 + x.toNat * 2 ^ 8 + o.toNat * 2 ^ 4 + c.toNat * 2 ^ 0 + k₁ * 2 ^ 31 = w₁
  have hm : w₁ / 2 ^ 24 % 128 = 0x5B := by omega
  have f0 : fld w₁ 18 6 = v := fld_eq (by omega)
  have f1 : fld w₁ 14 4 = h := fld_eq (by omega)
  have f2 : fld w₁ 8 6 = x := fld_eq (by omega)
  have f3 : fld w₁ 4 4 = o := fld_eq (by omega)
  have f4 : fld w₁ 0 4 = c := fld_eq (by omega)
  obtain rfl : e₁ = 0 := by simpa using (show (e₁ == 0) = true from he)
  rw [candidate_seq hm (by decide)]
  unfold seqOf
  rw [hm]
  show some (Instr.amoh64 (fld w₁ 18 6) (fld w₁ 14 4) (fld w₁ 8 6) (fld w₁ 4 4) (fld w₁ 0 4)) = _
  rw [f0, f1, f2, f3, f4]

theorem red32 (v : BitVec 6) (b : BitVec 4) (x : BitVec 6) (o : BitVec 4) (c : BitVec 4) : Statement (.red32 v b x o c) := by
  have h0 := v.isLt; have h1 := b.isLt; have h2 := x.isLt; have h3 := o.isLt; have h4 := c.isLt
  have e0 : encodeWord (.red32 v b x o c) = 0x5C000000 + v.toNat * 2 ^ 18 + b.toNat * 2 ^ 14 + x.toNat * 2 ^ 8 + o.toNat * 2 ^ 4 + c.toNat * 2 ^ 0 := by
    show word 0x5C000000 [put v 18, put b 14, put x 8, put o 4, put c 0] = _
    rw [word_cons, word_cons, word_cons, word_cons, word_cons, word_nil, put_eq, put_eq, put_eq, put_eq, put_eq]
  refine roundTrips_word rfl (by omega) fun e₁ he hw k₁ hk => ?_
  rw [e0]
  clear e0
  generalize hW : 0x5C000000 + v.toNat * 2 ^ 18 + b.toNat * 2 ^ 14 + x.toNat * 2 ^ 8 + o.toNat * 2 ^ 4 + c.toNat * 2 ^ 0 + k₁ * 2 ^ 31 = w₁
  have hm : w₁ / 2 ^ 24 % 128 = 0x5C := by omega
  have f0 : fld w₁ 18 6 = v := fld_eq (by omega)
  have f1 : fld w₁ 14 4 = b := fld_eq (by omega)
  have f2 : fld w₁ 8 6 = x := fld_eq (by omega)
  have f3 : fld w₁ 4 4 = o := fld_eq (by omega)
  have f4 : fld w₁ 0 4 = c := fld_eq (by omega)
  obtain rfl : e₁ = 0 := by simpa using (show (e₁ == 0) = true from he)
  rw [candidate_seq hm (by decide)]
  unfold seqOf
  rw [hm]
  show some (Instr.red32 (fld w₁ 18 6) (fld w₁ 14 4) (fld w₁ 8 6) (fld w₁ 4 4) (fld w₁ 0 4)) = _
  rw [f0, f1, f2, f3, f4]

theorem red64 (v : BitVec 6) (b : BitVec 4) (x : BitVec 6) (o : BitVec 4) (c : BitVec 4) : Statement (.red64 v b x o c) := by
  have h0 := v.isLt; have h1 := b.isLt; have h2 := x.isLt; have h3 := o.isLt; have h4 := c.isLt
  have e0 : encodeWord (.red64 v b x o c) = 0x5D000000 + v.toNat * 2 ^ 18 + b.toNat * 2 ^ 14 + x.toNat * 2 ^ 8 + o.toNat * 2 ^ 4 + c.toNat * 2 ^ 0 := by
    show word 0x5D000000 [put v 18, put b 14, put x 8, put o 4, put c 0] = _
    rw [word_cons, word_cons, word_cons, word_cons, word_cons, word_nil, put_eq, put_eq, put_eq, put_eq, put_eq]
  refine roundTrips_word rfl (by omega) fun e₁ he hw k₁ hk => ?_
  rw [e0]
  clear e0
  generalize hW : 0x5D000000 + v.toNat * 2 ^ 18 + b.toNat * 2 ^ 14 + x.toNat * 2 ^ 8 + o.toNat * 2 ^ 4 + c.toNat * 2 ^ 0 + k₁ * 2 ^ 31 = w₁
  have hm : w₁ / 2 ^ 24 % 128 = 0x5D := by omega
  have f0 : fld w₁ 18 6 = v := fld_eq (by omega)
  have f1 : fld w₁ 14 4 = b := fld_eq (by omega)
  have f2 : fld w₁ 8 6 = x := fld_eq (by omega)
  have f3 : fld w₁ 4 4 = o := fld_eq (by omega)
  have f4 : fld w₁ 0 4 = c := fld_eq (by omega)
  obtain rfl : e₁ = 0 := by simpa using (show (e₁ == 0) = true from he)
  rw [candidate_seq hm (by decide)]
  unfold seqOf
  rw [hm]
  show some (Instr.red64 (fld w₁ 18 6) (fld w₁ 14 4) (fld w₁ 8 6) (fld w₁ 4 4) (fld w₁ 0 4)) = _
  rw [f0, f1, f2, f3, f4]

theorem redh32 (v : BitVec 6) (h : BitVec 4) (x : BitVec 6) (o : BitVec 4) (c : BitVec 4) : Statement (.redh32 v h x o c) := by
  have h0 := v.isLt; have h1 := h.isLt; have h2 := x.isLt; have h3 := o.isLt; have h4 := c.isLt
  have e0 : encodeWord (.redh32 v h x o c) = 0x5E000000 + v.toNat * 2 ^ 18 + h.toNat * 2 ^ 14 + x.toNat * 2 ^ 8 + o.toNat * 2 ^ 4 + c.toNat * 2 ^ 0 := by
    show word 0x5E000000 [put v 18, put h 14, put x 8, put o 4, put c 0] = _
    rw [word_cons, word_cons, word_cons, word_cons, word_cons, word_nil, put_eq, put_eq, put_eq, put_eq, put_eq]
  refine roundTrips_word rfl (by omega) fun e₁ he hw k₁ hk => ?_
  rw [e0]
  clear e0
  generalize hW : 0x5E000000 + v.toNat * 2 ^ 18 + h.toNat * 2 ^ 14 + x.toNat * 2 ^ 8 + o.toNat * 2 ^ 4 + c.toNat * 2 ^ 0 + k₁ * 2 ^ 31 = w₁
  have hm : w₁ / 2 ^ 24 % 128 = 0x5E := by omega
  have f0 : fld w₁ 18 6 = v := fld_eq (by omega)
  have f1 : fld w₁ 14 4 = h := fld_eq (by omega)
  have f2 : fld w₁ 8 6 = x := fld_eq (by omega)
  have f3 : fld w₁ 4 4 = o := fld_eq (by omega)
  have f4 : fld w₁ 0 4 = c := fld_eq (by omega)
  obtain rfl : e₁ = 0 := by simpa using (show (e₁ == 0) = true from he)
  rw [candidate_seq hm (by decide)]
  unfold seqOf
  rw [hm]
  show some (Instr.redh32 (fld w₁ 18 6) (fld w₁ 14 4) (fld w₁ 8 6) (fld w₁ 4 4) (fld w₁ 0 4)) = _
  rw [f0, f1, f2, f3, f4]

theorem redh64 (v : BitVec 6) (h : BitVec 4) (x : BitVec 6) (o : BitVec 4) (c : BitVec 4) : Statement (.redh64 v h x o c) := by
  have h0 := v.isLt; have h1 := h.isLt; have h2 := x.isLt; have h3 := o.isLt; have h4 := c.isLt
  have e0 : encodeWord (.redh64 v h x o c) = 0x5F000000 + v.toNat * 2 ^ 18 + h.toNat * 2 ^ 14 + x.toNat * 2 ^ 8 + o.toNat * 2 ^ 4 + c.toNat * 2 ^ 0 := by
    show word 0x5F000000 [put v 18, put h 14, put x 8, put o 4, put c 0] = _
    rw [word_cons, word_cons, word_cons, word_cons, word_cons, word_nil, put_eq, put_eq, put_eq, put_eq, put_eq]
  refine roundTrips_word rfl (by omega) fun e₁ he hw k₁ hk => ?_
  rw [e0]
  clear e0
  generalize hW : 0x5F000000 + v.toNat * 2 ^ 18 + h.toNat * 2 ^ 14 + x.toNat * 2 ^ 8 + o.toNat * 2 ^ 4 + c.toNat * 2 ^ 0 + k₁ * 2 ^ 31 = w₁
  have hm : w₁ / 2 ^ 24 % 128 = 0x5F := by omega
  have f0 : fld w₁ 18 6 = v := fld_eq (by omega)
  have f1 : fld w₁ 14 4 = h := fld_eq (by omega)
  have f2 : fld w₁ 8 6 = x := fld_eq (by omega)
  have f3 : fld w₁ 4 4 = o := fld_eq (by omega)
  have f4 : fld w₁ 0 4 = c := fld_eq (by omega)
  obtain rfl : e₁ = 0 := by simpa using (show (e₁ == 0) = true from he)
  rw [candidate_seq hm (by decide)]
  unfold seqOf
  rw [hm]
  show some (Instr.redh64 (fld w₁ 18 6) (fld w₁ 14 4) (fld w₁ 8 6) (fld w₁ 4 4) (fld w₁ 0 4)) = _
  rw [f0, f1, f2, f3, f4]

theorem fence (k : BitVec 2) (p : BitVec 3) (m : BitVec 16) : Statement (.fence k p m) := by
  have h0 := k.isLt; have h1 := p.isLt; have h2 := m.isLt
  have e0 : encodeWord (.fence k p m) = 0x60000000 + k.toNat * 2 ^ 22 + p.toNat * 2 ^ 19 + m.toNat * 2 ^ 0 := by
    show word 0x60000000 [put k 22, put p 19, put m 0] = _
    rw [word_cons, word_cons, word_cons, word_nil, put_eq, put_eq, put_eq]
  refine roundTrips_word rfl (by omega) fun e₁ he hw k₁ hk => ?_
  rw [e0]
  clear e0
  generalize hW : 0x60000000 + k.toNat * 2 ^ 22 + p.toNat * 2 ^ 19 + m.toNat * 2 ^ 0 + k₁ * 2 ^ 31 = w₁
  have hm : w₁ / 2 ^ 24 % 128 = 0x60 := by omega
  have f0 : fld w₁ 22 2 = k := fld_eq (by omega)
  have f1 : fld w₁ 19 3 = p := fld_eq (by omega)
  have f2 : fld w₁ 0 16 = m := fld_eq (by omega)
  obtain rfl : e₁ = 0 := by simpa using (show (e₁ == 0) = true from he)
  rw [candidate_seq hm (by decide)]
  unfold seqOf
  rw [hm]
  show some (Instr.fence (fld w₁ 22 2) (fld w₁ 19 3) (fld w₁ 0 16)) = _
  rw [f0, f1, f2]

theorem publ (a : BitVec 6) : Statement (.publ a) := by
  have h0 := a.isLt
  have e0 : encodeWord (.publ a) = 0x61000000 + a.toNat * 2 ^ 12 := by
    show word 0x61000000 [put a 12] = _
    rw [word_cons, word_nil, put_eq]
  refine roundTrips_word rfl (by omega) fun e₁ he hw k₁ hk => ?_
  rw [e0]
  clear e0
  generalize hW : 0x61000000 + a.toNat * 2 ^ 12 + k₁ * 2 ^ 31 = w₁
  have hm : w₁ / 2 ^ 24 % 128 = 0x61 := by omega
  have f0 : fld w₁ 12 6 = a := fld_eq (by omega)
  obtain rfl : e₁ = 0 := by simpa using (show (e₁ == 0) = true from he)
  rw [candidate_seq hm (by decide)]
  unfold seqOf
  rw [hm]
  show some (Instr.publ (fld w₁ 12 6)) = _
  rw [f0]

theorem trn (d : BitVec 4) (a : BitVec 6) (p : BitVec 1) (k : BitVec 2) : Statement (.trn d a p k) := by
  have h0 := d.isLt; have h1 := a.isLt; have h2 := p.isLt; have h3 := k.isLt
  have e0 : encodeWord (.trn d a p k) = 0x62000000 + d.toNat * 2 ^ 20 + a.toNat * 2 ^ 14 + p.toNat * 2 ^ 13 + k.toNat * 2 ^ 11 := by
    show word 0x62000000 [put d 20, put a 14, put p 13, put k 11] = _
    rw [word_cons, word_cons, word_cons, word_cons, word_nil, put_eq, put_eq, put_eq, put_eq]
  refine roundTrips_word rfl (by omega) fun e₁ he hw k₁ hk => ?_
  rw [e0]
  clear e0
  generalize hW : 0x62000000 + d.toNat * 2 ^ 20 + a.toNat * 2 ^ 14 + p.toNat * 2 ^ 13 + k.toNat * 2 ^ 11 + k₁ * 2 ^ 31 = w₁
  have hm : w₁ / 2 ^ 24 % 128 = 0x62 := by omega
  have f0 : fld w₁ 20 4 = d := fld_eq (by omega)
  have f1 : fld w₁ 14 6 = a := fld_eq (by omega)
  have f2 : fld w₁ 13 1 = p := fld_eq (by omega)
  have f3 : fld w₁ 11 2 = k := fld_eq (by omega)
  obtain rfl : e₁ = 0 := by simpa using (show (e₁ == 0) = true from he)
  rw [candidate_seq hm (by decide)]
  unfold seqOf
  rw [hm]
  show some (Instr.trn (fld w₁ 20 4) (fld w₁ 14 6) (fld w₁ 13 1) (fld w₁ 11 2)) = _
  rw [f0, f1, f2, f3]

theorem hmov (d : BitVec 4) (a : BitVec 4) : Statement (.hmov d a) := by
  have h0 := d.isLt; have h1 := a.isLt
  have e0 : encodeWord (.hmov d a) = 0x63000000 + d.toNat * 2 ^ 18 + a.toNat * 2 ^ 12 := by
    show word 0x63000000 [put d 18, put a 12] = _
    rw [word_cons, word_cons, word_nil, put_eq, put_eq]
  refine roundTrips_word rfl (by omega) fun e₁ he hw k₁ hk => ?_
  rw [e0]
  clear e0
  generalize hW : 0x63000000 + d.toNat * 2 ^ 18 + a.toNat * 2 ^ 12 + k₁ * 2 ^ 31 = w₁
  have hm : w₁ / 2 ^ 24 % 128 = 0x63 := by omega
  have f0 : fld w₁ 18 4 = d := fld_eq (by omega)
  have f1 : fld w₁ 12 4 = a := fld_eq (by omega)
  obtain rfl : e₁ = 0 := by simpa using (show (e₁ == 0) = true from he)
  rw [candidate_seq hm (by decide)]
  rw [seqOf63_eq hm]
  have hs : w₁ % 64 = 0x00 := by omega
  unfold seqOf63
  rw [hs]
  show some (Instr.hmov (fld w₁ 18 4) (fld w₁ 12 4)) = _
  rw [f0, f1]

theorem hrd (d : BitVec 6) (a : BitVec 4) : Statement (.hrd d a) := by
  have h0 := d.isLt; have h1 := a.isLt
  have e0 : encodeWord (.hrd d a) = 0x63000001 + d.toNat * 2 ^ 18 + a.toNat * 2 ^ 12 := by
    show word 0x63000001 [put d 18, put a 12] = _
    rw [word_cons, word_cons, word_nil, put_eq, put_eq]
  refine roundTrips_word rfl (by omega) fun e₁ he hw k₁ hk => ?_
  rw [e0]
  clear e0
  generalize hW : 0x63000001 + d.toNat * 2 ^ 18 + a.toNat * 2 ^ 12 + k₁ * 2 ^ 31 = w₁
  have hm : w₁ / 2 ^ 24 % 128 = 0x63 := by omega
  have f0 : fld w₁ 18 6 = d := fld_eq (by omega)
  have f1 : fld w₁ 12 4 = a := fld_eq (by omega)
  obtain rfl : e₁ = 0 := by simpa using (show (e₁ == 0) = true from he)
  rw [candidate_seq hm (by decide)]
  rw [seqOf63_eq hm]
  have hs : w₁ % 64 = 0x01 := by omega
  unfold seqOf63
  rw [hs]
  show some (Instr.hrd (fld w₁ 18 6) (fld w₁ 12 4)) = _
  rw [f0, f1]

theorem hwr (d : BitVec 4) (a : BitVec 6) : Statement (.hwr d a) := by
  have h0 := d.isLt; have h1 := a.isLt
  have e0 : encodeWord (.hwr d a) = 0x63000002 + d.toNat * 2 ^ 18 + a.toNat * 2 ^ 12 := by
    show word 0x63000002 [put d 18, put a 12] = _
    rw [word_cons, word_cons, word_nil, put_eq, put_eq]
  refine roundTrips_word rfl (by omega) fun e₁ he hw k₁ hk => ?_
  rw [e0]
  clear e0
  generalize hW : 0x63000002 + d.toNat * 2 ^ 18 + a.toNat * 2 ^ 12 + k₁ * 2 ^ 31 = w₁
  have hm : w₁ / 2 ^ 24 % 128 = 0x63 := by omega
  have f0 : fld w₁ 18 4 = d := fld_eq (by omega)
  have f1 : fld w₁ 12 6 = a := fld_eq (by omega)
  obtain rfl : e₁ = 0 := by simpa using (show (e₁ == 0) = true from he)
  rw [candidate_seq hm (by decide)]
  rw [seqOf63_eq hm]
  have hs : w₁ % 64 = 0x02 := by omega
  unfold seqOf63
  rw [hs]
  show some (Instr.hwr (fld w₁ 18 4) (fld w₁ 12 6)) = _
  rw [f0, f1]

theorem hnarrow (d : BitVec 4) (a : BitVec 4) (b : BitVec 6) : Statement (.hnarrow d a b) := by
  have h0 := d.isLt; have h1 := a.isLt; have h2 := b.isLt
  have e0 : encodeWord (.hnarrow d a b) = 0x63000003 + d.toNat * 2 ^ 18 + a.toNat * 2 ^ 12 + b.toNat * 2 ^ 6 := by
    show word 0x63000003 [put d 18, put a 12, put b 6] = _
    rw [word_cons, word_cons, word_cons, word_nil, put_eq, put_eq, put_eq]
  refine roundTrips_word rfl (by omega) fun e₁ he hw k₁ hk => ?_
  rw [e0]
  clear e0
  generalize hW : 0x63000003 + d.toNat * 2 ^ 18 + a.toNat * 2 ^ 12 + b.toNat * 2 ^ 6 + k₁ * 2 ^ 31 = w₁
  have hm : w₁ / 2 ^ 24 % 128 = 0x63 := by omega
  have f0 : fld w₁ 18 4 = d := fld_eq (by omega)
  have f1 : fld w₁ 12 4 = a := fld_eq (by omega)
  have f2 : fld w₁ 6 6 = b := fld_eq (by omega)
  obtain rfl : e₁ = 0 := by simpa using (show (e₁ == 0) = true from he)
  rw [candidate_seq hm (by decide)]
  rw [seqOf63_eq hm]
  have hs : w₁ % 64 = 0x03 := by omega
  unfold seqOf63
  rw [hs]
  show some (Instr.hnarrow (fld w₁ 18 4) (fld w₁ 12 4) (fld w₁ 6 6)) = _
  rw [f0, f1, f2]

theorem hrev (a : BitVec 4) : Statement (.hrev a) := by
  have h0 := a.isLt
  have e0 : encodeWord (.hrev a) = 0x63000004 + a.toNat * 2 ^ 12 := by
    show word 0x63000004 [put a 12] = _
    rw [word_cons, word_nil, put_eq]
  refine roundTrips_word rfl (by omega) fun e₁ he hw k₁ hk => ?_
  rw [e0]
  clear e0
  generalize hW : 0x63000004 + a.toNat * 2 ^ 12 + k₁ * 2 ^ 31 = w₁
  have hm : w₁ / 2 ^ 24 % 128 = 0x63 := by omega
  have f0 : fld w₁ 12 4 = a := fld_eq (by omega)
  obtain rfl : e₁ = 0 := by simpa using (show (e₁ == 0) = true from he)
  rw [candidate_seq hm (by decide)]
  rw [seqOf63_eq hm]
  have hs : w₁ % 64 = 0x04 := by omega
  unfold seqOf63
  rw [hs]
  show some (Instr.hrev (fld w₁ 12 4)) = _
  rw [f0]

theorem rclaim (d : BitVec 6) (b : BitVec 6) (x : BitVec 6) : Statement (.rclaim d b x) := by
  have h0 := d.isLt; have h1 := b.isLt; have h2 := x.isLt
  have e0 : encodeWord (.rclaim d b x) = 0x64000000 + d.toNat * 2 ^ 18 + b.toNat * 2 ^ 12 + x.toNat * 2 ^ 6 := by
    show word 0x64000000 [put d 18, put b 12, put x 6] = _
    rw [word_cons, word_cons, word_cons, word_nil, put_eq, put_eq, put_eq]
  refine roundTrips_word rfl (by omega) fun e₁ he hw k₁ hk => ?_
  rw [e0]
  clear e0
  generalize hW : 0x64000000 + d.toNat * 2 ^ 18 + b.toNat * 2 ^ 12 + x.toNat * 2 ^ 6 + k₁ * 2 ^ 31 = w₁
  have hm : w₁ / 2 ^ 24 % 128 = 0x64 := by omega
  have f0 : fld w₁ 18 6 = d := fld_eq (by omega)
  have f1 : fld w₁ 12 6 = b := fld_eq (by omega)
  have f2 : fld w₁ 6 6 = x := fld_eq (by omega)
  obtain rfl : e₁ = 0 := by simpa using (show (e₁ == 0) = true from he)
  rw [candidate_seq hm (by decide)]
  rw [seqOf64_eq hm]
  have hs : w₁ % 64 = 0x00 := by omega
  unfold seqOf64
  rw [hs]
  show some (Instr.rclaim (fld w₁ 18 6) (fld w₁ 12 6) (fld w₁ 6 6)) = _
  rw [f0, f1, f2]

theorem rcommit (b : BitVec 6) (x : BitVec 6) : Statement (.rcommit b x) := by
  have h0 := b.isLt; have h1 := x.isLt
  have e0 : encodeWord (.rcommit b x) = 0x64000001 + b.toNat * 2 ^ 12 + x.toNat * 2 ^ 6 := by
    show word 0x64000001 [put b 12, put x 6] = _
    rw [word_cons, word_cons, word_nil, put_eq, put_eq]
  refine roundTrips_word rfl (by omega) fun e₁ he hw k₁ hk => ?_
  rw [e0]
  clear e0
  generalize hW : 0x64000001 + b.toNat * 2 ^ 12 + x.toNat * 2 ^ 6 + k₁ * 2 ^ 31 = w₁
  have hm : w₁ / 2 ^ 24 % 128 = 0x64 := by omega
  have f0 : fld w₁ 12 6 = b := fld_eq (by omega)
  have f1 : fld w₁ 6 6 = x := fld_eq (by omega)
  obtain rfl : e₁ = 0 := by simpa using (show (e₁ == 0) = true from he)
  rw [candidate_seq hm (by decide)]
  rw [seqOf64_eq hm]
  have hs : w₁ % 64 = 0x01 := by omega
  unfold seqOf64
  rw [hs]
  show some (Instr.rcommit (fld w₁ 12 6) (fld w₁ 6 6)) = _
  rw [f0, f1]

theorem rwaitf (b : BitVec 6) (x : BitVec 6) : Statement (.rwaitf b x) := by
  have h0 := b.isLt; have h1 := x.isLt
  have e0 : encodeWord (.rwaitf b x) = 0x64000002 + b.toNat * 2 ^ 12 + x.toNat * 2 ^ 6 := by
    show word 0x64000002 [put b 12, put x 6] = _
    rw [word_cons, word_cons, word_nil, put_eq, put_eq]
  refine roundTrips_word rfl (by omega) fun e₁ he hw k₁ hk => ?_
  rw [e0]
  clear e0
  generalize hW : 0x64000002 + b.toNat * 2 ^ 12 + x.toNat * 2 ^ 6 + k₁ * 2 ^ 31 = w₁
  have hm : w₁ / 2 ^ 24 % 128 = 0x64 := by omega
  have f0 : fld w₁ 12 6 = b := fld_eq (by omega)
  have f1 : fld w₁ 6 6 = x := fld_eq (by omega)
  obtain rfl : e₁ = 0 := by simpa using (show (e₁ == 0) = true from he)
  rw [candidate_seq hm (by decide)]
  rw [seqOf64_eq hm]
  have hs : w₁ % 64 = 0x02 := by omega
  unfold seqOf64
  rw [hs]
  show some (Instr.rwaitf (fld w₁ 12 6) (fld w₁ 6 6)) = _
  rw [f0, f1]

theorem rwaite (b : BitVec 6) (x : BitVec 6) : Statement (.rwaite b x) := by
  have h0 := b.isLt; have h1 := x.isLt
  have e0 : encodeWord (.rwaite b x) = 0x64000003 + b.toNat * 2 ^ 12 + x.toNat * 2 ^ 6 := by
    show word 0x64000003 [put b 12, put x 6] = _
    rw [word_cons, word_cons, word_nil, put_eq, put_eq]
  refine roundTrips_word rfl (by omega) fun e₁ he hw k₁ hk => ?_
  rw [e0]
  clear e0
  generalize hW : 0x64000003 + b.toNat * 2 ^ 12 + x.toNat * 2 ^ 6 + k₁ * 2 ^ 31 = w₁
  have hm : w₁ / 2 ^ 24 % 128 = 0x64 := by omega
  have f0 : fld w₁ 12 6 = b := fld_eq (by omega)
  have f1 : fld w₁ 6 6 = x := fld_eq (by omega)
  obtain rfl : e₁ = 0 := by simpa using (show (e₁ == 0) = true from he)
  rw [candidate_seq hm (by decide)]
  rw [seqOf64_eq hm]
  have hs : w₁ % 64 = 0x03 := by omega
  unfold seqOf64
  rw [hs]
  show some (Instr.rwaite (fld w₁ 12 6) (fld w₁ 6 6)) = _
  rw [f0, f1]

theorem rrel (b : BitVec 6) (x : BitVec 6) : Statement (.rrel b x) := by
  have h0 := b.isLt; have h1 := x.isLt
  have e0 : encodeWord (.rrel b x) = 0x64000004 + b.toNat * 2 ^ 12 + x.toNat * 2 ^ 6 := by
    show word 0x64000004 [put b 12, put x 6] = _
    rw [word_cons, word_cons, word_nil, put_eq, put_eq]
  refine roundTrips_word rfl (by omega) fun e₁ he hw k₁ hk => ?_
  rw [e0]
  clear e0
  generalize hW : 0x64000004 + b.toNat * 2 ^ 12 + x.toNat * 2 ^ 6 + k₁ * 2 ^ 31 = w₁
  have hm : w₁ / 2 ^ 24 % 128 = 0x64 := by omega
  have f0 : fld w₁ 12 6 = b := fld_eq (by omega)
  have f1 : fld w₁ 6 6 = x := fld_eq (by omega)
  obtain rfl : e₁ = 0 := by simpa using (show (e₁ == 0) = true from he)
  rw [candidate_seq hm (by decide)]
  rw [seqOf64_eq hm]
  have hs : w₁ % 64 = 0x04 := by omega
  unfold seqOf64
  rw [hs]
  show some (Instr.rrel (fld w₁ 12 6) (fld w₁ 6 6)) = _
  rw [f0, f1]

theorem rtail (d : BitVec 6) (b : BitVec 6) : Statement (.rtail d b) := by
  have h0 := d.isLt; have h1 := b.isLt
  have e0 : encodeWord (.rtail d b) = 0x64000005 + d.toNat * 2 ^ 18 + b.toNat * 2 ^ 12 := by
    show word 0x64000005 [put d 18, put b 12] = _
    rw [word_cons, word_cons, word_nil, put_eq, put_eq]
  refine roundTrips_word rfl (by omega) fun e₁ he hw k₁ hk => ?_
  rw [e0]
  clear e0
  generalize hW : 0x64000005 + d.toNat * 2 ^ 18 + b.toNat * 2 ^ 12 + k₁ * 2 ^ 31 = w₁
  have hm : w₁ / 2 ^ 24 % 128 = 0x64 := by omega
  have f0 : fld w₁ 18 6 = d := fld_eq (by omega)
  have f1 : fld w₁ 12 6 = b := fld_eq (by omega)
  obtain rfl : e₁ = 0 := by simpa using (show (e₁ == 0) = true from he)
  rw [candidate_seq hm (by decide)]
  rw [seqOf64_eq hm]
  have hs : w₁ % 64 = 0x05 := by omega
  unfold seqOf64
  rw [hs]
  show some (Instr.rtail (fld w₁ 18 6) (fld w₁ 12 6)) = _
  rw [f0, f1]

theorem cpush (b : BitVec 6) (x : BitVec 6) : Statement (.cpush b x) := by
  have h0 := b.isLt; have h1 := x.isLt
  have e0 : encodeWord (.cpush b x) = 0x65000000 + b.toNat * 2 ^ 12 + x.toNat * 2 ^ 6 := by
    show word 0x65000000 [put b 12, put x 6] = _
    rw [word_cons, word_cons, word_nil, put_eq, put_eq]
  refine roundTrips_word rfl (by omega) fun e₁ he hw k₁ hk => ?_
  rw [e0]
  clear e0
  generalize hW : 0x65000000 + b.toNat * 2 ^ 12 + x.toNat * 2 ^ 6 + k₁ * 2 ^ 31 = w₁
  have hm : w₁ / 2 ^ 24 % 128 = 0x65 := by omega
  have f0 : fld w₁ 12 6 = b := fld_eq (by omega)
  have f1 : fld w₁ 6 6 = x := fld_eq (by omega)
  obtain rfl : e₁ = 0 := by simpa using (show (e₁ == 0) = true from he)
  rw [candidate_seq hm (by decide)]
  unfold seqOf
  rw [hm]
  show some (Instr.cpush (fld w₁ 12 6) (fld w₁ 6 6)) = _
  rw [f0, f1]

theorem qpush (a : BitVec 6) (q : BitVec 3) : Statement (.qpush a q) := by
  have h0 := a.isLt; have h1 := q.isLt
  have e0 : encodeWord (.qpush a q) = 0x66000000 + a.toNat * 2 ^ 18 + q.toNat * 2 ^ 15 := by
    show word 0x66000000 [put a 18, put q 15] = _
    rw [word_cons, word_cons, word_nil, put_eq, put_eq]
  refine roundTrips_word rfl (by omega) fun e₁ he hw k₁ hk => ?_
  rw [e0]
  clear e0
  generalize hW : 0x66000000 + a.toNat * 2 ^ 18 + q.toNat * 2 ^ 15 + k₁ * 2 ^ 31 = w₁
  have hm : w₁ / 2 ^ 24 % 128 = 0x66 := by omega
  have f0 : fld w₁ 18 6 = a := fld_eq (by omega)
  have f1 : fld w₁ 15 3 = q := fld_eq (by omega)
  obtain rfl : e₁ = 0 := by simpa using (show (e₁ == 0) = true from he)
  rw [candidate_seq hm (by decide)]
  unfold seqOf
  rw [hm]
  show some (Instr.qpush (fld w₁ 18 6) (fld w₁ 15 3)) = _
  rw [f0, f1]

theorem qpop (d : BitVec 6) (q : BitVec 3) : Statement (.qpop d q) := by
  have h0 := d.isLt; have h1 := q.isLt
  have e0 : encodeWord (.qpop d q) = 0x67000000 + d.toNat * 2 ^ 18 + q.toNat * 2 ^ 15 := by
    show word 0x67000000 [put d 18, put q 15] = _
    rw [word_cons, word_cons, word_nil, put_eq, put_eq]
  refine roundTrips_word rfl (by omega) fun e₁ he hw k₁ hk => ?_
  rw [e0]
  clear e0
  generalize hW : 0x67000000 + d.toNat * 2 ^ 18 + q.toNat * 2 ^ 15 + k₁ * 2 ^ 31 = w₁
  have hm : w₁ / 2 ^ 24 % 128 = 0x67 := by omega
  have f0 : fld w₁ 18 6 = d := fld_eq (by omega)
  have f1 : fld w₁ 15 3 = q := fld_eq (by omega)
  obtain rfl : e₁ = 0 := by simpa using (show (e₁ == 0) = true from he)
  rw [candidate_seq hm (by decide)]
  unfold seqOf
  rw [hm]
  show some (Instr.qpop (fld w₁ 18 6) (fld w₁ 15 3)) = _
  rw [f0, f1]

theorem bqpush (a : BitVec 6) : Statement (.bqpush a) := by
  have h0 := a.isLt
  have e0 : encodeWord (.bqpush a) = 0x68000000 + a.toNat * 2 ^ 18 := by
    show word 0x68000000 [put a 18] = _
    rw [word_cons, word_nil, put_eq]
  refine roundTrips_word rfl (by omega) fun e₁ he hw k₁ hk => ?_
  rw [e0]
  clear e0
  generalize hW : 0x68000000 + a.toNat * 2 ^ 18 + k₁ * 2 ^ 31 = w₁
  have hm : w₁ / 2 ^ 24 % 128 = 0x68 := by omega
  have f0 : fld w₁ 18 6 = a := fld_eq (by omega)
  obtain rfl : e₁ = 0 := by simpa using (show (e₁ == 0) = true from he)
  rw [candidate_seq hm (by decide)]
  unfold seqOf
  rw [hm]
  show some (Instr.bqpush (fld w₁ 18 6)) = _
  rw [f0]

theorem park (a : BitVec 6) (b : BitVec 6) (c : BitVec 4) : Statement (.park a b c) := by
  have h0 := a.isLt; have h1 := b.isLt; have h2 := c.isLt
  have e0 : encodeWord (.park a b c) = 0x69000000 + a.toNat * 2 ^ 12 + b.toNat * 2 ^ 6 + c.toNat * 2 ^ 0 := by
    show word 0x69000000 [put a 12, put b 6, put c 0] = _
    rw [word_cons, word_cons, word_cons, word_nil, put_eq, put_eq, put_eq]
  refine roundTrips_word rfl (by omega) fun e₁ he hw k₁ hk => ?_
  rw [e0]
  clear e0
  generalize hW : 0x69000000 + a.toNat * 2 ^ 12 + b.toNat * 2 ^ 6 + c.toNat * 2 ^ 0 + k₁ * 2 ^ 31 = w₁
  have hm : w₁ / 2 ^ 24 % 128 = 0x69 := by omega
  have f0 : fld w₁ 12 6 = a := fld_eq (by omega)
  have f1 : fld w₁ 6 6 = b := fld_eq (by omega)
  have f2 : fld w₁ 0 4 = c := fld_eq (by omega)
  obtain rfl : e₁ = 0 := by simpa using (show (e₁ == 0) = true from he)
  rw [candidate_seq hm (by decide)]
  unfold seqOf
  rw [hm]
  show some (Instr.park (fld w₁ 12 6) (fld w₁ 6 6) (fld w₁ 0 4)) = _
  rw [f0, f1, f2]

theorem mlease (n : BitVec 7) : Statement (.mlease n) := by
  have h0 := n.isLt
  have e0 : encodeWord (.mlease n) = 0x6A000000 + n.toNat * 2 ^ 15 := by
    show word 0x6A000000 [put n 15] = _
    rw [word_cons, word_nil, put_eq]
  refine roundTrips_word rfl (by omega) fun e₁ he hw k₁ hk => ?_
  rw [e0]
  clear e0
  generalize hW : 0x6A000000 + n.toNat * 2 ^ 15 + k₁ * 2 ^ 31 = w₁
  have hm : w₁ / 2 ^ 24 % 128 = 0x6A := by omega
  have f0 : fld w₁ 15 7 = n := fld_eq (by omega)
  obtain rfl : e₁ = 0 := by simpa using (show (e₁ == 0) = true from he)
  rw [candidate_seq hm (by decide)]
  rw [seqOf6A_eq hm]
  have hs : w₁ / 2 ^ 22 % 4 = 0x00 := by omega
  unfold seqOf6A
  rw [hs]
  show some (Instr.mlease (fld w₁ 15 7)) = _
  rw [f0]

theorem slease (n : BitVec 7) : Statement (.slease n) := by
  have h0 := n.isLt
  have e0 : encodeWord (.slease n) = 0x6A800000 + n.toNat * 2 ^ 15 := by
    show word 0x6A800000 [put n 15] = _
    rw [word_cons, word_nil, put_eq]
  refine roundTrips_word rfl (by omega) fun e₁ he hw k₁ hk => ?_
  rw [e0]
  clear e0
  generalize hW : 0x6A800000 + n.toNat * 2 ^ 15 + k₁ * 2 ^ 31 = w₁
  have hm : w₁ / 2 ^ 24 % 128 = 0x6A := by omega
  have f0 : fld w₁ 15 7 = n := fld_eq (by omega)
  obtain rfl : e₁ = 0 := by simpa using (show (e₁ == 0) = true from he)
  rw [candidate_seq hm (by decide)]
  rw [seqOf6A_eq hm]
  have hs : w₁ / 2 ^ 22 % 4 = 0x02 := by omega
  unfold seqOf6A
  rw [hs]
  show some (Instr.slease (fld w₁ 15 7)) = _
  rw [f0]

theorem rand (d : BitVec 6) (a : BitVec 6) : Statement (.rand d a) := by
  have h0 := d.isLt; have h1 := a.isLt
  have e0 : encodeWord (.rand d a) = 0x6B000000 + d.toNat * 2 ^ 18 + a.toNat * 2 ^ 12 := by
    show word 0x6B000000 [put d 18, put a 12] = _
    rw [word_cons, word_cons, word_nil, put_eq, put_eq]
  refine roundTrips_word rfl (by omega) fun e₁ he hw k₁ hk => ?_
  rw [e0]
  clear e0
  generalize hW : 0x6B000000 + d.toNat * 2 ^ 18 + a.toNat * 2 ^ 12 + k₁ * 2 ^ 31 = w₁
  have hm : w₁ / 2 ^ 24 % 128 = 0x6B := by omega
  have f0 : fld w₁ 18 6 = d := fld_eq (by omega)
  have f1 : fld w₁ 12 6 = a := fld_eq (by omega)
  obtain rfl : e₁ = 0 := by simpa using (show (e₁ == 0) = true from he)
  rw [candidate_seq hm (by decide)]
  unfold seqOf
  rw [hm]
  show some (Instr.rand (fld w₁ 18 6) (fld w₁ 12 6)) = _
  rw [f0, f1]

theorem frmLd (d : BitVec 6) (a : BitVec 6) (b : BitVec 6) : Statement (.frmLd d a b) := by
  have h0 := d.isLt; have h1 := a.isLt; have h2 := b.isLt
  have e0 : encodeWord (.frmLd d a b) = 0x6C000000 + d.toNat * 2 ^ 18 + a.toNat * 2 ^ 12 + b.toNat * 2 ^ 6 := by
    show word 0x6C000000 [put d 18, put a 12, put b 6] = _
    rw [word_cons, word_cons, word_cons, word_nil, put_eq, put_eq, put_eq]
  refine roundTrips_word rfl (by omega) fun e₁ he hw k₁ hk => ?_
  rw [e0]
  clear e0
  generalize hW : 0x6C000000 + d.toNat * 2 ^ 18 + a.toNat * 2 ^ 12 + b.toNat * 2 ^ 6 + k₁ * 2 ^ 31 = w₁
  have hm : w₁ / 2 ^ 24 % 128 = 0x6C := by omega
  have f0 : fld w₁ 18 6 = d := fld_eq (by omega)
  have f1 : fld w₁ 12 6 = a := fld_eq (by omega)
  have f2 : fld w₁ 6 6 = b := fld_eq (by omega)
  obtain rfl : e₁ = 0 := by simpa using (show (e₁ == 0) = true from he)
  rw [candidate_seq hm (by decide)]
  rw [seqOf6C_eq hm]
  have hs : w₁ % 64 = 0x00 := by omega
  unfold seqOf6C
  rw [hs]
  show some (Instr.frmLd (fld w₁ 18 6) (fld w₁ 12 6) (fld w₁ 6 6)) = _
  rw [f0, f1, f2]

theorem frmSt (d : BitVec 6) (a : BitVec 6) (b : BitVec 6) : Statement (.frmSt d a b) := by
  have h0 := d.isLt; have h1 := a.isLt; have h2 := b.isLt
  have e0 : encodeWord (.frmSt d a b) = 0x6C000001 + d.toNat * 2 ^ 18 + a.toNat * 2 ^ 12 + b.toNat * 2 ^ 6 := by
    show word 0x6C000001 [put d 18, put a 12, put b 6] = _
    rw [word_cons, word_cons, word_cons, word_nil, put_eq, put_eq, put_eq]
  refine roundTrips_word rfl (by omega) fun e₁ he hw k₁ hk => ?_
  rw [e0]
  clear e0
  generalize hW : 0x6C000001 + d.toNat * 2 ^ 18 + a.toNat * 2 ^ 12 + b.toNat * 2 ^ 6 + k₁ * 2 ^ 31 = w₁
  have hm : w₁ / 2 ^ 24 % 128 = 0x6C := by omega
  have f0 : fld w₁ 18 6 = d := fld_eq (by omega)
  have f1 : fld w₁ 12 6 = a := fld_eq (by omega)
  have f2 : fld w₁ 6 6 = b := fld_eq (by omega)
  obtain rfl : e₁ = 0 := by simpa using (show (e₁ == 0) = true from he)
  rw [candidate_seq hm (by decide)]
  rw [seqOf6C_eq hm]
  have hs : w₁ % 64 = 0x01 := by omega
  unfold seqOf6C
  rw [hs]
  show some (Instr.frmSt (fld w₁ 18 6) (fld w₁ 12 6) (fld w₁ 6 6)) = _
  rw [f0, f1, f2]

theorem frmSnap (d : BitVec 6) (a : BitVec 6) (b : BitVec 6) : Statement (.frmSnap d a b) := by
  have h0 := d.isLt; have h1 := a.isLt; have h2 := b.isLt
  have e0 : encodeWord (.frmSnap d a b) = 0x6C000002 + d.toNat * 2 ^ 18 + a.toNat * 2 ^ 12 + b.toNat * 2 ^ 6 := by
    show word 0x6C000002 [put d 18, put a 12, put b 6] = _
    rw [word_cons, word_cons, word_cons, word_nil, put_eq, put_eq, put_eq]
  refine roundTrips_word rfl (by omega) fun e₁ he hw k₁ hk => ?_
  rw [e0]
  clear e0
  generalize hW : 0x6C000002 + d.toNat * 2 ^ 18 + a.toNat * 2 ^ 12 + b.toNat * 2 ^ 6 + k₁ * 2 ^ 31 = w₁
  have hm : w₁ / 2 ^ 24 % 128 = 0x6C := by omega
  have f0 : fld w₁ 18 6 = d := fld_eq (by omega)
  have f1 : fld w₁ 12 6 = a := fld_eq (by omega)
  have f2 : fld w₁ 6 6 = b := fld_eq (by omega)
  obtain rfl : e₁ = 0 := by simpa using (show (e₁ == 0) = true from he)
  rw [candidate_seq hm (by decide)]
  rw [seqOf6C_eq hm]
  have hs : w₁ % 64 = 0x02 := by omega
  unfold seqOf6C
  rw [hs]
  show some (Instr.frmSnap (fld w₁ 18 6) (fld w₁ 12 6) (fld w₁ 6 6)) = _
  rw [f0, f1, f2]

theorem frmFork (d : BitVec 6) (a : BitVec 6) : Statement (.frmFork d a) := by
  have h0 := d.isLt; have h1 := a.isLt
  have e0 : encodeWord (.frmFork d a) = 0x6C000003 + d.toNat * 2 ^ 18 + a.toNat * 2 ^ 12 := by
    show word 0x6C000003 [put d 18, put a 12] = _
    rw [word_cons, word_cons, word_nil, put_eq, put_eq]
  refine roundTrips_word rfl (by omega) fun e₁ he hw k₁ hk => ?_
  rw [e0]
  clear e0
  generalize hW : 0x6C000003 + d.toNat * 2 ^ 18 + a.toNat * 2 ^ 12 + k₁ * 2 ^ 31 = w₁
  have hm : w₁ / 2 ^ 24 % 128 = 0x6C := by omega
  have f0 : fld w₁ 18 6 = d := fld_eq (by omega)
  have f1 : fld w₁ 12 6 = a := fld_eq (by omega)
  obtain rfl : e₁ = 0 := by simpa using (show (e₁ == 0) = true from he)
  rw [candidate_seq hm (by decide)]
  rw [seqOf6C_eq hm]
  have hs : w₁ % 64 = 0x03 := by omega
  unfold seqOf6C
  rw [hs]
  show some (Instr.frmFork (fld w₁ 18 6) (fld w₁ 12 6)) = _
  rw [f0, f1]

theorem frmRbk (d : BitVec 6) (a : BitVec 6) (b : BitVec 6) : Statement (.frmRbk d a b) := by
  have h0 := d.isLt; have h1 := a.isLt; have h2 := b.isLt
  have e0 : encodeWord (.frmRbk d a b) = 0x6C000004 + d.toNat * 2 ^ 18 + a.toNat * 2 ^ 12 + b.toNat * 2 ^ 6 := by
    show word 0x6C000004 [put d 18, put a 12, put b 6] = _
    rw [word_cons, word_cons, word_cons, word_nil, put_eq, put_eq, put_eq]
  refine roundTrips_word rfl (by omega) fun e₁ he hw k₁ hk => ?_
  rw [e0]
  clear e0
  generalize hW : 0x6C000004 + d.toNat * 2 ^ 18 + a.toNat * 2 ^ 12 + b.toNat * 2 ^ 6 + k₁ * 2 ^ 31 = w₁
  have hm : w₁ / 2 ^ 24 % 128 = 0x6C := by omega
  have f0 : fld w₁ 18 6 = d := fld_eq (by omega)
  have f1 : fld w₁ 12 6 = a := fld_eq (by omega)
  have f2 : fld w₁ 6 6 = b := fld_eq (by omega)
  obtain rfl : e₁ = 0 := by simpa using (show (e₁ == 0) = true from he)
  rw [candidate_seq hm (by decide)]
  rw [seqOf6C_eq hm]
  have hs : w₁ % 64 = 0x04 := by omega
  unfold seqOf6C
  rw [hs]
  show some (Instr.frmRbk (fld w₁ 18 6) (fld w₁ 12 6) (fld w₁ 6 6)) = _
  rw [f0, f1, f2]

theorem frmFind (d : BitVec 6) (a : BitVec 6) : Statement (.frmFind d a) := by
  have h0 := d.isLt; have h1 := a.isLt
  have e0 : encodeWord (.frmFind d a) = 0x6C000005 + d.toNat * 2 ^ 18 + a.toNat * 2 ^ 12 := by
    show word 0x6C000005 [put d 18, put a 12] = _
    rw [word_cons, word_cons, word_nil, put_eq, put_eq]
  refine roundTrips_word rfl (by omega) fun e₁ he hw k₁ hk => ?_
  rw [e0]
  clear e0
  generalize hW : 0x6C000005 + d.toNat * 2 ^ 18 + a.toNat * 2 ^ 12 + k₁ * 2 ^ 31 = w₁
  have hm : w₁ / 2 ^ 24 % 128 = 0x6C := by omega
  have f0 : fld w₁ 18 6 = d := fld_eq (by omega)
  have f1 : fld w₁ 12 6 = a := fld_eq (by omega)
  obtain rfl : e₁ = 0 := by simpa using (show (e₁ == 0) = true from he)
  rw [candidate_seq hm (by decide)]
  rw [seqOf6C_eq hm]
  have hs : w₁ % 64 = 0x05 := by omega
  unfold seqOf6C
  rw [hs]
  show some (Instr.frmFind (fld w₁ 18 6) (fld w₁ 12 6)) = _
  rw [f0, f1]

theorem frmFindv (d : BitVec 6) (a : BitVec 6) (b : BitVec 6) : Statement (.frmFindv d a b) := by
  have h0 := d.isLt; have h1 := a.isLt; have h2 := b.isLt
  have e0 : encodeWord (.frmFindv d a b) = 0x6C000006 + d.toNat * 2 ^ 18 + a.toNat * 2 ^ 12 + b.toNat * 2 ^ 6 := by
    show word 0x6C000006 [put d 18, put a 12, put b 6] = _
    rw [word_cons, word_cons, word_cons, word_nil, put_eq, put_eq, put_eq]
  refine roundTrips_word rfl (by omega) fun e₁ he hw k₁ hk => ?_
  rw [e0]
  clear e0
  generalize hW : 0x6C000006 + d.toNat * 2 ^ 18 + a.toNat * 2 ^ 12 + b.toNat * 2 ^ 6 + k₁ * 2 ^ 31 = w₁
  have hm : w₁ / 2 ^ 24 % 128 = 0x6C := by omega
  have f0 : fld w₁ 18 6 = d := fld_eq (by omega)
  have f1 : fld w₁ 12 6 = a := fld_eq (by omega)
  have f2 : fld w₁ 6 6 = b := fld_eq (by omega)
  obtain rfl : e₁ = 0 := by simpa using (show (e₁ == 0) = true from he)
  rw [candidate_seq hm (by decide)]
  rw [seqOf6C_eq hm]
  have hs : w₁ % 64 = 0x06 := by omega
  unfold seqOf6C
  rw [hs]
  show some (Instr.frmFindv (fld w₁ 18 6) (fld w₁ 12 6) (fld w₁ 6 6)) = _
  rw [f0, f1, f2]

theorem csrr (d : BitVec 6) (n : BitVec 12) : Statement (.csrr d n) := by
  have h0 := d.isLt; have h1 := n.isLt
  have e0 : encodeWord (.csrr d n) = 0x6D000000 + d.toNat * 2 ^ 18 + n.toNat * 2 ^ 6 := by
    show word 0x6D000000 [put d 18, put n 6] = _
    rw [word_cons, word_cons, word_nil, put_eq, put_eq]
  refine roundTrips_word rfl (by omega) fun e₁ he hw k₁ hk => ?_
  rw [e0]
  clear e0
  generalize hW : 0x6D000000 + d.toNat * 2 ^ 18 + n.toNat * 2 ^ 6 + k₁ * 2 ^ 31 = w₁
  have hm : w₁ / 2 ^ 24 % 128 = 0x6D := by omega
  have f0 : fld w₁ 18 6 = d := fld_eq (by omega)
  have f1 : fld w₁ 6 12 = n := fld_eq (by omega)
  obtain rfl : e₁ = 0 := by simpa using (show (e₁ == 0) = true from he)
  rw [candidate_seq hm (by decide)]
  unfold seqOf
  rw [hm]
  show some (Instr.csrr (fld w₁ 18 6) (fld w₁ 6 12)) = _
  rw [f0, f1]

theorem csrw (a : BitVec 6) (n : BitVec 12) : Statement (.csrw a n) := by
  have h0 := a.isLt; have h1 := n.isLt
  have e0 : encodeWord (.csrw a n) = 0x6E000000 + a.toNat * 2 ^ 18 + n.toNat * 2 ^ 6 := by
    show word 0x6E000000 [put a 18, put n 6] = _
    rw [word_cons, word_cons, word_nil, put_eq, put_eq]
  refine roundTrips_word rfl (by omega) fun e₁ he hw k₁ hk => ?_
  rw [e0]
  clear e0
  generalize hW : 0x6E000000 + a.toNat * 2 ^ 18 + n.toNat * 2 ^ 6 + k₁ * 2 ^ 31 = w₁
  have hm : w₁ / 2 ^ 24 % 128 = 0x6E := by omega
  have f0 : fld w₁ 18 6 = a := fld_eq (by omega)
  have f1 : fld w₁ 6 12 = n := fld_eq (by omega)
  obtain rfl : e₁ = 0 := by simpa using (show (e₁ == 0) = true from he)
  rw [candidate_seq hm (by decide)]
  rw [csrwOf_eq hm]
  have hs : w₁ / 2 ^ 6 % 4096 = n.toNat := by omega
  have hn : Machine.hasOwnWrite n.toNat = false := by
    have := (Bool.and_eq_true_iff.mp (show ((Machine.sysReg n.toNat).isSome && !Machine.hasOwnWrite n.toNat) = true from hw)).2
    simpa using this
  unfold csrwOf
  rw [hs]
  split
  iterate 9 · rename_i h; rw [h] at hn; exact absurd hn (by decide)
  show some (Instr.csrw (fld w₁ 18 6) (fld w₁ 6 12)) = _
  rw [f0, f1]

theorem cntr (d : BitVec 6) (n : BitVec 12) : Statement (.cntr d n) := by
  have h0 := d.isLt; have h1 := n.isLt
  have e0 : encodeWord (.cntr d n) = 0x6F000000 + d.toNat * 2 ^ 18 + n.toNat * 2 ^ 6 := by
    show word 0x6F000000 [put d 18, put n 6] = _
    rw [word_cons, word_cons, word_nil, put_eq, put_eq]
  refine roundTrips_word rfl (by omega) fun e₁ he hw k₁ hk => ?_
  rw [e0]
  clear e0
  generalize hW : 0x6F000000 + d.toNat * 2 ^ 18 + n.toNat * 2 ^ 6 + k₁ * 2 ^ 31 = w₁
  have hm : w₁ / 2 ^ 24 % 128 = 0x6F := by omega
  have f0 : fld w₁ 18 6 = d := fld_eq (by omega)
  have f1 : fld w₁ 6 12 = n := fld_eq (by omega)
  obtain rfl : e₁ = 0 := by simpa using (show (e₁ == 0) = true from he)
  rw [candidate_seq hm (by decide)]
  unfold seqOf
  rw [hm]
  show some (Instr.cntr (fld w₁ 18 6) (fld w₁ 6 12)) = _
  rw [f0, f1]

theorem wget (d : BitVec 6) : Statement (.wget d) := by
  have h0 := d.isLt
  have e0 : encodeWord (.wget d) = 0x70000000 + d.toNat * 2 ^ 18 := by
    show word 0x70000000 [put d 18] = _
    rw [word_cons, word_nil, put_eq]
  refine roundTrips_word rfl (by omega) fun e₁ he hw k₁ hk => ?_
  rw [e0]
  clear e0
  generalize hW : 0x70000000 + d.toNat * 2 ^ 18 + k₁ * 2 ^ 31 = w₁
  have hm : w₁ / 2 ^ 24 % 128 = 0x70 := by omega
  have f0 : fld w₁ 18 6 = d := fld_eq (by omega)
  obtain rfl : e₁ = 0 := by simpa using (show (e₁ == 0) = true from he)
  rw [candidate_seq hm (by decide)]
  unfold seqOf
  rw [hm]
  show some (Instr.wget (fld w₁ 18 6)) = _
  rw [f0]

theorem wsteal (d : BitVec 6) (a : BitVec 6) : Statement (.wsteal d a) := by
  have h0 := d.isLt; have h1 := a.isLt
  have e0 : encodeWord (.wsteal d a) = 0x71000000 + d.toNat * 2 ^ 18 + a.toNat * 2 ^ 12 := by
    show word 0x71000000 [put d 18, put a 12] = _
    rw [word_cons, word_cons, word_nil, put_eq, put_eq]
  refine roundTrips_word rfl (by omega) fun e₁ he hw k₁ hk => ?_
  rw [e0]
  clear e0
  generalize hW : 0x71000000 + d.toNat * 2 ^ 18 + a.toNat * 2 ^ 12 + k₁ * 2 ^ 31 = w₁
  have hm : w₁ / 2 ^ 24 % 128 = 0x71 := by omega
  have f0 : fld w₁ 18 6 = d := fld_eq (by omega)
  have f1 : fld w₁ 12 6 = a := fld_eq (by omega)
  obtain rfl : e₁ = 0 := by simpa using (show (e₁ == 0) = true from he)
  rw [candidate_seq hm (by decide)]
  unfold seqOf
  rw [hm]
  show some (Instr.wsteal (fld w₁ 18 6) (fld w₁ 12 6)) = _
  rw [f0, f1]

theorem wbar (l : BitVec 6) : Statement (.wbar l) := by
  have h0 := l.isLt
  have e0 : encodeWord (.wbar l) = 0x72000000 + l.toNat * 2 ^ 0 := by
    show word 0x72000000 [put l 0] = _
    rw [word_cons, word_nil, put_eq]
  refine roundTrips_word rfl (by omega) fun e₁ he hw k₁ hk => ?_
  rw [e0]
  clear e0
  generalize hW : 0x72000000 + l.toNat * 2 ^ 0 + k₁ * 2 ^ 31 = w₁
  have hm : w₁ / 2 ^ 24 % 128 = 0x72 := by omega
  have f0 : fld w₁ 0 6 = l := fld_eq (by omega)
  obtain rfl : e₁ = 0 := by simpa using (show (e₁ == 0) = true from he)
  rw [candidate_seq hm (by decide)]
  unfold seqOf
  rw [hm]
  show some (Instr.wbar (fld w₁ 0 6)) = _
  rw [f0]

theorem lnch (a : BitVec 6) (b : BitVec 6) : Statement (.lnch a b) := by
  have h0 := a.isLt; have h1 := b.isLt
  have e0 : encodeWord (.lnch a b) = 0x74000000 + a.toNat * 2 ^ 12 + b.toNat * 2 ^ 6 := by
    show word 0x74000000 [put a 12, put b 6] = _
    rw [word_cons, word_cons, word_nil, put_eq, put_eq]
  refine roundTrips_word rfl (by omega) fun e₁ he hw k₁ hk => ?_
  rw [e0]
  clear e0
  generalize hW : 0x74000000 + a.toNat * 2 ^ 12 + b.toNat * 2 ^ 6 + k₁ * 2 ^ 31 = w₁
  have hm : w₁ / 2 ^ 24 % 128 = 0x74 := by omega
  have f0 : fld w₁ 12 6 = a := fld_eq (by omega)
  have f1 : fld w₁ 6 6 = b := fld_eq (by omega)
  obtain rfl : e₁ = 0 := by simpa using (show (e₁ == 0) = true from he)
  rw [candidate_seq hm (by decide)]
  unfold seqOf
  rw [hm]
  show some (Instr.lnch (fld w₁ 12 6) (fld w₁ 6 6)) = _
  rw [f0, f1]

theorem trap (i : BitVec 16) : Statement (.trap i) := by
  have h0 := i.isLt
  have e0 : encodeWord (.trap i) = 0x75000000 + i.toNat * 2 ^ 0 := by
    show word 0x75000000 [put i 0] = _
    rw [word_cons, word_nil, put_eq]
  refine roundTrips_word rfl (by omega) fun e₁ he hw k₁ hk => ?_
  rw [e0]
  clear e0
  generalize hW : 0x75000000 + i.toNat * 2 ^ 0 + k₁ * 2 ^ 31 = w₁
  have hm : w₁ / 2 ^ 24 % 128 = 0x75 := by omega
  have f0 : fld w₁ 0 16 = i := fld_eq (by omega)
  obtain rfl : e₁ = 0 := by simpa using (show (e₁ == 0) = true from he)
  rw [candidate_seq hm (by decide)]
  unfold seqOf
  rw [hm]
  show some (Instr.trap (fld w₁ 0 16)) = _
  rw [f0]

theorem bz (a : BitVec 6) (o : BitVec 18) : Statement (.bz a o) := by
  have h0 := a.isLt; have h1 := o.isLt
  have e0 : encodeWord (.bz a o) = 0x78000000 + a.toNat * 2 ^ 18 + o.toNat * 2 ^ 0 := by
    show word 0x78000000 [put a 18, put o 0] = _
    rw [word_cons, word_cons, word_nil, put_eq, put_eq]
  refine roundTrips_word rfl (by omega) fun e₁ he hw k₁ hk => ?_
  rw [e0]
  clear e0
  generalize hW : 0x78000000 + a.toNat * 2 ^ 18 + o.toNat * 2 ^ 0 + k₁ * 2 ^ 31 = w₁
  have hm : w₁ / 2 ^ 24 % 128 = 0x78 := by omega
  have f0 : fld w₁ 18 6 = a := fld_eq (by omega)
  have f1 : fld w₁ 0 18 = o := fld_eq (by omega)
  obtain rfl : e₁ = 0 := by simpa using (show (e₁ == 0) = true from he)
  rw [candidate_seq hm (by decide)]
  unfold seqOf
  rw [hm]
  show some (Instr.bz (fld w₁ 18 6) (fld w₁ 0 18)) = _
  rw [f0, f1]

theorem bnz (a : BitVec 6) (o : BitVec 18) : Statement (.bnz a o) := by
  have h0 := a.isLt; have h1 := o.isLt
  have e0 : encodeWord (.bnz a o) = 0x79000000 + a.toNat * 2 ^ 18 + o.toNat * 2 ^ 0 := by
    show word 0x79000000 [put a 18, put o 0] = _
    rw [word_cons, word_cons, word_nil, put_eq, put_eq]
  refine roundTrips_word rfl (by omega) fun e₁ he hw k₁ hk => ?_
  rw [e0]
  clear e0
  generalize hW : 0x79000000 + a.toNat * 2 ^ 18 + o.toNat * 2 ^ 0 + k₁ * 2 ^ 31 = w₁
  have hm : w₁ / 2 ^ 24 % 128 = 0x79 := by omega
  have f0 : fld w₁ 18 6 = a := fld_eq (by omega)
  have f1 : fld w₁ 0 18 = o := fld_eq (by omega)
  obtain rfl : e₁ = 0 := by simpa using (show (e₁ == 0) = true from he)
  rw [candidate_seq hm (by decide)]
  unfold seqOf
  rw [hm]
  show some (Instr.bnz (fld w₁ 18 6) (fld w₁ 0 18)) = _
  rw [f0, f1]

theorem vadd (d : BitVec 6) (a : BitVec 6) (b : BitVec 6) (t : BitVec 4) : Statement (.vadd d a b t) := by
  have h0 := d.isLt; have h1 := a.isLt; have h2 := b.isLt; have h3 := t.isLt
  have e0 : encodeWord (.vadd d a b t) = 0x40000000 + d.toNat * 2 ^ 18 + a.toNat * 2 ^ 12 + b.toNat * 2 ^ 6 + t.toNat * 2 ^ 2 := by
    show word 0x40000000 [put d 18, put a 12, put b 6, put t 2] = _
    rw [word_cons, word_cons, word_cons, word_cons, word_nil, put_eq, put_eq, put_eq, put_eq]
  refine roundTrips_word rfl (by omega) fun e₁ he hw k₁ hk => ?_
  rw [e0]
  clear e0
  generalize hW : 0x40000000 + d.toNat * 2 ^ 18 + a.toNat * 2 ^ 12 + b.toNat * 2 ^ 6 + t.toNat * 2 ^ 2 + k₁ * 2 ^ 31 = w₁
  have hm : w₁ / 2 ^ 24 % 128 = 0x40 := by omega
  have f0 : fld w₁ 18 6 = d := fld_eq (by omega)
  have f1 : fld w₁ 12 6 = a := fld_eq (by omega)
  have f2 : fld w₁ 6 6 = b := fld_eq (by omega)
  have f3 : fld w₁ 2 4 = t := fld_eq (by omega)
  obtain rfl : e₁ = 1 := by simpa using (show (e₁ == 1) = true from he)
  rw [candidate_vec hm (by decide)]
  unfold vecOf
  rw [hm]
  show some (Instr.vadd (fld w₁ 18 6) (fld w₁ 12 6) (fld w₁ 6 6) (fld w₁ 2 4)) = _
  rw [f0, f1, f2, f3]

theorem vsub (d : BitVec 6) (a : BitVec 6) (b : BitVec 6) (t : BitVec 4) : Statement (.vsub d a b t) := by
  have h0 := d.isLt; have h1 := a.isLt; have h2 := b.isLt; have h3 := t.isLt
  have e0 : encodeWord (.vsub d a b t) = 0x41000000 + d.toNat * 2 ^ 18 + a.toNat * 2 ^ 12 + b.toNat * 2 ^ 6 + t.toNat * 2 ^ 2 := by
    show word 0x41000000 [put d 18, put a 12, put b 6, put t 2] = _
    rw [word_cons, word_cons, word_cons, word_cons, word_nil, put_eq, put_eq, put_eq, put_eq]
  refine roundTrips_word rfl (by omega) fun e₁ he hw k₁ hk => ?_
  rw [e0]
  clear e0
  generalize hW : 0x41000000 + d.toNat * 2 ^ 18 + a.toNat * 2 ^ 12 + b.toNat * 2 ^ 6 + t.toNat * 2 ^ 2 + k₁ * 2 ^ 31 = w₁
  have hm : w₁ / 2 ^ 24 % 128 = 0x41 := by omega
  have f0 : fld w₁ 18 6 = d := fld_eq (by omega)
  have f1 : fld w₁ 12 6 = a := fld_eq (by omega)
  have f2 : fld w₁ 6 6 = b := fld_eq (by omega)
  have f3 : fld w₁ 2 4 = t := fld_eq (by omega)
  obtain rfl : e₁ = 1 := by simpa using (show (e₁ == 1) = true from he)
  rw [candidate_vec hm (by decide)]
  unfold vecOf
  rw [hm]
  show some (Instr.vsub (fld w₁ 18 6) (fld w₁ 12 6) (fld w₁ 6 6) (fld w₁ 2 4)) = _
  rw [f0, f1, f2, f3]

theorem vmul (d : BitVec 6) (a : BitVec 6) (b : BitVec 6) (t : BitVec 4) : Statement (.vmul d a b t) := by
  have h0 := d.isLt; have h1 := a.isLt; have h2 := b.isLt; have h3 := t.isLt
  have e0 : encodeWord (.vmul d a b t) = 0x42000000 + d.toNat * 2 ^ 18 + a.toNat * 2 ^ 12 + b.toNat * 2 ^ 6 + t.toNat * 2 ^ 2 := by
    show word 0x42000000 [put d 18, put a 12, put b 6, put t 2] = _
    rw [word_cons, word_cons, word_cons, word_cons, word_nil, put_eq, put_eq, put_eq, put_eq]
  refine roundTrips_word rfl (by omega) fun e₁ he hw k₁ hk => ?_
  rw [e0]
  clear e0
  generalize hW : 0x42000000 + d.toNat * 2 ^ 18 + a.toNat * 2 ^ 12 + b.toNat * 2 ^ 6 + t.toNat * 2 ^ 2 + k₁ * 2 ^ 31 = w₁
  have hm : w₁ / 2 ^ 24 % 128 = 0x42 := by omega
  have f0 : fld w₁ 18 6 = d := fld_eq (by omega)
  have f1 : fld w₁ 12 6 = a := fld_eq (by omega)
  have f2 : fld w₁ 6 6 = b := fld_eq (by omega)
  have f3 : fld w₁ 2 4 = t := fld_eq (by omega)
  obtain rfl : e₁ = 1 := by simpa using (show (e₁ == 1) = true from he)
  rw [candidate_vec hm (by decide)]
  unfold vecOf
  rw [hm]
  show some (Instr.vmul (fld w₁ 18 6) (fld w₁ 12 6) (fld w₁ 6 6) (fld w₁ 2 4)) = _
  rw [f0, f1, f2, f3]

theorem vfma (d : BitVec 6) (a : BitVec 6) (b : BitVec 6) (t : BitVec 4) : Statement (.vfma d a b t) := by
  have h0 := d.isLt; have h1 := a.isLt; have h2 := b.isLt; have h3 := t.isLt
  have e0 : encodeWord (.vfma d a b t) = 0x43000000 + d.toNat * 2 ^ 18 + a.toNat * 2 ^ 12 + b.toNat * 2 ^ 6 + t.toNat * 2 ^ 2 := by
    show word 0x43000000 [put d 18, put a 12, put b 6, put t 2] = _
    rw [word_cons, word_cons, word_cons, word_cons, word_nil, put_eq, put_eq, put_eq, put_eq]
  refine roundTrips_word rfl (by omega) fun e₁ he hw k₁ hk => ?_
  rw [e0]
  clear e0
  generalize hW : 0x43000000 + d.toNat * 2 ^ 18 + a.toNat * 2 ^ 12 + b.toNat * 2 ^ 6 + t.toNat * 2 ^ 2 + k₁ * 2 ^ 31 = w₁
  have hm : w₁ / 2 ^ 24 % 128 = 0x43 := by omega
  have f0 : fld w₁ 18 6 = d := fld_eq (by omega)
  have f1 : fld w₁ 12 6 = a := fld_eq (by omega)
  have f2 : fld w₁ 6 6 = b := fld_eq (by omega)
  have f3 : fld w₁ 2 4 = t := fld_eq (by omega)
  obtain rfl : e₁ = 1 := by simpa using (show (e₁ == 1) = true from he)
  rw [candidate_vec hm (by decide)]
  rw [vecOf43_eq hm]
  have hs : w₁ % 4 = 0x00 := by omega
  unfold vecOf43
  rw [hs]
  show some (Instr.vfma (fld w₁ 18 6) (fld w₁ 12 6) (fld w₁ 6 6) (fld w₁ 2 4)) = _
  rw [f0, f1, f2, f3]

theorem vfms (d : BitVec 6) (a : BitVec 6) (b : BitVec 6) (t : BitVec 4) : Statement (.vfms d a b t) := by
  have h0 := d.isLt; have h1 := a.isLt; have h2 := b.isLt; have h3 := t.isLt
  have e0 : encodeWord (.vfms d a b t) = 0x43000001 + d.toNat * 2 ^ 18 + a.toNat * 2 ^ 12 + b.toNat * 2 ^ 6 + t.toNat * 2 ^ 2 := by
    show word 0x43000001 [put d 18, put a 12, put b 6, put t 2] = _
    rw [word_cons, word_cons, word_cons, word_cons, word_nil, put_eq, put_eq, put_eq, put_eq]
  refine roundTrips_word rfl (by omega) fun e₁ he hw k₁ hk => ?_
  rw [e0]
  clear e0
  generalize hW : 0x43000001 + d.toNat * 2 ^ 18 + a.toNat * 2 ^ 12 + b.toNat * 2 ^ 6 + t.toNat * 2 ^ 2 + k₁ * 2 ^ 31 = w₁
  have hm : w₁ / 2 ^ 24 % 128 = 0x43 := by omega
  have f0 : fld w₁ 18 6 = d := fld_eq (by omega)
  have f1 : fld w₁ 12 6 = a := fld_eq (by omega)
  have f2 : fld w₁ 6 6 = b := fld_eq (by omega)
  have f3 : fld w₁ 2 4 = t := fld_eq (by omega)
  obtain rfl : e₁ = 1 := by simpa using (show (e₁ == 1) = true from he)
  rw [candidate_vec hm (by decide)]
  rw [vecOf43_eq hm]
  have hs : w₁ % 4 = 0x01 := by omega
  unfold vecOf43
  rw [hs]
  show some (Instr.vfms (fld w₁ 18 6) (fld w₁ 12 6) (fld w₁ 6 6) (fld w₁ 2 4)) = _
  rw [f0, f1, f2, f3]

theorem vfnma (d : BitVec 6) (a : BitVec 6) (b : BitVec 6) (t : BitVec 4) : Statement (.vfnma d a b t) := by
  have h0 := d.isLt; have h1 := a.isLt; have h2 := b.isLt; have h3 := t.isLt
  have e0 : encodeWord (.vfnma d a b t) = 0x43000002 + d.toNat * 2 ^ 18 + a.toNat * 2 ^ 12 + b.toNat * 2 ^ 6 + t.toNat * 2 ^ 2 := by
    show word 0x43000002 [put d 18, put a 12, put b 6, put t 2] = _
    rw [word_cons, word_cons, word_cons, word_cons, word_nil, put_eq, put_eq, put_eq, put_eq]
  refine roundTrips_word rfl (by omega) fun e₁ he hw k₁ hk => ?_
  rw [e0]
  clear e0
  generalize hW : 0x43000002 + d.toNat * 2 ^ 18 + a.toNat * 2 ^ 12 + b.toNat * 2 ^ 6 + t.toNat * 2 ^ 2 + k₁ * 2 ^ 31 = w₁
  have hm : w₁ / 2 ^ 24 % 128 = 0x43 := by omega
  have f0 : fld w₁ 18 6 = d := fld_eq (by omega)
  have f1 : fld w₁ 12 6 = a := fld_eq (by omega)
  have f2 : fld w₁ 6 6 = b := fld_eq (by omega)
  have f3 : fld w₁ 2 4 = t := fld_eq (by omega)
  obtain rfl : e₁ = 1 := by simpa using (show (e₁ == 1) = true from he)
  rw [candidate_vec hm (by decide)]
  rw [vecOf43_eq hm]
  have hs : w₁ % 4 = 0x02 := by omega
  unfold vecOf43
  rw [hs]
  show some (Instr.vfnma (fld w₁ 18 6) (fld w₁ 12 6) (fld w₁ 6 6) (fld w₁ 2 4)) = _
  rw [f0, f1, f2, f3]

theorem vmin (d : BitVec 6) (a : BitVec 6) (b : BitVec 6) (t : BitVec 4) : Statement (.vmin d a b t) := by
  have h0 := d.isLt; have h1 := a.isLt; have h2 := b.isLt; have h3 := t.isLt
  have e0 : encodeWord (.vmin d a b t) = 0x44000000 + d.toNat * 2 ^ 18 + a.toNat * 2 ^ 12 + b.toNat * 2 ^ 6 + t.toNat * 2 ^ 2 := by
    show word 0x44000000 [put d 18, put a 12, put b 6, put t 2] = _
    rw [word_cons, word_cons, word_cons, word_cons, word_nil, put_eq, put_eq, put_eq, put_eq]
  refine roundTrips_word rfl (by omega) fun e₁ he hw k₁ hk => ?_
  rw [e0]
  clear e0
  generalize hW : 0x44000000 + d.toNat * 2 ^ 18 + a.toNat * 2 ^ 12 + b.toNat * 2 ^ 6 + t.toNat * 2 ^ 2 + k₁ * 2 ^ 31 = w₁
  have hm : w₁ / 2 ^ 24 % 128 = 0x44 := by omega
  have f0 : fld w₁ 18 6 = d := fld_eq (by omega)
  have f1 : fld w₁ 12 6 = a := fld_eq (by omega)
  have f2 : fld w₁ 6 6 = b := fld_eq (by omega)
  have f3 : fld w₁ 2 4 = t := fld_eq (by omega)
  obtain rfl : e₁ = 1 := by simpa using (show (e₁ == 1) = true from he)
  rw [candidate_vec hm (by decide)]
  unfold vecOf
  rw [hm]
  show some (Instr.vmin (fld w₁ 18 6) (fld w₁ 12 6) (fld w₁ 6 6) (fld w₁ 2 4)) = _
  rw [f0, f1, f2, f3]

theorem vmax (d : BitVec 6) (a : BitVec 6) (b : BitVec 6) (t : BitVec 4) : Statement (.vmax d a b t) := by
  have h0 := d.isLt; have h1 := a.isLt; have h2 := b.isLt; have h3 := t.isLt
  have e0 : encodeWord (.vmax d a b t) = 0x45000000 + d.toNat * 2 ^ 18 + a.toNat * 2 ^ 12 + b.toNat * 2 ^ 6 + t.toNat * 2 ^ 2 := by
    show word 0x45000000 [put d 18, put a 12, put b 6, put t 2] = _
    rw [word_cons, word_cons, word_cons, word_cons, word_nil, put_eq, put_eq, put_eq, put_eq]
  refine roundTrips_word rfl (by omega) fun e₁ he hw k₁ hk => ?_
  rw [e0]
  clear e0
  generalize hW : 0x45000000 + d.toNat * 2 ^ 18 + a.toNat * 2 ^ 12 + b.toNat * 2 ^ 6 + t.toNat * 2 ^ 2 + k₁ * 2 ^ 31 = w₁
  have hm : w₁ / 2 ^ 24 % 128 = 0x45 := by omega
  have f0 : fld w₁ 18 6 = d := fld_eq (by omega)
  have f1 : fld w₁ 12 6 = a := fld_eq (by omega)
  have f2 : fld w₁ 6 6 = b := fld_eq (by omega)
  have f3 : fld w₁ 2 4 = t := fld_eq (by omega)
  obtain rfl : e₁ = 1 := by simpa using (show (e₁ == 1) = true from he)
  rw [candidate_vec hm (by decide)]
  unfold vecOf
  rw [hm]
  show some (Instr.vmax (fld w₁ 18 6) (fld w₁ 12 6) (fld w₁ 6 6) (fld w₁ 2 4)) = _
  rw [f0, f1, f2, f3]

theorem vabs (d : BitVec 6) (a : BitVec 6) (t : BitVec 4) : Statement (.vabs d a t) := by
  have h0 := d.isLt; have h1 := a.isLt; have h2 := t.isLt
  have e0 : encodeWord (.vabs d a t) = 0x46000000 + d.toNat * 2 ^ 18 + a.toNat * 2 ^ 12 + t.toNat * 2 ^ 2 := by
    show word 0x46000000 [put d 18, put a 12, put t 2] = _
    rw [word_cons, word_cons, word_cons, word_nil, put_eq, put_eq, put_eq]
  refine roundTrips_word rfl (by omega) fun e₁ he hw k₁ hk => ?_
  rw [e0]
  clear e0
  generalize hW : 0x46000000 + d.toNat * 2 ^ 18 + a.toNat * 2 ^ 12 + t.toNat * 2 ^ 2 + k₁ * 2 ^ 31 = w₁
  have hm : w₁ / 2 ^ 24 % 128 = 0x46 := by omega
  have f0 : fld w₁ 18 6 = d := fld_eq (by omega)
  have f1 : fld w₁ 12 6 = a := fld_eq (by omega)
  have f2 : fld w₁ 2 4 = t := fld_eq (by omega)
  obtain rfl : e₁ = 1 := by simpa using (show (e₁ == 1) = true from he)
  rw [candidate_vec hm (by decide)]
  rw [vecOf46_eq hm]
  have hs : w₁ / 2 ^ 6 % 64 = 0x00 := by omega
  unfold vecOf46
  rw [hs]
  show some (Instr.vabs (fld w₁ 18 6) (fld w₁ 12 6) (fld w₁ 2 4)) = _
  rw [f0, f1, f2]

theorem vneg (d : BitVec 6) (a : BitVec 6) (t : BitVec 4) : Statement (.vneg d a t) := by
  have h0 := d.isLt; have h1 := a.isLt; have h2 := t.isLt
  have e0 : encodeWord (.vneg d a t) = 0x46000040 + d.toNat * 2 ^ 18 + a.toNat * 2 ^ 12 + t.toNat * 2 ^ 2 := by
    show word 0x46000040 [put d 18, put a 12, put t 2] = _
    rw [word_cons, word_cons, word_cons, word_nil, put_eq, put_eq, put_eq]
  refine roundTrips_word rfl (by omega) fun e₁ he hw k₁ hk => ?_
  rw [e0]
  clear e0
  generalize hW : 0x46000040 + d.toNat * 2 ^ 18 + a.toNat * 2 ^ 12 + t.toNat * 2 ^ 2 + k₁ * 2 ^ 31 = w₁
  have hm : w₁ / 2 ^ 24 % 128 = 0x46 := by omega
  have f0 : fld w₁ 18 6 = d := fld_eq (by omega)
  have f1 : fld w₁ 12 6 = a := fld_eq (by omega)
  have f2 : fld w₁ 2 4 = t := fld_eq (by omega)
  obtain rfl : e₁ = 1 := by simpa using (show (e₁ == 1) = true from he)
  rw [candidate_vec hm (by decide)]
  rw [vecOf46_eq hm]
  have hs : w₁ / 2 ^ 6 % 64 = 0x01 := by omega
  unfold vecOf46
  rw [hs]
  show some (Instr.vneg (fld w₁ 18 6) (fld w₁ 12 6) (fld w₁ 2 4)) = _
  rw [f0, f1, f2]

theorem vexp2 (d : BitVec 6) (a : BitVec 6) (t : BitVec 4) : Statement (.vexp2 d a t) := by
  have h0 := d.isLt; have h1 := a.isLt; have h2 := t.isLt
  have e0 : encodeWord (.vexp2 d a t) = 0x46000080 + d.toNat * 2 ^ 18 + a.toNat * 2 ^ 12 + t.toNat * 2 ^ 2 := by
    show word 0x46000080 [put d 18, put a 12, put t 2] = _
    rw [word_cons, word_cons, word_cons, word_nil, put_eq, put_eq, put_eq]
  refine roundTrips_word rfl (by omega) fun e₁ he hw k₁ hk => ?_
  rw [e0]
  clear e0
  generalize hW : 0x46000080 + d.toNat * 2 ^ 18 + a.toNat * 2 ^ 12 + t.toNat * 2 ^ 2 + k₁ * 2 ^ 31 = w₁
  have hm : w₁ / 2 ^ 24 % 128 = 0x46 := by omega
  have f0 : fld w₁ 18 6 = d := fld_eq (by omega)
  have f1 : fld w₁ 12 6 = a := fld_eq (by omega)
  have f2 : fld w₁ 2 4 = t := fld_eq (by omega)
  obtain rfl : e₁ = 1 := by simpa using (show (e₁ == 1) = true from he)
  rw [candidate_vec hm (by decide)]
  rw [vecOf46_eq hm]
  have hs : w₁ / 2 ^ 6 % 64 = 0x02 := by omega
  unfold vecOf46
  rw [hs]
  show some (Instr.vexp2 (fld w₁ 18 6) (fld w₁ 12 6) (fld w₁ 2 4)) = _
  rw [f0, f1, f2]

theorem vlog2 (d : BitVec 6) (a : BitVec 6) (t : BitVec 4) : Statement (.vlog2 d a t) := by
  have h0 := d.isLt; have h1 := a.isLt; have h2 := t.isLt
  have e0 : encodeWord (.vlog2 d a t) = 0x460000C0 + d.toNat * 2 ^ 18 + a.toNat * 2 ^ 12 + t.toNat * 2 ^ 2 := by
    show word 0x460000C0 [put d 18, put a 12, put t 2] = _
    rw [word_cons, word_cons, word_cons, word_nil, put_eq, put_eq, put_eq]
  refine roundTrips_word rfl (by omega) fun e₁ he hw k₁ hk => ?_
  rw [e0]
  clear e0
  generalize hW : 0x460000C0 + d.toNat * 2 ^ 18 + a.toNat * 2 ^ 12 + t.toNat * 2 ^ 2 + k₁ * 2 ^ 31 = w₁
  have hm : w₁ / 2 ^ 24 % 128 = 0x46 := by omega
  have f0 : fld w₁ 18 6 = d := fld_eq (by omega)
  have f1 : fld w₁ 12 6 = a := fld_eq (by omega)
  have f2 : fld w₁ 2 4 = t := fld_eq (by omega)
  obtain rfl : e₁ = 1 := by simpa using (show (e₁ == 1) = true from he)
  rw [candidate_vec hm (by decide)]
  rw [vecOf46_eq hm]
  have hs : w₁ / 2 ^ 6 % 64 = 0x03 := by omega
  unfold vecOf46
  rw [hs]
  show some (Instr.vlog2 (fld w₁ 18 6) (fld w₁ 12 6) (fld w₁ 2 4)) = _
  rw [f0, f1, f2]

theorem vrcp (d : BitVec 6) (a : BitVec 6) (t : BitVec 4) : Statement (.vrcp d a t) := by
  have h0 := d.isLt; have h1 := a.isLt; have h2 := t.isLt
  have e0 : encodeWord (.vrcp d a t) = 0x46000100 + d.toNat * 2 ^ 18 + a.toNat * 2 ^ 12 + t.toNat * 2 ^ 2 := by
    show word 0x46000100 [put d 18, put a 12, put t 2] = _
    rw [word_cons, word_cons, word_cons, word_nil, put_eq, put_eq, put_eq]
  refine roundTrips_word rfl (by omega) fun e₁ he hw k₁ hk => ?_
  rw [e0]
  clear e0
  generalize hW : 0x46000100 + d.toNat * 2 ^ 18 + a.toNat * 2 ^ 12 + t.toNat * 2 ^ 2 + k₁ * 2 ^ 31 = w₁
  have hm : w₁ / 2 ^ 24 % 128 = 0x46 := by omega
  have f0 : fld w₁ 18 6 = d := fld_eq (by omega)
  have f1 : fld w₁ 12 6 = a := fld_eq (by omega)
  have f2 : fld w₁ 2 4 = t := fld_eq (by omega)
  obtain rfl : e₁ = 1 := by simpa using (show (e₁ == 1) = true from he)
  rw [candidate_vec hm (by decide)]
  rw [vecOf46_eq hm]
  have hs : w₁ / 2 ^ 6 % 64 = 0x04 := by omega
  unfold vecOf46
  rw [hs]
  show some (Instr.vrcp (fld w₁ 18 6) (fld w₁ 12 6) (fld w₁ 2 4)) = _
  rw [f0, f1, f2]

theorem vrsq (d : BitVec 6) (a : BitVec 6) (t : BitVec 4) : Statement (.vrsq d a t) := by
  have h0 := d.isLt; have h1 := a.isLt; have h2 := t.isLt
  have e0 : encodeWord (.vrsq d a t) = 0x46000140 + d.toNat * 2 ^ 18 + a.toNat * 2 ^ 12 + t.toNat * 2 ^ 2 := by
    show word 0x46000140 [put d 18, put a 12, put t 2] = _
    rw [word_cons, word_cons, word_cons, word_nil, put_eq, put_eq, put_eq]
  refine roundTrips_word rfl (by omega) fun e₁ he hw k₁ hk => ?_
  rw [e0]
  clear e0
  generalize hW : 0x46000140 + d.toNat * 2 ^ 18 + a.toNat * 2 ^ 12 + t.toNat * 2 ^ 2 + k₁ * 2 ^ 31 = w₁
  have hm : w₁ / 2 ^ 24 % 128 = 0x46 := by omega
  have f0 : fld w₁ 18 6 = d := fld_eq (by omega)
  have f1 : fld w₁ 12 6 = a := fld_eq (by omega)
  have f2 : fld w₁ 2 4 = t := fld_eq (by omega)
  obtain rfl : e₁ = 1 := by simpa using (show (e₁ == 1) = true from he)
  rw [candidate_vec hm (by decide)]
  rw [vecOf46_eq hm]
  have hs : w₁ / 2 ^ 6 % 64 = 0x05 := by omega
  unfold vecOf46
  rw [hs]
  show some (Instr.vrsq (fld w₁ 18 6) (fld w₁ 12 6) (fld w₁ 2 4)) = _
  rw [f0, f1, f2]

theorem vsqrt (d : BitVec 6) (a : BitVec 6) (t : BitVec 4) : Statement (.vsqrt d a t) := by
  have h0 := d.isLt; have h1 := a.isLt; have h2 := t.isLt
  have e0 : encodeWord (.vsqrt d a t) = 0x46000180 + d.toNat * 2 ^ 18 + a.toNat * 2 ^ 12 + t.toNat * 2 ^ 2 := by
    show word 0x46000180 [put d 18, put a 12, put t 2] = _
    rw [word_cons, word_cons, word_cons, word_nil, put_eq, put_eq, put_eq]
  refine roundTrips_word rfl (by omega) fun e₁ he hw k₁ hk => ?_
  rw [e0]
  clear e0
  generalize hW : 0x46000180 + d.toNat * 2 ^ 18 + a.toNat * 2 ^ 12 + t.toNat * 2 ^ 2 + k₁ * 2 ^ 31 = w₁
  have hm : w₁ / 2 ^ 24 % 128 = 0x46 := by omega
  have f0 : fld w₁ 18 6 = d := fld_eq (by omega)
  have f1 : fld w₁ 12 6 = a := fld_eq (by omega)
  have f2 : fld w₁ 2 4 = t := fld_eq (by omega)
  obtain rfl : e₁ = 1 := by simpa using (show (e₁ == 1) = true from he)
  rw [candidate_vec hm (by decide)]
  rw [vecOf46_eq hm]
  have hs : w₁ / 2 ^ 6 % 64 = 0x06 := by omega
  unfold vecOf46
  rw [hs]
  show some (Instr.vsqrt (fld w₁ 18 6) (fld w₁ 12 6) (fld w₁ 2 4)) = _
  rw [f0, f1, f2]

theorem vfloor (d : BitVec 6) (a : BitVec 6) (t : BitVec 4) : Statement (.vfloor d a t) := by
  have h0 := d.isLt; have h1 := a.isLt; have h2 := t.isLt
  have e0 : encodeWord (.vfloor d a t) = 0x460001C0 + d.toNat * 2 ^ 18 + a.toNat * 2 ^ 12 + t.toNat * 2 ^ 2 := by
    show word 0x460001C0 [put d 18, put a 12, put t 2] = _
    rw [word_cons, word_cons, word_cons, word_nil, put_eq, put_eq, put_eq]
  refine roundTrips_word rfl (by omega) fun e₁ he hw k₁ hk => ?_
  rw [e0]
  clear e0
  generalize hW : 0x460001C0 + d.toNat * 2 ^ 18 + a.toNat * 2 ^ 12 + t.toNat * 2 ^ 2 + k₁ * 2 ^ 31 = w₁
  have hm : w₁ / 2 ^ 24 % 128 = 0x46 := by omega
  have f0 : fld w₁ 18 6 = d := fld_eq (by omega)
  have f1 : fld w₁ 12 6 = a := fld_eq (by omega)
  have f2 : fld w₁ 2 4 = t := fld_eq (by omega)
  obtain rfl : e₁ = 1 := by simpa using (show (e₁ == 1) = true from he)
  rw [candidate_vec hm (by decide)]
  rw [vecOf46_eq hm]
  have hs : w₁ / 2 ^ 6 % 64 = 0x07 := by omega
  unfold vecOf46
  rw [hs]
  show some (Instr.vfloor (fld w₁ 18 6) (fld w₁ 12 6) (fld w₁ 2 4)) = _
  rw [f0, f1, f2]

theorem vceil (d : BitVec 6) (a : BitVec 6) (t : BitVec 4) : Statement (.vceil d a t) := by
  have h0 := d.isLt; have h1 := a.isLt; have h2 := t.isLt
  have e0 : encodeWord (.vceil d a t) = 0x46000200 + d.toNat * 2 ^ 18 + a.toNat * 2 ^ 12 + t.toNat * 2 ^ 2 := by
    show word 0x46000200 [put d 18, put a 12, put t 2] = _
    rw [word_cons, word_cons, word_cons, word_nil, put_eq, put_eq, put_eq]
  refine roundTrips_word rfl (by omega) fun e₁ he hw k₁ hk => ?_
  rw [e0]
  clear e0
  generalize hW : 0x46000200 + d.toNat * 2 ^ 18 + a.toNat * 2 ^ 12 + t.toNat * 2 ^ 2 + k₁ * 2 ^ 31 = w₁
  have hm : w₁ / 2 ^ 24 % 128 = 0x46 := by omega
  have f0 : fld w₁ 18 6 = d := fld_eq (by omega)
  have f1 : fld w₁ 12 6 = a := fld_eq (by omega)
  have f2 : fld w₁ 2 4 = t := fld_eq (by omega)
  obtain rfl : e₁ = 1 := by simpa using (show (e₁ == 1) = true from he)
  rw [candidate_vec hm (by decide)]
  rw [vecOf46_eq hm]
  have hs : w₁ / 2 ^ 6 % 64 = 0x08 := by omega
  unfold vecOf46
  rw [hs]
  show some (Instr.vceil (fld w₁ 18 6) (fld w₁ 12 6) (fld w₁ 2 4)) = _
  rw [f0, f1, f2]

theorem vrint (d : BitVec 6) (a : BitVec 6) (t : BitVec 4) : Statement (.vrint d a t) := by
  have h0 := d.isLt; have h1 := a.isLt; have h2 := t.isLt
  have e0 : encodeWord (.vrint d a t) = 0x46000240 + d.toNat * 2 ^ 18 + a.toNat * 2 ^ 12 + t.toNat * 2 ^ 2 := by
    show word 0x46000240 [put d 18, put a 12, put t 2] = _
    rw [word_cons, word_cons, word_cons, word_nil, put_eq, put_eq, put_eq]
  refine roundTrips_word rfl (by omega) fun e₁ he hw k₁ hk => ?_
  rw [e0]
  clear e0
  generalize hW : 0x46000240 + d.toNat * 2 ^ 18 + a.toNat * 2 ^ 12 + t.toNat * 2 ^ 2 + k₁ * 2 ^ 31 = w₁
  have hm : w₁ / 2 ^ 24 % 128 = 0x46 := by omega
  have f0 : fld w₁ 18 6 = d := fld_eq (by omega)
  have f1 : fld w₁ 12 6 = a := fld_eq (by omega)
  have f2 : fld w₁ 2 4 = t := fld_eq (by omega)
  obtain rfl : e₁ = 1 := by simpa using (show (e₁ == 1) = true from he)
  rw [candidate_vec hm (by decide)]
  rw [vecOf46_eq hm]
  have hs : w₁ / 2 ^ 6 % 64 = 0x09 := by omega
  unfold vecOf46
  rw [hs]
  show some (Instr.vrint (fld w₁ 18 6) (fld w₁ 12 6) (fld w₁ 2 4)) = _
  rw [f0, f1, f2]

theorem vcmp (d : BitVec 6) (a : BitVec 6) (b : BitVec 6) (t : BitVec 4) (c : BitVec 2) : Statement (.vcmp d a b t c) := by
  have h0 := d.isLt; have h1 := a.isLt; have h2 := b.isLt; have h3 := t.isLt; have h4 := c.isLt
  have e0 : encodeWord (.vcmp d a b t c) = 0x47000000 + d.toNat * 2 ^ 18 + a.toNat * 2 ^ 12 + b.toNat * 2 ^ 6 + t.toNat * 2 ^ 2 + c.toNat * 2 ^ 0 := by
    show word 0x47000000 [put d 18, put a 12, put b 6, put t 2, put c 0] = _
    rw [word_cons, word_cons, word_cons, word_cons, word_cons, word_nil, put_eq, put_eq, put_eq, put_eq, put_eq]
  refine roundTrips_word rfl (by omega) fun e₁ he hw k₁ hk => ?_
  rw [e0]
  clear e0
  generalize hW : 0x47000000 + d.toNat * 2 ^ 18 + a.toNat * 2 ^ 12 + b.toNat * 2 ^ 6 + t.toNat * 2 ^ 2 + c.toNat * 2 ^ 0 + k₁ * 2 ^ 31 = w₁
  have hm : w₁ / 2 ^ 24 % 128 = 0x47 := by omega
  have f0 : fld w₁ 18 6 = d := fld_eq (by omega)
  have f1 : fld w₁ 12 6 = a := fld_eq (by omega)
  have f2 : fld w₁ 6 6 = b := fld_eq (by omega)
  have f3 : fld w₁ 2 4 = t := fld_eq (by omega)
  have f4 : fld w₁ 0 2 = c := fld_eq (by omega)
  obtain rfl : e₁ = 1 := by simpa using (show (e₁ == 1) = true from he)
  rw [candidate_vec hm (by decide)]
  unfold vecOf
  rw [hm]
  show some (Instr.vcmp (fld w₁ 18 6) (fld w₁ 12 6) (fld w₁ 6 6) (fld w₁ 2 4) (fld w₁ 0 2)) = _
  rw [f0, f1, f2, f3, f4]

theorem vsel (d : BitVec 6) (a : BitVec 6) (b : BitVec 6) (t : BitVec 4) : Statement (.vsel d a b t) := by
  have h0 := d.isLt; have h1 := a.isLt; have h2 := b.isLt; have h3 := t.isLt
  have e0 : encodeWord (.vsel d a b t) = 0x48000000 + d.toNat * 2 ^ 18 + a.toNat * 2 ^ 12 + b.toNat * 2 ^ 6 + t.toNat * 2 ^ 2 := by
    show word 0x48000000 [put d 18, put a 12, put b 6, put t 2] = _
    rw [word_cons, word_cons, word_cons, word_cons, word_nil, put_eq, put_eq, put_eq, put_eq]
  refine roundTrips_word rfl (by omega) fun e₁ he hw k₁ hk => ?_
  rw [e0]
  clear e0
  generalize hW : 0x48000000 + d.toNat * 2 ^ 18 + a.toNat * 2 ^ 12 + b.toNat * 2 ^ 6 + t.toNat * 2 ^ 2 + k₁ * 2 ^ 31 = w₁
  have hm : w₁ / 2 ^ 24 % 128 = 0x48 := by omega
  have f0 : fld w₁ 18 6 = d := fld_eq (by omega)
  have f1 : fld w₁ 12 6 = a := fld_eq (by omega)
  have f2 : fld w₁ 6 6 = b := fld_eq (by omega)
  have f3 : fld w₁ 2 4 = t := fld_eq (by omega)
  obtain rfl : e₁ = 1 := by simpa using (show (e₁ == 1) = true from he)
  rw [candidate_vec hm (by decide)]
  unfold vecOf
  rw [hm]
  show some (Instr.vsel (fld w₁ 18 6) (fld w₁ 12 6) (fld w₁ 6 6) (fld w₁ 2 4)) = _
  rw [f0, f1, f2, f3]

theorem vselc (d : BitVec 6) (a : BitVec 6) (b : BitVec 6) (t : BitVec 4) : Statement (.vselc d a b t) := by
  have h0 := d.isLt; have h1 := a.isLt; have h2 := b.isLt; have h3 := t.isLt
  have e0 : encodeWord (.vselc d a b t) = 0x49000000 + d.toNat * 2 ^ 18 + a.toNat * 2 ^ 12 + b.toNat * 2 ^ 6 + t.toNat * 2 ^ 2 := by
    show word 0x49000000 [put d 18, put a 12, put b 6, put t 2] = _
    rw [word_cons, word_cons, word_cons, word_cons, word_nil, put_eq, put_eq, put_eq, put_eq]
  refine roundTrips_word rfl (by omega) fun e₁ he hw k₁ hk => ?_
  rw [e0]
  clear e0
  generalize hW : 0x49000000 + d.toNat * 2 ^ 18 + a.toNat * 2 ^ 12 + b.toNat * 2 ^ 6 + t.toNat * 2 ^ 2 + k₁ * 2 ^ 31 = w₁
  have hm : w₁ / 2 ^ 24 % 128 = 0x49 := by omega
  have f0 : fld w₁ 18 6 = d := fld_eq (by omega)
  have f1 : fld w₁ 12 6 = a := fld_eq (by omega)
  have f2 : fld w₁ 6 6 = b := fld_eq (by omega)
  have f3 : fld w₁ 2 4 = t := fld_eq (by omega)
  obtain rfl : e₁ = 1 := by simpa using (show (e₁ == 1) = true from he)
  rw [candidate_vec hm (by decide)]
  unfold vecOf
  rw [hm]
  show some (Instr.vselc (fld w₁ 18 6) (fld w₁ 12 6) (fld w₁ 6 6) (fld w₁ 2 4)) = _
  rw [f0, f1, f2, f3]

theorem viadd (d : BitVec 6) (a : BitVec 6) (b : BitVec 6) (t : BitVec 4) (w : BitVec 2) : Statement (.viadd d a b t w) := by
  have h0 := d.isLt; have h1 := a.isLt; have h2 := b.isLt; have h3 := t.isLt; have h4 := w.isLt
  have e0 : encodeWord (.viadd d a b t w) = 0x4A000000 + d.toNat * 2 ^ 18 + a.toNat * 2 ^ 12 + b.toNat * 2 ^ 6 + t.toNat * 2 ^ 2 + w.toNat * 2 ^ 0 := by
    show word 0x4A000000 [put d 18, put a 12, put b 6, put t 2, put w 0] = _
    rw [word_cons, word_cons, word_cons, word_cons, word_cons, word_nil, put_eq, put_eq, put_eq, put_eq, put_eq]
  refine roundTrips_word rfl (by omega) fun e₁ he hw k₁ hk => ?_
  rw [e0]
  clear e0
  generalize hW : 0x4A000000 + d.toNat * 2 ^ 18 + a.toNat * 2 ^ 12 + b.toNat * 2 ^ 6 + t.toNat * 2 ^ 2 + w.toNat * 2 ^ 0 + k₁ * 2 ^ 31 = w₁
  have hm : w₁ / 2 ^ 24 % 128 = 0x4A := by omega
  have f0 : fld w₁ 18 6 = d := fld_eq (by omega)
  have f1 : fld w₁ 12 6 = a := fld_eq (by omega)
  have f2 : fld w₁ 6 6 = b := fld_eq (by omega)
  have f3 : fld w₁ 2 4 = t := fld_eq (by omega)
  have f4 : fld w₁ 0 2 = w := fld_eq (by omega)
  obtain rfl : e₁ = 1 := by simpa using (show (e₁ == 1) = true from he)
  rw [candidate_vec hm (by decide)]
  unfold vecOf
  rw [hm]
  show some (Instr.viadd (fld w₁ 18 6) (fld w₁ 12 6) (fld w₁ 6 6) (fld w₁ 2 4) (fld w₁ 0 2)) = _
  rw [f0, f1, f2, f3, f4]

theorem visub (d : BitVec 6) (a : BitVec 6) (b : BitVec 6) (t : BitVec 4) (w : BitVec 2) : Statement (.visub d a b t w) := by
  have h0 := d.isLt; have h1 := a.isLt; have h2 := b.isLt; have h3 := t.isLt; have h4 := w.isLt
  have e0 : encodeWord (.visub d a b t w) = 0x4B000000 + d.toNat * 2 ^ 18 + a.toNat * 2 ^ 12 + b.toNat * 2 ^ 6 + t.toNat * 2 ^ 2 + w.toNat * 2 ^ 0 := by
    show word 0x4B000000 [put d 18, put a 12, put b 6, put t 2, put w 0] = _
    rw [word_cons, word_cons, word_cons, word_cons, word_cons, word_nil, put_eq, put_eq, put_eq, put_eq, put_eq]
  refine roundTrips_word rfl (by omega) fun e₁ he hw k₁ hk => ?_
  rw [e0]
  clear e0
  generalize hW : 0x4B000000 + d.toNat * 2 ^ 18 + a.toNat * 2 ^ 12 + b.toNat * 2 ^ 6 + t.toNat * 2 ^ 2 + w.toNat * 2 ^ 0 + k₁ * 2 ^ 31 = w₁
  have hm : w₁ / 2 ^ 24 % 128 = 0x4B := by omega
  have f0 : fld w₁ 18 6 = d := fld_eq (by omega)
  have f1 : fld w₁ 12 6 = a := fld_eq (by omega)
  have f2 : fld w₁ 6 6 = b := fld_eq (by omega)
  have f3 : fld w₁ 2 4 = t := fld_eq (by omega)
  have f4 : fld w₁ 0 2 = w := fld_eq (by omega)
  obtain rfl : e₁ = 1 := by simpa using (show (e₁ == 1) = true from he)
  rw [candidate_vec hm (by decide)]
  unfold vecOf
  rw [hm]
  show some (Instr.visub (fld w₁ 18 6) (fld w₁ 12 6) (fld w₁ 6 6) (fld w₁ 2 4) (fld w₁ 0 2)) = _
  rw [f0, f1, f2, f3, f4]

theorem vimul (d : BitVec 6) (a : BitVec 6) (b : BitVec 6) (t : BitVec 4) : Statement (.vimul d a b t) := by
  have h0 := d.isLt; have h1 := a.isLt; have h2 := b.isLt; have h3 := t.isLt
  have e0 : encodeWord (.vimul d a b t) = 0x4C000000 + d.toNat * 2 ^ 18 + a.toNat * 2 ^ 12 + b.toNat * 2 ^ 6 + t.toNat * 2 ^ 2 := by
    show word 0x4C000000 [put d 18, put a 12, put b 6, put t 2] = _
    rw [word_cons, word_cons, word_cons, word_cons, word_nil, put_eq, put_eq, put_eq, put_eq]
  refine roundTrips_word rfl (by omega) fun e₁ he hw k₁ hk => ?_
  rw [e0]
  clear e0
  generalize hW : 0x4C000000 + d.toNat * 2 ^ 18 + a.toNat * 2 ^ 12 + b.toNat * 2 ^ 6 + t.toNat * 2 ^ 2 + k₁ * 2 ^ 31 = w₁
  have hm : w₁ / 2 ^ 24 % 128 = 0x4C := by omega
  have f0 : fld w₁ 18 6 = d := fld_eq (by omega)
  have f1 : fld w₁ 12 6 = a := fld_eq (by omega)
  have f2 : fld w₁ 6 6 = b := fld_eq (by omega)
  have f3 : fld w₁ 2 4 = t := fld_eq (by omega)
  obtain rfl : e₁ = 1 := by simpa using (show (e₁ == 1) = true from he)
  rw [candidate_vec hm (by decide)]
  rw [vecOf4C_eq hm]
  have hs : w₁ % 4 = 0x00 := by omega
  unfold vecOf4C
  rw [hs]
  show some (Instr.vimul (fld w₁ 18 6) (fld w₁ 12 6) (fld w₁ 6 6) (fld w₁ 2 4)) = _
  rw [f0, f1, f2, f3]

theorem vimulh (d : BitVec 6) (a : BitVec 6) (b : BitVec 6) (t : BitVec 4) : Statement (.vimulh d a b t) := by
  have h0 := d.isLt; have h1 := a.isLt; have h2 := b.isLt; have h3 := t.isLt
  have e0 : encodeWord (.vimulh d a b t) = 0x4C000001 + d.toNat * 2 ^ 18 + a.toNat * 2 ^ 12 + b.toNat * 2 ^ 6 + t.toNat * 2 ^ 2 := by
    show word 0x4C000001 [put d 18, put a 12, put b 6, put t 2] = _
    rw [word_cons, word_cons, word_cons, word_cons, word_nil, put_eq, put_eq, put_eq, put_eq]
  refine roundTrips_word rfl (by omega) fun e₁ he hw k₁ hk => ?_
  rw [e0]
  clear e0
  generalize hW : 0x4C000001 + d.toNat * 2 ^ 18 + a.toNat * 2 ^ 12 + b.toNat * 2 ^ 6 + t.toNat * 2 ^ 2 + k₁ * 2 ^ 31 = w₁
  have hm : w₁ / 2 ^ 24 % 128 = 0x4C := by omega
  have f0 : fld w₁ 18 6 = d := fld_eq (by omega)
  have f1 : fld w₁ 12 6 = a := fld_eq (by omega)
  have f2 : fld w₁ 6 6 = b := fld_eq (by omega)
  have f3 : fld w₁ 2 4 = t := fld_eq (by omega)
  obtain rfl : e₁ = 1 := by simpa using (show (e₁ == 1) = true from he)
  rw [candidate_vec hm (by decide)]
  rw [vecOf4C_eq hm]
  have hs : w₁ % 4 = 0x01 := by omega
  unfold vecOf4C
  rw [hs]
  show some (Instr.vimulh (fld w₁ 18 6) (fld w₁ 12 6) (fld w₁ 6 6) (fld w₁ 2 4)) = _
  rw [f0, f1, f2, f3]

theorem vimulhu (d : BitVec 6) (a : BitVec 6) (b : BitVec 6) (t : BitVec 4) : Statement (.vimulhu d a b t) := by
  have h0 := d.isLt; have h1 := a.isLt; have h2 := b.isLt; have h3 := t.isLt
  have e0 : encodeWord (.vimulhu d a b t) = 0x4C000002 + d.toNat * 2 ^ 18 + a.toNat * 2 ^ 12 + b.toNat * 2 ^ 6 + t.toNat * 2 ^ 2 := by
    show word 0x4C000002 [put d 18, put a 12, put b 6, put t 2] = _
    rw [word_cons, word_cons, word_cons, word_cons, word_nil, put_eq, put_eq, put_eq, put_eq]
  refine roundTrips_word rfl (by omega) fun e₁ he hw k₁ hk => ?_
  rw [e0]
  clear e0
  generalize hW : 0x4C000002 + d.toNat * 2 ^ 18 + a.toNat * 2 ^ 12 + b.toNat * 2 ^ 6 + t.toNat * 2 ^ 2 + k₁ * 2 ^ 31 = w₁
  have hm : w₁ / 2 ^ 24 % 128 = 0x4C := by omega
  have f0 : fld w₁ 18 6 = d := fld_eq (by omega)
  have f1 : fld w₁ 12 6 = a := fld_eq (by omega)
  have f2 : fld w₁ 6 6 = b := fld_eq (by omega)
  have f3 : fld w₁ 2 4 = t := fld_eq (by omega)
  obtain rfl : e₁ = 1 := by simpa using (show (e₁ == 1) = true from he)
  rw [candidate_vec hm (by decide)]
  rw [vecOf4C_eq hm]
  have hs : w₁ % 4 = 0x02 := by omega
  unfold vecOf4C
  rw [hs]
  show some (Instr.vimulhu (fld w₁ 18 6) (fld w₁ 12 6) (fld w₁ 6 6) (fld w₁ 2 4)) = _
  rw [f0, f1, f2, f3]

theorem vand (d : BitVec 6) (a : BitVec 6) (b : BitVec 6) (t : BitVec 4) : Statement (.vand d a b t) := by
  have h0 := d.isLt; have h1 := a.isLt; have h2 := b.isLt; have h3 := t.isLt
  have e0 : encodeWord (.vand d a b t) = 0x4D000000 + d.toNat * 2 ^ 18 + a.toNat * 2 ^ 12 + b.toNat * 2 ^ 6 + t.toNat * 2 ^ 2 := by
    show word 0x4D000000 [put d 18, put a 12, put b 6, put t 2] = _
    rw [word_cons, word_cons, word_cons, word_cons, word_nil, put_eq, put_eq, put_eq, put_eq]
  refine roundTrips_word rfl (by omega) fun e₁ he hw k₁ hk => ?_
  rw [e0]
  clear e0
  generalize hW : 0x4D000000 + d.toNat * 2 ^ 18 + a.toNat * 2 ^ 12 + b.toNat * 2 ^ 6 + t.toNat * 2 ^ 2 + k₁ * 2 ^ 31 = w₁
  have hm : w₁ / 2 ^ 24 % 128 = 0x4D := by omega
  have f0 : fld w₁ 18 6 = d := fld_eq (by omega)
  have f1 : fld w₁ 12 6 = a := fld_eq (by omega)
  have f2 : fld w₁ 6 6 = b := fld_eq (by omega)
  have f3 : fld w₁ 2 4 = t := fld_eq (by omega)
  obtain rfl : e₁ = 1 := by simpa using (show (e₁ == 1) = true from he)
  rw [candidate_vec hm (by decide)]
  rw [vecOf4D_eq hm]
  have hs : w₁ % 4 = 0x00 := by omega
  unfold vecOf4D
  rw [hs]
  show some (Instr.vand (fld w₁ 18 6) (fld w₁ 12 6) (fld w₁ 6 6) (fld w₁ 2 4)) = _
  rw [f0, f1, f2, f3]

theorem vor (d : BitVec 6) (a : BitVec 6) (b : BitVec 6) (t : BitVec 4) : Statement (.vor d a b t) := by
  have h0 := d.isLt; have h1 := a.isLt; have h2 := b.isLt; have h3 := t.isLt
  have e0 : encodeWord (.vor d a b t) = 0x4D000001 + d.toNat * 2 ^ 18 + a.toNat * 2 ^ 12 + b.toNat * 2 ^ 6 + t.toNat * 2 ^ 2 := by
    show word 0x4D000001 [put d 18, put a 12, put b 6, put t 2] = _
    rw [word_cons, word_cons, word_cons, word_cons, word_nil, put_eq, put_eq, put_eq, put_eq]
  refine roundTrips_word rfl (by omega) fun e₁ he hw k₁ hk => ?_
  rw [e0]
  clear e0
  generalize hW : 0x4D000001 + d.toNat * 2 ^ 18 + a.toNat * 2 ^ 12 + b.toNat * 2 ^ 6 + t.toNat * 2 ^ 2 + k₁ * 2 ^ 31 = w₁
  have hm : w₁ / 2 ^ 24 % 128 = 0x4D := by omega
  have f0 : fld w₁ 18 6 = d := fld_eq (by omega)
  have f1 : fld w₁ 12 6 = a := fld_eq (by omega)
  have f2 : fld w₁ 6 6 = b := fld_eq (by omega)
  have f3 : fld w₁ 2 4 = t := fld_eq (by omega)
  obtain rfl : e₁ = 1 := by simpa using (show (e₁ == 1) = true from he)
  rw [candidate_vec hm (by decide)]
  rw [vecOf4D_eq hm]
  have hs : w₁ % 4 = 0x01 := by omega
  unfold vecOf4D
  rw [hs]
  show some (Instr.vor (fld w₁ 18 6) (fld w₁ 12 6) (fld w₁ 6 6) (fld w₁ 2 4)) = _
  rw [f0, f1, f2, f3]

theorem vxor (d : BitVec 6) (a : BitVec 6) (b : BitVec 6) (t : BitVec 4) : Statement (.vxor d a b t) := by
  have h0 := d.isLt; have h1 := a.isLt; have h2 := b.isLt; have h3 := t.isLt
  have e0 : encodeWord (.vxor d a b t) = 0x4D000002 + d.toNat * 2 ^ 18 + a.toNat * 2 ^ 12 + b.toNat * 2 ^ 6 + t.toNat * 2 ^ 2 := by
    show word 0x4D000002 [put d 18, put a 12, put b 6, put t 2] = _
    rw [word_cons, word_cons, word_cons, word_cons, word_nil, put_eq, put_eq, put_eq, put_eq]
  refine roundTrips_word rfl (by omega) fun e₁ he hw k₁ hk => ?_
  rw [e0]
  clear e0
  generalize hW : 0x4D000002 + d.toNat * 2 ^ 18 + a.toNat * 2 ^ 12 + b.toNat * 2 ^ 6 + t.toNat * 2 ^ 2 + k₁ * 2 ^ 31 = w₁
  have hm : w₁ / 2 ^ 24 % 128 = 0x4D := by omega
  have f0 : fld w₁ 18 6 = d := fld_eq (by omega)
  have f1 : fld w₁ 12 6 = a := fld_eq (by omega)
  have f2 : fld w₁ 6 6 = b := fld_eq (by omega)
  have f3 : fld w₁ 2 4 = t := fld_eq (by omega)
  obtain rfl : e₁ = 1 := by simpa using (show (e₁ == 1) = true from he)
  rw [candidate_vec hm (by decide)]
  rw [vecOf4D_eq hm]
  have hs : w₁ % 4 = 0x02 := by omega
  unfold vecOf4D
  rw [hs]
  show some (Instr.vxor (fld w₁ 18 6) (fld w₁ 12 6) (fld w₁ 6 6) (fld w₁ 2 4)) = _
  rw [f0, f1, f2, f3]

theorem vandn (d : BitVec 6) (a : BitVec 6) (b : BitVec 6) (t : BitVec 4) : Statement (.vandn d a b t) := by
  have h0 := d.isLt; have h1 := a.isLt; have h2 := b.isLt; have h3 := t.isLt
  have e0 : encodeWord (.vandn d a b t) = 0x4D000003 + d.toNat * 2 ^ 18 + a.toNat * 2 ^ 12 + b.toNat * 2 ^ 6 + t.toNat * 2 ^ 2 := by
    show word 0x4D000003 [put d 18, put a 12, put b 6, put t 2] = _
    rw [word_cons, word_cons, word_cons, word_cons, word_nil, put_eq, put_eq, put_eq, put_eq]
  refine roundTrips_word rfl (by omega) fun e₁ he hw k₁ hk => ?_
  rw [e0]
  clear e0
  generalize hW : 0x4D000003 + d.toNat * 2 ^ 18 + a.toNat * 2 ^ 12 + b.toNat * 2 ^ 6 + t.toNat * 2 ^ 2 + k₁ * 2 ^ 31 = w₁
  have hm : w₁ / 2 ^ 24 % 128 = 0x4D := by omega
  have f0 : fld w₁ 18 6 = d := fld_eq (by omega)
  have f1 : fld w₁ 12 6 = a := fld_eq (by omega)
  have f2 : fld w₁ 6 6 = b := fld_eq (by omega)
  have f3 : fld w₁ 2 4 = t := fld_eq (by omega)
  obtain rfl : e₁ = 1 := by simpa using (show (e₁ == 1) = true from he)
  rw [candidate_vec hm (by decide)]
  rw [vecOf4D_eq hm]
  have hs : w₁ % 4 = 0x03 := by omega
  unfold vecOf4D
  rw [hs]
  show some (Instr.vandn (fld w₁ 18 6) (fld w₁ 12 6) (fld w₁ 6 6) (fld w₁ 2 4)) = _
  rw [f0, f1, f2, f3]

theorem vshl (d : BitVec 6) (a : BitVec 6) (b : BitVec 6) (t : BitVec 4) : Statement (.vshl d a b t) := by
  have h0 := d.isLt; have h1 := a.isLt; have h2 := b.isLt; have h3 := t.isLt
  have e0 : encodeWord (.vshl d a b t) = 0x4E000000 + d.toNat * 2 ^ 18 + a.toNat * 2 ^ 12 + b.toNat * 2 ^ 6 + t.toNat * 2 ^ 2 := by
    show word 0x4E000000 [put d 18, put a 12, put b 6, put t 2] = _
    rw [word_cons, word_cons, word_cons, word_cons, word_nil, put_eq, put_eq, put_eq, put_eq]
  refine roundTrips_word rfl (by omega) fun e₁ he hw k₁ hk => ?_
  rw [e0]
  clear e0
  generalize hW : 0x4E000000 + d.toNat * 2 ^ 18 + a.toNat * 2 ^ 12 + b.toNat * 2 ^ 6 + t.toNat * 2 ^ 2 + k₁ * 2 ^ 31 = w₁
  have hm : w₁ / 2 ^ 24 % 128 = 0x4E := by omega
  have f0 : fld w₁ 18 6 = d := fld_eq (by omega)
  have f1 : fld w₁ 12 6 = a := fld_eq (by omega)
  have f2 : fld w₁ 6 6 = b := fld_eq (by omega)
  have f3 : fld w₁ 2 4 = t := fld_eq (by omega)
  obtain rfl : e₁ = 1 := by simpa using (show (e₁ == 1) = true from he)
  rw [candidate_vec hm (by decide)]
  rw [vecOf4E_eq hm]
  have hs : w₁ % 4 = 0x00 := by omega
  unfold vecOf4E
  rw [hs]
  show some (Instr.vshl (fld w₁ 18 6) (fld w₁ 12 6) (fld w₁ 6 6) (fld w₁ 2 4)) = _
  rw [f0, f1, f2, f3]

theorem vshr (d : BitVec 6) (a : BitVec 6) (b : BitVec 6) (t : BitVec 4) : Statement (.vshr d a b t) := by
  have h0 := d.isLt; have h1 := a.isLt; have h2 := b.isLt; have h3 := t.isLt
  have e0 : encodeWord (.vshr d a b t) = 0x4E000001 + d.toNat * 2 ^ 18 + a.toNat * 2 ^ 12 + b.toNat * 2 ^ 6 + t.toNat * 2 ^ 2 := by
    show word 0x4E000001 [put d 18, put a 12, put b 6, put t 2] = _
    rw [word_cons, word_cons, word_cons, word_cons, word_nil, put_eq, put_eq, put_eq, put_eq]
  refine roundTrips_word rfl (by omega) fun e₁ he hw k₁ hk => ?_
  rw [e0]
  clear e0
  generalize hW : 0x4E000001 + d.toNat * 2 ^ 18 + a.toNat * 2 ^ 12 + b.toNat * 2 ^ 6 + t.toNat * 2 ^ 2 + k₁ * 2 ^ 31 = w₁
  have hm : w₁ / 2 ^ 24 % 128 = 0x4E := by omega
  have f0 : fld w₁ 18 6 = d := fld_eq (by omega)
  have f1 : fld w₁ 12 6 = a := fld_eq (by omega)
  have f2 : fld w₁ 6 6 = b := fld_eq (by omega)
  have f3 : fld w₁ 2 4 = t := fld_eq (by omega)
  obtain rfl : e₁ = 1 := by simpa using (show (e₁ == 1) = true from he)
  rw [candidate_vec hm (by decide)]
  rw [vecOf4E_eq hm]
  have hs : w₁ % 4 = 0x01 := by omega
  unfold vecOf4E
  rw [hs]
  show some (Instr.vshr (fld w₁ 18 6) (fld w₁ 12 6) (fld w₁ 6 6) (fld w₁ 2 4)) = _
  rw [f0, f1, f2, f3]

theorem vsra (d : BitVec 6) (a : BitVec 6) (b : BitVec 6) (t : BitVec 4) : Statement (.vsra d a b t) := by
  have h0 := d.isLt; have h1 := a.isLt; have h2 := b.isLt; have h3 := t.isLt
  have e0 : encodeWord (.vsra d a b t) = 0x4E000002 + d.toNat * 2 ^ 18 + a.toNat * 2 ^ 12 + b.toNat * 2 ^ 6 + t.toNat * 2 ^ 2 := by
    show word 0x4E000002 [put d 18, put a 12, put b 6, put t 2] = _
    rw [word_cons, word_cons, word_cons, word_cons, word_nil, put_eq, put_eq, put_eq, put_eq]
  refine roundTrips_word rfl (by omega) fun e₁ he hw k₁ hk => ?_
  rw [e0]
  clear e0
  generalize hW : 0x4E000002 + d.toNat * 2 ^ 18 + a.toNat * 2 ^ 12 + b.toNat * 2 ^ 6 + t.toNat * 2 ^ 2 + k₁ * 2 ^ 31 = w₁
  have hm : w₁ / 2 ^ 24 % 128 = 0x4E := by omega
  have f0 : fld w₁ 18 6 = d := fld_eq (by omega)
  have f1 : fld w₁ 12 6 = a := fld_eq (by omega)
  have f2 : fld w₁ 6 6 = b := fld_eq (by omega)
  have f3 : fld w₁ 2 4 = t := fld_eq (by omega)
  obtain rfl : e₁ = 1 := by simpa using (show (e₁ == 1) = true from he)
  rw [candidate_vec hm (by decide)]
  rw [vecOf4E_eq hm]
  have hs : w₁ % 4 = 0x02 := by omega
  unfold vecOf4E
  rw [hs]
  show some (Instr.vsra (fld w₁ 18 6) (fld w₁ 12 6) (fld w₁ 6 6) (fld w₁ 2 4)) = _
  rw [f0, f1, f2, f3]

theorem vimin (d : BitVec 6) (a : BitVec 6) (b : BitVec 6) (t : BitVec 4) : Statement (.vimin d a b t) := by
  have h0 := d.isLt; have h1 := a.isLt; have h2 := b.isLt; have h3 := t.isLt
  have e0 : encodeWord (.vimin d a b t) = 0x4F000000 + d.toNat * 2 ^ 18 + a.toNat * 2 ^ 12 + b.toNat * 2 ^ 6 + t.toNat * 2 ^ 2 := by
    show word 0x4F000000 [put d 18, put a 12, put b 6, put t 2] = _
    rw [word_cons, word_cons, word_cons, word_cons, word_nil, put_eq, put_eq, put_eq, put_eq]
  refine roundTrips_word rfl (by omega) fun e₁ he hw k₁ hk => ?_
  rw [e0]
  clear e0
  generalize hW : 0x4F000000 + d.toNat * 2 ^ 18 + a.toNat * 2 ^ 12 + b.toNat * 2 ^ 6 + t.toNat * 2 ^ 2 + k₁ * 2 ^ 31 = w₁
  have hm : w₁ / 2 ^ 24 % 128 = 0x4F := by omega
  have f0 : fld w₁ 18 6 = d := fld_eq (by omega)
  have f1 : fld w₁ 12 6 = a := fld_eq (by omega)
  have f2 : fld w₁ 6 6 = b := fld_eq (by omega)
  have f3 : fld w₁ 2 4 = t := fld_eq (by omega)
  obtain rfl : e₁ = 1 := by simpa using (show (e₁ == 1) = true from he)
  rw [candidate_vec hm (by decide)]
  rw [vecOf4F_eq hm]
  have hs : w₁ % 4 = 0x00 := by omega
  unfold vecOf4F
  rw [hs]
  show some (Instr.vimin (fld w₁ 18 6) (fld w₁ 12 6) (fld w₁ 6 6) (fld w₁ 2 4)) = _
  rw [f0, f1, f2, f3]

theorem vimax (d : BitVec 6) (a : BitVec 6) (b : BitVec 6) (t : BitVec 4) : Statement (.vimax d a b t) := by
  have h0 := d.isLt; have h1 := a.isLt; have h2 := b.isLt; have h3 := t.isLt
  have e0 : encodeWord (.vimax d a b t) = 0x4F000001 + d.toNat * 2 ^ 18 + a.toNat * 2 ^ 12 + b.toNat * 2 ^ 6 + t.toNat * 2 ^ 2 := by
    show word 0x4F000001 [put d 18, put a 12, put b 6, put t 2] = _
    rw [word_cons, word_cons, word_cons, word_cons, word_nil, put_eq, put_eq, put_eq, put_eq]
  refine roundTrips_word rfl (by omega) fun e₁ he hw k₁ hk => ?_
  rw [e0]
  clear e0
  generalize hW : 0x4F000001 + d.toNat * 2 ^ 18 + a.toNat * 2 ^ 12 + b.toNat * 2 ^ 6 + t.toNat * 2 ^ 2 + k₁ * 2 ^ 31 = w₁
  have hm : w₁ / 2 ^ 24 % 128 = 0x4F := by omega
  have f0 : fld w₁ 18 6 = d := fld_eq (by omega)
  have f1 : fld w₁ 12 6 = a := fld_eq (by omega)
  have f2 : fld w₁ 6 6 = b := fld_eq (by omega)
  have f3 : fld w₁ 2 4 = t := fld_eq (by omega)
  obtain rfl : e₁ = 1 := by simpa using (show (e₁ == 1) = true from he)
  rw [candidate_vec hm (by decide)]
  rw [vecOf4F_eq hm]
  have hs : w₁ % 4 = 0x01 := by omega
  unfold vecOf4F
  rw [hs]
  show some (Instr.vimax (fld w₁ 18 6) (fld w₁ 12 6) (fld w₁ 6 6) (fld w₁ 2 4)) = _
  rw [f0, f1, f2, f3]

theorem viminu (d : BitVec 6) (a : BitVec 6) (b : BitVec 6) (t : BitVec 4) : Statement (.viminu d a b t) := by
  have h0 := d.isLt; have h1 := a.isLt; have h2 := b.isLt; have h3 := t.isLt
  have e0 : encodeWord (.viminu d a b t) = 0x4F000002 + d.toNat * 2 ^ 18 + a.toNat * 2 ^ 12 + b.toNat * 2 ^ 6 + t.toNat * 2 ^ 2 := by
    show word 0x4F000002 [put d 18, put a 12, put b 6, put t 2] = _
    rw [word_cons, word_cons, word_cons, word_cons, word_nil, put_eq, put_eq, put_eq, put_eq]
  refine roundTrips_word rfl (by omega) fun e₁ he hw k₁ hk => ?_
  rw [e0]
  clear e0
  generalize hW : 0x4F000002 + d.toNat * 2 ^ 18 + a.toNat * 2 ^ 12 + b.toNat * 2 ^ 6 + t.toNat * 2 ^ 2 + k₁ * 2 ^ 31 = w₁
  have hm : w₁ / 2 ^ 24 % 128 = 0x4F := by omega
  have f0 : fld w₁ 18 6 = d := fld_eq (by omega)
  have f1 : fld w₁ 12 6 = a := fld_eq (by omega)
  have f2 : fld w₁ 6 6 = b := fld_eq (by omega)
  have f3 : fld w₁ 2 4 = t := fld_eq (by omega)
  obtain rfl : e₁ = 1 := by simpa using (show (e₁ == 1) = true from he)
  rw [candidate_vec hm (by decide)]
  rw [vecOf4F_eq hm]
  have hs : w₁ % 4 = 0x02 := by omega
  unfold vecOf4F
  rw [hs]
  show some (Instr.viminu (fld w₁ 18 6) (fld w₁ 12 6) (fld w₁ 6 6) (fld w₁ 2 4)) = _
  rw [f0, f1, f2, f3]

theorem vimaxu (d : BitVec 6) (a : BitVec 6) (b : BitVec 6) (t : BitVec 4) : Statement (.vimaxu d a b t) := by
  have h0 := d.isLt; have h1 := a.isLt; have h2 := b.isLt; have h3 := t.isLt
  have e0 : encodeWord (.vimaxu d a b t) = 0x4F000003 + d.toNat * 2 ^ 18 + a.toNat * 2 ^ 12 + b.toNat * 2 ^ 6 + t.toNat * 2 ^ 2 := by
    show word 0x4F000003 [put d 18, put a 12, put b 6, put t 2] = _
    rw [word_cons, word_cons, word_cons, word_cons, word_nil, put_eq, put_eq, put_eq, put_eq]
  refine roundTrips_word rfl (by omega) fun e₁ he hw k₁ hk => ?_
  rw [e0]
  clear e0
  generalize hW : 0x4F000003 + d.toNat * 2 ^ 18 + a.toNat * 2 ^ 12 + b.toNat * 2 ^ 6 + t.toNat * 2 ^ 2 + k₁ * 2 ^ 31 = w₁
  have hm : w₁ / 2 ^ 24 % 128 = 0x4F := by omega
  have f0 : fld w₁ 18 6 = d := fld_eq (by omega)
  have f1 : fld w₁ 12 6 = a := fld_eq (by omega)
  have f2 : fld w₁ 6 6 = b := fld_eq (by omega)
  have f3 : fld w₁ 2 4 = t := fld_eq (by omega)
  obtain rfl : e₁ = 1 := by simpa using (show (e₁ == 1) = true from he)
  rw [candidate_vec hm (by decide)]
  rw [vecOf4F_eq hm]
  have hs : w₁ % 4 = 0x03 := by omega
  unfold vecOf4F
  rw [hs]
  show some (Instr.vimaxu (fld w₁ 18 6) (fld w₁ 12 6) (fld w₁ 6 6) (fld w₁ 2 4)) = _
  rw [f0, f1, f2, f3]

theorem vcvt (d : BitVec 6) (a : BitVec 6) (o : BitVec 4) (x : BitVec 1) (i : BitVec 4) : Statement (.vcvt d a o x i) := by
  have h0 := d.isLt; have h1 := a.isLt; have h2 := o.isLt; have h3 := x.isLt; have h4 := i.isLt
  have e0 : encodeWord (.vcvt d a o x i) = 0x50000000 + d.toNat * 2 ^ 18 + a.toNat * 2 ^ 12 + o.toNat * 2 ^ 8 + x.toNat * 2 ^ 7 + i.toNat * 2 ^ 2 := by
    show word 0x50000000 [put d 18, put a 12, put o 8, put x 7, put i 2] = _
    rw [word_cons, word_cons, word_cons, word_cons, word_cons, word_nil, put_eq, put_eq, put_eq, put_eq, put_eq]
  refine roundTrips_word rfl (by omega) fun e₁ he hw k₁ hk => ?_
  rw [e0]
  clear e0
  generalize hW : 0x50000000 + d.toNat * 2 ^ 18 + a.toNat * 2 ^ 12 + o.toNat * 2 ^ 8 + x.toNat * 2 ^ 7 + i.toNat * 2 ^ 2 + k₁ * 2 ^ 31 = w₁
  have hm : w₁ / 2 ^ 24 % 128 = 0x50 := by omega
  have f0 : fld w₁ 18 6 = d := fld_eq (by omega)
  have f1 : fld w₁ 12 6 = a := fld_eq (by omega)
  have f2 : fld w₁ 8 4 = o := fld_eq (by omega)
  have f3 : fld w₁ 7 1 = x := fld_eq (by omega)
  have f4 : fld w₁ 2 4 = i := fld_eq (by omega)
  obtain rfl : e₁ = 1 := by simpa using (show (e₁ == 1) = true from he)
  rw [candidate_vec hm (by decide)]
  unfold vecOf
  rw [hm]
  show some (Instr.vcvt (fld w₁ 18 6) (fld w₁ 12 6) (fld w₁ 8 4) (fld w₁ 7 1) (fld w₁ 2 4)) = _
  rw [f0, f1, f2, f3, f4]

theorem vqblk (d : BitVec 6) (a : BitVec 6) (v : BitVec 6) (t : BitVec 4) : Statement (.vqblk d a v t) := by
  have h0 := d.isLt; have h1 := a.isLt; have h2 := v.isLt; have h3 := t.isLt
  have e0 : encodeWord (.vqblk d a v t) = 0x51000000 + d.toNat * 2 ^ 18 + a.toNat * 2 ^ 12 + v.toNat * 2 ^ 6 + t.toNat * 2 ^ 2 := by
    show word 0x51000000 [put d 18, put a 12, put v 6, put t 2] = _
    rw [word_cons, word_cons, word_cons, word_cons, word_nil, put_eq, put_eq, put_eq, put_eq]
  refine roundTrips_word rfl (by omega) fun e₁ he hw k₁ hk => ?_
  rw [e0]
  clear e0
  generalize hW : 0x51000000 + d.toNat * 2 ^ 18 + a.toNat * 2 ^ 12 + v.toNat * 2 ^ 6 + t.toNat * 2 ^ 2 + k₁ * 2 ^ 31 = w₁
  have hm : w₁ / 2 ^ 24 % 128 = 0x51 := by omega
  have f0 : fld w₁ 18 6 = d := fld_eq (by omega)
  have f1 : fld w₁ 12 6 = a := fld_eq (by omega)
  have f2 : fld w₁ 6 6 = v := fld_eq (by omega)
  have f3 : fld w₁ 2 4 = t := fld_eq (by omega)
  obtain rfl : e₁ = 1 := by simpa using (show (e₁ == 1) = true from he)
  rw [candidate_vec hm (by decide)]
  unfold vecOf
  rw [hm]
  show some (Instr.vqblk (fld w₁ 18 6) (fld w₁ 12 6) (fld w₁ 6 6) (fld w₁ 2 4)) = _
  rw [f0, f1, f2, f3]

theorem vdqblk (d : BitVec 6) (a : BitVec 6) (v : BitVec 6) (t : BitVec 4) : Statement (.vdqblk d a v t) := by
  have h0 := d.isLt; have h1 := a.isLt; have h2 := v.isLt; have h3 := t.isLt
  have e0 : encodeWord (.vdqblk d a v t) = 0x52000000 + d.toNat * 2 ^ 18 + a.toNat * 2 ^ 12 + v.toNat * 2 ^ 6 + t.toNat * 2 ^ 2 := by
    show word 0x52000000 [put d 18, put a 12, put v 6, put t 2] = _
    rw [word_cons, word_cons, word_cons, word_cons, word_nil, put_eq, put_eq, put_eq, put_eq]
  refine roundTrips_word rfl (by omega) fun e₁ he hw k₁ hk => ?_
  rw [e0]
  clear e0
  generalize hW : 0x52000000 + d.toNat * 2 ^ 18 + a.toNat * 2 ^ 12 + v.toNat * 2 ^ 6 + t.toNat * 2 ^ 2 + k₁ * 2 ^ 31 = w₁
  have hm : w₁ / 2 ^ 24 % 128 = 0x52 := by omega
  have f0 : fld w₁ 18 6 = d := fld_eq (by omega)
  have f1 : fld w₁ 12 6 = a := fld_eq (by omega)
  have f2 : fld w₁ 6 6 = v := fld_eq (by omega)
  have f3 : fld w₁ 2 4 = t := fld_eq (by omega)
  obtain rfl : e₁ = 1 := by simpa using (show (e₁ == 1) = true from he)
  rw [candidate_vec hm (by decide)]
  unfold vecOf
  rw [hm]
  show some (Instr.vdqblk (fld w₁ 18 6) (fld w₁ 12 6) (fld w₁ 6 6) (fld w₁ 2 4)) = _
  rw [f0, f1, f2, f3]

theorem vpsum (d : BitVec 6) (a : BitVec 6) (t : BitVec 4) : Statement (.vpsum d a t) := by
  have h0 := d.isLt; have h1 := a.isLt; have h2 := t.isLt
  have e0 : encodeWord (.vpsum d a t) = 0x53000000 + d.toNat * 2 ^ 18 + a.toNat * 2 ^ 12 + t.toNat * 2 ^ 2 := by
    show word 0x53000000 [put d 18, put a 12, put t 2] = _
    rw [word_cons, word_cons, word_cons, word_nil, put_eq, put_eq, put_eq]
  refine roundTrips_word rfl (by omega) fun e₁ he hw k₁ hk => ?_
  rw [e0]
  clear e0
  generalize hW : 0x53000000 + d.toNat * 2 ^ 18 + a.toNat * 2 ^ 12 + t.toNat * 2 ^ 2 + k₁ * 2 ^ 31 = w₁
  have hm : w₁ / 2 ^ 24 % 128 = 0x53 := by omega
  have f0 : fld w₁ 18 6 = d := fld_eq (by omega)
  have f1 : fld w₁ 12 6 = a := fld_eq (by omega)
  have f2 : fld w₁ 2 4 = t := fld_eq (by omega)
  obtain rfl : e₁ = 1 := by simpa using (show (e₁ == 1) = true from he)
  rw [candidate_vec hm (by decide)]
  rw [vecOf53_eq hm]
  have hs : w₁ / 2 ^ 6 % 64 = 0x00 := by omega
  unfold vecOf53
  rw [hs]
  show some (Instr.vpsum (fld w₁ 18 6) (fld w₁ 12 6) (fld w₁ 2 4)) = _
  rw [f0, f1, f2]

theorem vpsumx (d : BitVec 6) (a : BitVec 6) (t : BitVec 4) : Statement (.vpsumx d a t) := by
  have h0 := d.isLt; have h1 := a.isLt; have h2 := t.isLt
  have e0 : encodeWord (.vpsumx d a t) = 0x53000040 + d.toNat * 2 ^ 18 + a.toNat * 2 ^ 12 + t.toNat * 2 ^ 2 := by
    show word 0x53000040 [put d 18, put a 12, put t 2] = _
    rw [word_cons, word_cons, word_cons, word_nil, put_eq, put_eq, put_eq]
  refine roundTrips_word rfl (by omega) fun e₁ he hw k₁ hk => ?_
  rw [e0]
  clear e0
  generalize hW : 0x53000040 + d.toNat * 2 ^ 18 + a.toNat * 2 ^ 12 + t.toNat * 2 ^ 2 + k₁ * 2 ^ 31 = w₁
  have hm : w₁ / 2 ^ 24 % 128 = 0x53 := by omega
  have f0 : fld w₁ 18 6 = d := fld_eq (by omega)
  have f1 : fld w₁ 12 6 = a := fld_eq (by omega)
  have f2 : fld w₁ 2 4 = t := fld_eq (by omega)
  obtain rfl : e₁ = 1 := by simpa using (show (e₁ == 1) = true from he)
  rw [candidate_vec hm (by decide)]
  rw [vecOf53_eq hm]
  have hs : w₁ / 2 ^ 6 % 64 = 0x01 := by omega
  unfold vecOf53
  rw [hs]
  show some (Instr.vpsumx (fld w₁ 18 6) (fld w₁ 12 6) (fld w₁ 2 4)) = _
  rw [f0, f1, f2]

theorem vpmax (d : BitVec 6) (a : BitVec 6) (t : BitVec 4) : Statement (.vpmax d a t) := by
  have h0 := d.isLt; have h1 := a.isLt; have h2 := t.isLt
  have e0 : encodeWord (.vpmax d a t) = 0x53000080 + d.toNat * 2 ^ 18 + a.toNat * 2 ^ 12 + t.toNat * 2 ^ 2 := by
    show word 0x53000080 [put d 18, put a 12, put t 2] = _
    rw [word_cons, word_cons, word_cons, word_nil, put_eq, put_eq, put_eq]
  refine roundTrips_word rfl (by omega) fun e₁ he hw k₁ hk => ?_
  rw [e0]
  clear e0
  generalize hW : 0x53000080 + d.toNat * 2 ^ 18 + a.toNat * 2 ^ 12 + t.toNat * 2 ^ 2 + k₁ * 2 ^ 31 = w₁
  have hm : w₁ / 2 ^ 24 % 128 = 0x53 := by omega
  have f0 : fld w₁ 18 6 = d := fld_eq (by omega)
  have f1 : fld w₁ 12 6 = a := fld_eq (by omega)
  have f2 : fld w₁ 2 4 = t := fld_eq (by omega)
  obtain rfl : e₁ = 1 := by simpa using (show (e₁ == 1) = true from he)
  rw [candidate_vec hm (by decide)]
  rw [vecOf53_eq hm]
  have hs : w₁ / 2 ^ 6 % 64 = 0x02 := by omega
  unfold vecOf53
  rw [hs]
  show some (Instr.vpmax (fld w₁ 18 6) (fld w₁ 12 6) (fld w₁ 2 4)) = _
  rw [f0, f1, f2]

theorem vpxor (d : BitVec 6) (a : BitVec 6) (t : BitVec 4) : Statement (.vpxor d a t) := by
  have h0 := d.isLt; have h1 := a.isLt; have h2 := t.isLt
  have e0 : encodeWord (.vpxor d a t) = 0x530000C0 + d.toNat * 2 ^ 18 + a.toNat * 2 ^ 12 + t.toNat * 2 ^ 2 := by
    show word 0x530000C0 [put d 18, put a 12, put t 2] = _
    rw [word_cons, word_cons, word_cons, word_nil, put_eq, put_eq, put_eq]
  refine roundTrips_word rfl (by omega) fun e₁ he hw k₁ hk => ?_
  rw [e0]
  clear e0
  generalize hW : 0x530000C0 + d.toNat * 2 ^ 18 + a.toNat * 2 ^ 12 + t.toNat * 2 ^ 2 + k₁ * 2 ^ 31 = w₁
  have hm : w₁ / 2 ^ 24 % 128 = 0x53 := by omega
  have f0 : fld w₁ 18 6 = d := fld_eq (by omega)
  have f1 : fld w₁ 12 6 = a := fld_eq (by omega)
  have f2 : fld w₁ 2 4 = t := fld_eq (by omega)
  obtain rfl : e₁ = 1 := by simpa using (show (e₁ == 1) = true from he)
  rw [candidate_vec hm (by decide)]
  rw [vecOf53_eq hm]
  have hs : w₁ / 2 ^ 6 % 64 = 0x03 := by omega
  unfold vecOf53
  rw [hs]
  show some (Instr.vpxor (fld w₁ 18 6) (fld w₁ 12 6) (fld w₁ 2 4)) = _
  rw [f0, f1, f2]

theorem vredsum (d : BitVec 6) (a : BitVec 6) (t : BitVec 4) : Statement (.vredsum d a t) := by
  have h0 := d.isLt; have h1 := a.isLt; have h2 := t.isLt
  have e0 : encodeWord (.vredsum d a t) = 0x54000000 + d.toNat * 2 ^ 18 + a.toNat * 2 ^ 12 + t.toNat * 2 ^ 2 := by
    show word 0x54000000 [put d 18, put a 12, put t 2] = _
    rw [word_cons, word_cons, word_cons, word_nil, put_eq, put_eq, put_eq]
  refine roundTrips_word rfl (by omega) fun e₁ he hw k₁ hk => ?_
  rw [e0]
  clear e0
  generalize hW : 0x54000000 + d.toNat * 2 ^ 18 + a.toNat * 2 ^ 12 + t.toNat * 2 ^ 2 + k₁ * 2 ^ 31 = w₁
  have hm : w₁ / 2 ^ 24 % 128 = 0x54 := by omega
  have f0 : fld w₁ 18 6 = d := fld_eq (by omega)
  have f1 : fld w₁ 12 6 = a := fld_eq (by omega)
  have f2 : fld w₁ 2 4 = t := fld_eq (by omega)
  obtain rfl : e₁ = 1 := by simpa using (show (e₁ == 1) = true from he)
  rw [candidate_vec hm (by decide)]
  rw [vecOf54_eq hm]
  have hs : w₁ / 2 ^ 6 % 64 = 0x00 := by omega
  unfold vecOf54
  rw [hs]
  show some (Instr.vredsum (fld w₁ 18 6) (fld w₁ 12 6) (fld w₁ 2 4)) = _
  rw [f0, f1, f2]

theorem vredmax (d : BitVec 6) (a : BitVec 6) (t : BitVec 4) : Statement (.vredmax d a t) := by
  have h0 := d.isLt; have h1 := a.isLt; have h2 := t.isLt
  have e0 : encodeWord (.vredmax d a t) = 0x54000040 + d.toNat * 2 ^ 18 + a.toNat * 2 ^ 12 + t.toNat * 2 ^ 2 := by
    show word 0x54000040 [put d 18, put a 12, put t 2] = _
    rw [word_cons, word_cons, word_cons, word_nil, put_eq, put_eq, put_eq]
  refine roundTrips_word rfl (by omega) fun e₁ he hw k₁ hk => ?_
  rw [e0]
  clear e0
  generalize hW : 0x54000040 + d.toNat * 2 ^ 18 + a.toNat * 2 ^ 12 + t.toNat * 2 ^ 2 + k₁ * 2 ^ 31 = w₁
  have hm : w₁ / 2 ^ 24 % 128 = 0x54 := by omega
  have f0 : fld w₁ 18 6 = d := fld_eq (by omega)
  have f1 : fld w₁ 12 6 = a := fld_eq (by omega)
  have f2 : fld w₁ 2 4 = t := fld_eq (by omega)
  obtain rfl : e₁ = 1 := by simpa using (show (e₁ == 1) = true from he)
  rw [candidate_vec hm (by decide)]
  rw [vecOf54_eq hm]
  have hs : w₁ / 2 ^ 6 % 64 = 0x01 := by omega
  unfold vecOf54
  rw [hs]
  show some (Instr.vredmax (fld w₁ 18 6) (fld w₁ 12 6) (fld w₁ 2 4)) = _
  rw [f0, f1, f2]

theorem vredmin (d : BitVec 6) (a : BitVec 6) (t : BitVec 4) : Statement (.vredmin d a t) := by
  have h0 := d.isLt; have h1 := a.isLt; have h2 := t.isLt
  have e0 : encodeWord (.vredmin d a t) = 0x54000080 + d.toNat * 2 ^ 18 + a.toNat * 2 ^ 12 + t.toNat * 2 ^ 2 := by
    show word 0x54000080 [put d 18, put a 12, put t 2] = _
    rw [word_cons, word_cons, word_cons, word_nil, put_eq, put_eq, put_eq]
  refine roundTrips_word rfl (by omega) fun e₁ he hw k₁ hk => ?_
  rw [e0]
  clear e0
  generalize hW : 0x54000080 + d.toNat * 2 ^ 18 + a.toNat * 2 ^ 12 + t.toNat * 2 ^ 2 + k₁ * 2 ^ 31 = w₁
  have hm : w₁ / 2 ^ 24 % 128 = 0x54 := by omega
  have f0 : fld w₁ 18 6 = d := fld_eq (by omega)
  have f1 : fld w₁ 12 6 = a := fld_eq (by omega)
  have f2 : fld w₁ 2 4 = t := fld_eq (by omega)
  obtain rfl : e₁ = 1 := by simpa using (show (e₁ == 1) = true from he)
  rw [candidate_vec hm (by decide)]
  rw [vecOf54_eq hm]
  have hs : w₁ / 2 ^ 6 % 64 = 0x02 := by omega
  unfold vecOf54
  rw [hs]
  show some (Instr.vredmin (fld w₁ 18 6) (fld w₁ 12 6) (fld w₁ 2 4)) = _
  rw [f0, f1, f2]

theorem vredsq (d : BitVec 6) (a : BitVec 6) (t : BitVec 4) : Statement (.vredsq d a t) := by
  have h0 := d.isLt; have h1 := a.isLt; have h2 := t.isLt
  have e0 : encodeWord (.vredsq d a t) = 0x540000C0 + d.toNat * 2 ^ 18 + a.toNat * 2 ^ 12 + t.toNat * 2 ^ 2 := by
    show word 0x540000C0 [put d 18, put a 12, put t 2] = _
    rw [word_cons, word_cons, word_cons, word_nil, put_eq, put_eq, put_eq]
  refine roundTrips_word rfl (by omega) fun e₁ he hw k₁ hk => ?_
  rw [e0]
  clear e0
  generalize hW : 0x540000C0 + d.toNat * 2 ^ 18 + a.toNat * 2 ^ 12 + t.toNat * 2 ^ 2 + k₁ * 2 ^ 31 = w₁
  have hm : w₁ / 2 ^ 24 % 128 = 0x54 := by omega
  have f0 : fld w₁ 18 6 = d := fld_eq (by omega)
  have f1 : fld w₁ 12 6 = a := fld_eq (by omega)
  have f2 : fld w₁ 2 4 = t := fld_eq (by omega)
  obtain rfl : e₁ = 1 := by simpa using (show (e₁ == 1) = true from he)
  rw [candidate_vec hm (by decide)]
  rw [vecOf54_eq hm]
  have hs : w₁ / 2 ^ 6 % 64 = 0x03 := by omega
  unfold vecOf54
  rw [hs]
  show some (Instr.vredsq (fld w₁ 18 6) (fld w₁ 12 6) (fld w₁ 2 4)) = _
  rw [f0, f1, f2]

theorem vtopk (d : BitVec 6) (a : BitVec 6) (v : BitVec 6) (t : BitVec 4) (k : BitVec 2) : Statement (.vtopk d a v t k) := by
  have h0 := d.isLt; have h1 := a.isLt; have h2 := v.isLt; have h3 := t.isLt; have h4 := k.isLt
  have e0 : encodeWord (.vtopk d a v t k) = 0x55000000 + d.toNat * 2 ^ 18 + a.toNat * 2 ^ 12 + v.toNat * 2 ^ 6 + t.toNat * 2 ^ 2 + k.toNat * 2 ^ 0 := by
    show word 0x55000000 [put d 18, put a 12, put v 6, put t 2, put k 0] = _
    rw [word_cons, word_cons, word_cons, word_cons, word_cons, word_nil, put_eq, put_eq, put_eq, put_eq, put_eq]
  refine roundTrips_word rfl (by omega) fun e₁ he hw k₁ hk => ?_
  rw [e0]
  clear e0
  generalize hW : 0x55000000 + d.toNat * 2 ^ 18 + a.toNat * 2 ^ 12 + v.toNat * 2 ^ 6 + t.toNat * 2 ^ 2 + k.toNat * 2 ^ 0 + k₁ * 2 ^ 31 = w₁
  have hm : w₁ / 2 ^ 24 % 128 = 0x55 := by omega
  have f0 : fld w₁ 18 6 = d := fld_eq (by omega)
  have f1 : fld w₁ 12 6 = a := fld_eq (by omega)
  have f2 : fld w₁ 6 6 = v := fld_eq (by omega)
  have f3 : fld w₁ 2 4 = t := fld_eq (by omega)
  have f4 : fld w₁ 0 2 = k := fld_eq (by omega)
  obtain rfl : e₁ = 1 := by simpa using (show (e₁ == 1) = true from he)
  rw [candidate_vec hm (by decide)]
  unfold vecOf
  rw [hm]
  show some (Instr.vtopk (fld w₁ 18 6) (fld w₁ 12 6) (fld w₁ 6 6) (fld w₁ 2 4) (fld w₁ 0 2)) = _
  rw [f0, f1, f2, f3, f4]

theorem vperm (d : BitVec 6) (a : BitVec 6) (b : BitVec 6) (t : BitVec 4) : Statement (.vperm d a b t) := by
  have h0 := d.isLt; have h1 := a.isLt; have h2 := b.isLt; have h3 := t.isLt
  have e0 : encodeWord (.vperm d a b t) = 0x56000000 + d.toNat * 2 ^ 18 + a.toNat * 2 ^ 12 + b.toNat * 2 ^ 6 + t.toNat * 2 ^ 2 := by
    show word 0x56000000 [put d 18, put a 12, put b 6, put t 2] = _
    rw [word_cons, word_cons, word_cons, word_cons, word_nil, put_eq, put_eq, put_eq, put_eq]
  refine roundTrips_word rfl (by omega) fun e₁ he hw k₁ hk => ?_
  rw [e0]
  clear e0
  generalize hW : 0x56000000 + d.toNat * 2 ^ 18 + a.toNat * 2 ^ 12 + b.toNat * 2 ^ 6 + t.toNat * 2 ^ 2 + k₁ * 2 ^ 31 = w₁
  have hm : w₁ / 2 ^ 24 % 128 = 0x56 := by omega
  have f0 : fld w₁ 18 6 = d := fld_eq (by omega)
  have f1 : fld w₁ 12 6 = a := fld_eq (by omega)
  have f2 : fld w₁ 6 6 = b := fld_eq (by omega)
  have f3 : fld w₁ 2 4 = t := fld_eq (by omega)
  obtain rfl : e₁ = 1 := by simpa using (show (e₁ == 1) = true from he)
  rw [candidate_vec hm (by decide)]
  unfold vecOf
  rw [hm]
  show some (Instr.vperm (fld w₁ 18 6) (fld w₁ 12 6) (fld w₁ 6 6) (fld w₁ 2 4)) = _
  rw [f0, f1, f2, f3]

theorem vrot (d : BitVec 6) (a : BitVec 6) (n : BitVec 12) : Statement (.vrot d a n) := by
  have h0 := d.isLt; have h1 := a.isLt; have h2 := n.isLt
  have e0 : encodeWord (.vrot d a n) = 0x57000000 + d.toNat * 2 ^ 18 + a.toNat * 2 ^ 12 + n.toNat * 2 ^ 0 := by
    show word 0x57000000 [put d 18, put a 12, put n 0] = _
    rw [word_cons, word_cons, word_cons, word_nil, put_eq, put_eq, put_eq]
  refine roundTrips_word rfl (by omega) fun e₁ he hw k₁ hk => ?_
  rw [e0]
  clear e0
  generalize hW : 0x57000000 + d.toNat * 2 ^ 18 + a.toNat * 2 ^ 12 + n.toNat * 2 ^ 0 + k₁ * 2 ^ 31 = w₁
  have hm : w₁ / 2 ^ 24 % 128 = 0x57 := by omega
  have f0 : fld w₁ 18 6 = d := fld_eq (by omega)
  have f1 : fld w₁ 12 6 = a := fld_eq (by omega)
  have f2 : fld w₁ 0 12 = n := fld_eq (by omega)
  obtain rfl : e₁ = 1 := by simpa using (show (e₁ == 1) = true from he)
  rw [candidate_vec hm (by decide)]
  unfold vecOf
  rw [hm]
  show some (Instr.vrot (fld w₁ 18 6) (fld w₁ 12 6) (fld w₁ 0 12)) = _
  rw [f0, f1, f2]

theorem vwin (d : BitVec 6) (p : BitVec 4) (l : BitVec 4) : Statement (.vwin d p l) := by
  have h0 := d.isLt; have h1 := p.isLt; have h2 := l.isLt
  have e0 : encodeWord (.vwin d p l) = 0x58000000 + d.toNat * 2 ^ 18 + p.toNat * 2 ^ 14 + l.toNat * 2 ^ 10 := by
    show word 0x58000000 [put d 18, put p 14, put l 10] = _
    rw [word_cons, word_cons, word_cons, word_nil, put_eq, put_eq, put_eq]
  refine roundTrips_word rfl (by omega) fun e₁ he hw k₁ hk => ?_
  rw [e0]
  clear e0
  generalize hW : 0x58000000 + d.toNat * 2 ^ 18 + p.toNat * 2 ^ 14 + l.toNat * 2 ^ 10 + k₁ * 2 ^ 31 = w₁
  have hm : w₁ / 2 ^ 24 % 128 = 0x58 := by omega
  have f0 : fld w₁ 18 6 = d := fld_eq (by omega)
  have f1 : fld w₁ 14 4 = p := fld_eq (by omega)
  have f2 : fld w₁ 10 4 = l := fld_eq (by omega)
  obtain rfl : e₁ = 1 := by simpa using (show (e₁ == 1) = true from he)
  rw [candidate_vec hm (by decide)]
  unfold vecOf
  rw [hm]
  show some (Instr.vwin (fld w₁ 18 6) (fld w₁ 14 4) (fld w₁ 10 4)) = _
  rw [f0, f1, f2]

theorem vsmax (d : BitVec 6) (a : BitVec 6) (v : BitVec 6) (t : BitVec 4) : Statement (.vsmax d a v t) := by
  have h0 := d.isLt; have h1 := a.isLt; have h2 := v.isLt; have h3 := t.isLt
  have e0 : encodeWord (.vsmax d a v t) = 0x59000000 + d.toNat * 2 ^ 18 + a.toNat * 2 ^ 12 + v.toNat * 2 ^ 6 + t.toNat * 2 ^ 2 := by
    show word 0x59000000 [put d 18, put a 12, put v 6, put t 2] = _
    rw [word_cons, word_cons, word_cons, word_cons, word_nil, put_eq, put_eq, put_eq, put_eq]
  refine roundTrips_word rfl (by omega) fun e₁ he hw k₁ hk => ?_
  rw [e0]
  clear e0
  generalize hW : 0x59000000 + d.toNat * 2 ^ 18 + a.toNat * 2 ^ 12 + v.toNat * 2 ^ 6 + t.toNat * 2 ^ 2 + k₁ * 2 ^ 31 = w₁
  have hm : w₁ / 2 ^ 24 % 128 = 0x59 := by omega
  have f0 : fld w₁ 18 6 = d := fld_eq (by omega)
  have f1 : fld w₁ 12 6 = a := fld_eq (by omega)
  have f2 : fld w₁ 6 6 = v := fld_eq (by omega)
  have f3 : fld w₁ 2 4 = t := fld_eq (by omega)
  obtain rfl : e₁ = 1 := by simpa using (show (e₁ == 1) = true from he)
  rw [candidate_vec hm (by decide)]
  unfold vecOf
  rw [hm]
  show some (Instr.vsmax (fld w₁ 18 6) (fld w₁ 12 6) (fld w₁ 6 6) (fld w₁ 2 4)) = _
  rw [f0, f1, f2, f3]

theorem vld (v : BitVec 6) (b : BitVec 4) (o : BitVec 10) (c : BitVec 4) : Statement (.vld v b o c) := by
  have h0 := v.isLt; have h1 := b.isLt; have h2 := o.isLt; have h3 := c.isLt
  have e0 : encodeWord (.vld v b o c) = 0x5A000000 + v.toNat * 2 ^ 18 + b.toNat * 2 ^ 14 + o.toNat * 2 ^ 4 + c.toNat * 2 ^ 0 := by
    show word 0x5A000000 [put v 18, put b 14, put o 4, put c 0] = _
    rw [word_cons, word_cons, word_cons, word_cons, word_nil, put_eq, put_eq, put_eq, put_eq]
  refine roundTrips_word rfl (by omega) fun e₁ he hw k₁ hk => ?_
  rw [e0]
  clear e0
  generalize hW : 0x5A000000 + v.toNat * 2 ^ 18 + b.toNat * 2 ^ 14 + o.toNat * 2 ^ 4 + c.toNat * 2 ^ 0 + k₁ * 2 ^ 31 = w₁
  have hm : w₁ / 2 ^ 24 % 128 = 0x5A := by omega
  have f0 : fld w₁ 18 6 = v := fld_eq (by omega)
  have f1 : fld w₁ 14 4 = b := fld_eq (by omega)
  have f2 : fld w₁ 4 10 = o := fld_eq (by omega)
  have f3 : fld w₁ 0 4 = c := fld_eq (by omega)
  obtain rfl : e₁ = 1 := by simpa using (show (e₁ == 1) = true from he)
  rw [candidate_vec hm (by decide)]
  unfold vecOf
  rw [hm]
  show some (Instr.vld (fld w₁ 18 6) (fld w₁ 14 4) (fld w₁ 4 10) (fld w₁ 0 4)) = _
  rw [f0, f1, f2, f3]

theorem vst (v : BitVec 6) (b : BitVec 4) (o : BitVec 10) (c : BitVec 4) : Statement (.vst v b o c) := by
  have h0 := v.isLt; have h1 := b.isLt; have h2 := o.isLt; have h3 := c.isLt
  have e0 : encodeWord (.vst v b o c) = 0x5B000000 + v.toNat * 2 ^ 18 + b.toNat * 2 ^ 14 + o.toNat * 2 ^ 4 + c.toNat * 2 ^ 0 := by
    show word 0x5B000000 [put v 18, put b 14, put o 4, put c 0] = _
    rw [word_cons, word_cons, word_cons, word_cons, word_nil, put_eq, put_eq, put_eq, put_eq]
  refine roundTrips_word rfl (by omega) fun e₁ he hw k₁ hk => ?_
  rw [e0]
  clear e0
  generalize hW : 0x5B000000 + v.toNat * 2 ^ 18 + b.toNat * 2 ^ 14 + o.toNat * 2 ^ 4 + c.toNat * 2 ^ 0 + k₁ * 2 ^ 31 = w₁
  have hm : w₁ / 2 ^ 24 % 128 = 0x5B := by omega
  have f0 : fld w₁ 18 6 = v := fld_eq (by omega)
  have f1 : fld w₁ 14 4 = b := fld_eq (by omega)
  have f2 : fld w₁ 4 10 = o := fld_eq (by omega)
  have f3 : fld w₁ 0 4 = c := fld_eq (by omega)
  obtain rfl : e₁ = 1 := by simpa using (show (e₁ == 1) = true from he)
  rw [candidate_vec hm (by decide)]
  unfold vecOf
  rw [hm]
  show some (Instr.vst (fld w₁ 18 6) (fld w₁ 14 4) (fld w₁ 4 10) (fld w₁ 0 4)) = _
  rw [f0, f1, f2, f3]

theorem vldState (v : BitVec 6) (b : BitVec 4) (o : BitVec 10) (c : BitVec 4) : Statement (.vldState v b o c) := by
  have h0 := v.isLt; have h1 := b.isLt; have h2 := o.isLt; have h3 := c.isLt
  have e0 : encodeWord (.vldState v b o c) = 0x5C000000 + v.toNat * 2 ^ 18 + b.toNat * 2 ^ 14 + o.toNat * 2 ^ 4 + c.toNat * 2 ^ 0 := by
    show word 0x5C000000 [put v 18, put b 14, put o 4, put c 0] = _
    rw [word_cons, word_cons, word_cons, word_cons, word_nil, put_eq, put_eq, put_eq, put_eq]
  refine roundTrips_word rfl (by omega) fun e₁ he hw k₁ hk => ?_
  rw [e0]
  clear e0
  generalize hW : 0x5C000000 + v.toNat * 2 ^ 18 + b.toNat * 2 ^ 14 + o.toNat * 2 ^ 4 + c.toNat * 2 ^ 0 + k₁ * 2 ^ 31 = w₁
  have hm : w₁ / 2 ^ 24 % 128 = 0x5C := by omega
  have f0 : fld w₁ 18 6 = v := fld_eq (by omega)
  have f1 : fld w₁ 14 4 = b := fld_eq (by omega)
  have f2 : fld w₁ 4 10 = o := fld_eq (by omega)
  have f3 : fld w₁ 0 4 = c := fld_eq (by omega)
  obtain rfl : e₁ = 1 := by simpa using (show (e₁ == 1) = true from he)
  rw [candidate_vec hm (by decide)]
  unfold vecOf
  rw [hm]
  show some (Instr.vldState (fld w₁ 18 6) (fld w₁ 14 4) (fld w₁ 4 10) (fld w₁ 0 4)) = _
  rw [f0, f1, f2, f3]

theorem vstState (v : BitVec 6) (b : BitVec 4) (o : BitVec 10) (c : BitVec 4) : Statement (.vstState v b o c) := by
  have h0 := v.isLt; have h1 := b.isLt; have h2 := o.isLt; have h3 := c.isLt
  have e0 : encodeWord (.vstState v b o c) = 0x5D000000 + v.toNat * 2 ^ 18 + b.toNat * 2 ^ 14 + o.toNat * 2 ^ 4 + c.toNat * 2 ^ 0 := by
    show word 0x5D000000 [put v 18, put b 14, put o 4, put c 0] = _
    rw [word_cons, word_cons, word_cons, word_cons, word_nil, put_eq, put_eq, put_eq, put_eq]
  refine roundTrips_word rfl (by omega) fun e₁ he hw k₁ hk => ?_
  rw [e0]
  clear e0
  generalize hW : 0x5D000000 + v.toNat * 2 ^ 18 + b.toNat * 2 ^ 14 + o.toNat * 2 ^ 4 + c.toNat * 2 ^ 0 + k₁ * 2 ^ 31 = w₁
  have hm : w₁ / 2 ^ 24 % 128 = 0x5D := by omega
  have f0 : fld w₁ 18 6 = v := fld_eq (by omega)
  have f1 : fld w₁ 14 4 = b := fld_eq (by omega)
  have f2 : fld w₁ 4 10 = o := fld_eq (by omega)
  have f3 : fld w₁ 0 4 = c := fld_eq (by omega)
  obtain rfl : e₁ = 1 := by simpa using (show (e₁ == 1) = true from he)
  rw [candidate_vec hm (by decide)]
  unfold vecOf
  rw [hm]
  show some (Instr.vstState (fld w₁ 18 6) (fld w₁ 14 4) (fld w₁ 4 10) (fld w₁ 0 4)) = _
  rw [f0, f1, f2, f3]

theorem vpopq (d : BitVec 6) (q : BitVec 3) (t : BitVec 4) : Statement (.vpopq d q t) := by
  have h0 := d.isLt; have h1 := q.isLt; have h2 := t.isLt
  have e0 : encodeWord (.vpopq d q t) = 0x5E000000 + d.toNat * 2 ^ 18 + q.toNat * 2 ^ 15 + t.toNat * 2 ^ 2 := by
    show word 0x5E000000 [put d 18, put q 15, put t 2] = _
    rw [word_cons, word_cons, word_cons, word_nil, put_eq, put_eq, put_eq]
  refine roundTrips_word rfl (by omega) fun e₁ he hw k₁ hk => ?_
  rw [e0]
  clear e0
  generalize hW : 0x5E000000 + d.toNat * 2 ^ 18 + q.toNat * 2 ^ 15 + t.toNat * 2 ^ 2 + k₁ * 2 ^ 31 = w₁
  have hm : w₁ / 2 ^ 24 % 128 = 0x5E := by omega
  have f0 : fld w₁ 18 6 = d := fld_eq (by omega)
  have f1 : fld w₁ 15 3 = q := fld_eq (by omega)
  have f2 : fld w₁ 2 4 = t := fld_eq (by omega)
  obtain rfl : e₁ = 1 := by simpa using (show (e₁ == 1) = true from he)
  rw [candidate_vec hm (by decide)]
  unfold vecOf
  rw [hm]
  show some (Instr.vpopq (fld w₁ 18 6) (fld w₁ 15 3) (fld w₁ 2 4)) = _
  rw [f0, f1, f2]

theorem vpushq (a : BitVec 6) (q : BitVec 3) (t : BitVec 4) : Statement (.vpushq a q t) := by
  have h0 := a.isLt; have h1 := q.isLt; have h2 := t.isLt
  have e0 : encodeWord (.vpushq a q t) = 0x5F000000 + a.toNat * 2 ^ 18 + q.toNat * 2 ^ 15 + t.toNat * 2 ^ 2 := by
    show word 0x5F000000 [put a 18, put q 15, put t 2] = _
    rw [word_cons, word_cons, word_cons, word_nil, put_eq, put_eq, put_eq]
  refine roundTrips_word rfl (by omega) fun e₁ he hw k₁ hk => ?_
  rw [e0]
  clear e0
  generalize hW : 0x5F000000 + a.toNat * 2 ^ 18 + q.toNat * 2 ^ 15 + t.toNat * 2 ^ 2 + k₁ * 2 ^ 31 = w₁
  have hm : w₁ / 2 ^ 24 % 128 = 0x5F := by omega
  have f0 : fld w₁ 18 6 = a := fld_eq (by omega)
  have f1 : fld w₁ 15 3 = q := fld_eq (by omega)
  have f2 : fld w₁ 2 4 = t := fld_eq (by omega)
  obtain rfl : e₁ = 1 := by simpa using (show (e₁ == 1) = true from he)
  rw [candidate_vec hm (by decide)]
  unfold vecOf
  rw [hm]
  show some (Instr.vpushq (fld w₁ 18 6) (fld w₁ 15 3) (fld w₁ 2 4)) = _
  rw [f0, f1, f2]

theorem vsplat (d : BitVec 6) (k : BitVec 2) (i : BitVec 16) : Statement (.vsplat d k i) := by
  have h0 := d.isLt; have h1 := k.isLt; have h2 := i.isLt
  have e0 : encodeWord (.vsplat d k i) = 0x60000000 + d.toNat * 2 ^ 18 + k.toNat * 2 ^ 16 + i.toNat * 2 ^ 0 := by
    show word 0x60000000 [put d 18, put k 16, put i 0] = _
    rw [word_cons, word_cons, word_cons, word_nil, put_eq, put_eq, put_eq]
  refine roundTrips_word rfl (by omega) fun e₁ he hw k₁ hk => ?_
  rw [e0]
  clear e0
  generalize hW : 0x60000000 + d.toNat * 2 ^ 18 + k.toNat * 2 ^ 16 + i.toNat * 2 ^ 0 + k₁ * 2 ^ 31 = w₁
  have hm : w₁ / 2 ^ 24 % 128 = 0x60 := by omega
  have f0 : fld w₁ 18 6 = d := fld_eq (by omega)
  have f1 : fld w₁ 16 2 = k := fld_eq (by omega)
  have f2 : fld w₁ 0 16 = i := fld_eq (by omega)
  obtain rfl : e₁ = 1 := by simpa using (show (e₁ == 1) = true from he)
  rw [candidate_vec hm (by decide)]
  unfold vecOf
  rw [hm]
  show some (Instr.vsplat (fld w₁ 18 6) (fld w₁ 16 2) (fld w₁ 0 16)) = _
  rw [f0, f1, f2]

theorem vmov (d : BitVec 6) (a : BitVec 6) (t : BitVec 4) : Statement (.vmov d a t) := by
  have h0 := d.isLt; have h1 := a.isLt; have h2 := t.isLt
  have e0 : encodeWord (.vmov d a t) = 0x61000000 + d.toNat * 2 ^ 18 + a.toNat * 2 ^ 12 + t.toNat * 2 ^ 2 := by
    show word 0x61000000 [put d 18, put a 12, put t 2] = _
    rw [word_cons, word_cons, word_cons, word_nil, put_eq, put_eq, put_eq]
  refine roundTrips_word rfl (by omega) fun e₁ he hw k₁ hk => ?_
  rw [e0]
  clear e0
  generalize hW : 0x61000000 + d.toNat * 2 ^ 18 + a.toNat * 2 ^ 12 + t.toNat * 2 ^ 2 + k₁ * 2 ^ 31 = w₁
  have hm : w₁ / 2 ^ 24 % 128 = 0x61 := by omega
  have f0 : fld w₁ 18 6 = d := fld_eq (by omega)
  have f1 : fld w₁ 12 6 = a := fld_eq (by omega)
  have f2 : fld w₁ 2 4 = t := fld_eq (by omega)
  obtain rfl : e₁ = 1 := by simpa using (show (e₁ == 1) = true from he)
  rw [candidate_vec hm (by decide)]
  unfold vecOf
  rw [hm]
  show some (Instr.vmov (fld w₁ 18 6) (fld w₁ 12 6) (fld w₁ 2 4)) = _
  rw [f0, f1, f2]

theorem vrxpop (d : BitVec 6) : Statement (.vrxpop d) := by
  have h0 := d.isLt
  have e0 : encodeWord (.vrxpop d) = 0x62000000 + d.toNat * 2 ^ 18 := by
    show word 0x62000000 [put d 18] = _
    rw [word_cons, word_nil, put_eq]
  refine roundTrips_word rfl (by omega) fun e₁ he hw k₁ hk => ?_
  rw [e0]
  clear e0
  generalize hW : 0x62000000 + d.toNat * 2 ^ 18 + k₁ * 2 ^ 31 = w₁
  have hm : w₁ / 2 ^ 24 % 128 = 0x62 := by omega
  have f0 : fld w₁ 18 6 = d := fld_eq (by omega)
  obtain rfl : e₁ = 1 := by simpa using (show (e₁ == 1) = true from he)
  rw [candidate_vec hm (by decide)]
  unfold vecOf
  rw [hm]
  show some (Instr.vrxpop (fld w₁ 18 6)) = _
  rw [f0]

theorem statusWrite (a : BitVec 6) : Statement (.statusWrite a) := by
  have h0 := a.isLt
  have e0 : encodeWord (.statusWrite a) = 0x6E000000 + a.toNat * 2 ^ 18 + 0x010 * 2 ^ 6 := by
    show word 0x6E000000 [put a 18, 0x010 * 2 ^ 6] = _
    rw [word_cons, word_cons, word_nil, put_eq]
  refine roundTrips_word rfl (by omega) fun e₁ he hw k₁ hk => ?_
  rw [e0]
  clear e0
  generalize hW : 0x6E000000 + a.toNat * 2 ^ 18 + 0x010 * 2 ^ 6 + k₁ * 2 ^ 31 = w₁
  have hm : w₁ / 2 ^ 24 % 128 = 0x6E := by omega
  have f0 : fld w₁ 18 6 = a := fld_eq (by omega)
  obtain rfl : e₁ = 0 := by simpa using (show (e₁ == 0) = true from he)
  rw [candidate_seq hm (by decide)]
  rw [csrwOf_eq hm]
  have hs : w₁ / 2 ^ 6 % 4096 = 0x010 := by omega
  unfold csrwOf
  rw [hs]
  show some (Instr.statusWrite (fld w₁ 18 6)) = _
  rw [f0]

theorem fadeflWrite (a : BitVec 6) : Statement (.fadeflWrite a) := by
  have h0 := a.isLt
  have e0 : encodeWord (.fadeflWrite a) = 0x6E000000 + a.toNat * 2 ^ 18 + 0x001 * 2 ^ 6 := by
    show word 0x6E000000 [put a 18, 0x001 * 2 ^ 6] = _
    rw [word_cons, word_cons, word_nil, put_eq]
  refine roundTrips_word rfl (by omega) fun e₁ he hw k₁ hk => ?_
  rw [e0]
  clear e0
  generalize hW : 0x6E000000 + a.toNat * 2 ^ 18 + 0x001 * 2 ^ 6 + k₁ * 2 ^ 31 = w₁
  have hm : w₁ / 2 ^ 24 % 128 = 0x6E := by omega
  have f0 : fld w₁ 18 6 = a := fld_eq (by omega)
  obtain rfl : e₁ = 0 := by simpa using (show (e₁ == 0) = true from he)
  rw [candidate_seq hm (by decide)]
  rw [csrwOf_eq hm]
  have hs : w₁ / 2 ^ 6 % 4096 = 0x001 := by omega
  unfold csrwOf
  rw [hs]
  show some (Instr.fadeflWrite (fld w₁ 18 6)) = _
  rw [f0]

theorem fadedefWrite (a : BitVec 6) : Statement (.fadedefWrite a) := by
  have h0 := a.isLt
  have e0 : encodeWord (.fadedefWrite a) = 0x6E000000 + a.toNat * 2 ^ 18 + 0x116 * 2 ^ 6 := by
    show word 0x6E000000 [put a 18, 0x116 * 2 ^ 6] = _
    rw [word_cons, word_cons, word_nil, put_eq]
  refine roundTrips_word rfl (by omega) fun e₁ he hw k₁ hk => ?_
  rw [e0]
  clear e0
  generalize hW : 0x6E000000 + a.toNat * 2 ^ 18 + 0x116 * 2 ^ 6 + k₁ * 2 ^ 31 = w₁
  have hm : w₁ / 2 ^ 24 % 128 = 0x6E := by omega
  have f0 : fld w₁ 18 6 = a := fld_eq (by omega)
  obtain rfl : e₁ = 0 := by simpa using (show (e₁ == 0) = true from he)
  rw [candidate_seq hm (by decide)]
  rw [csrwOf_eq hm]
  have hs : w₁ / 2 ^ 6 % 4096 = 0x116 := by omega
  unfold csrwOf
  rw [hs]
  show some (Instr.fadedefWrite (fld w₁ 18 6)) = _
  rw [f0]

theorem rdcfgWrite (a : BitVec 6) : Statement (.rdcfgWrite a) := by
  have h0 := a.isLt
  have e0 : encodeWord (.rdcfgWrite a) = 0x6E000000 + a.toNat * 2 ^ 18 + 0x021 * 2 ^ 6 := by
    show word 0x6E000000 [put a 18, 0x021 * 2 ^ 6] = _
    rw [word_cons, word_cons, word_nil, put_eq]
  refine roundTrips_word rfl (by omega) fun e₁ he hw k₁ hk => ?_
  rw [e0]
  clear e0
  generalize hW : 0x6E000000 + a.toNat * 2 ^ 18 + 0x021 * 2 ^ 6 + k₁ * 2 ^ 31 = w₁
  have hm : w₁ / 2 ^ 24 % 128 = 0x6E := by omega
  have f0 : fld w₁ 18 6 = a := fld_eq (by omega)
  obtain rfl : e₁ = 0 := by simpa using (show (e₁ == 0) = true from he)
  rw [candidate_seq hm (by decide)]
  rw [csrwOf_eq hm]
  have hs : w₁ / 2 ^ 6 % 4096 = 0x021 := by omega
  unfold csrwOf
  rw [hs]
  show some (Instr.rdcfgWrite (fld w₁ 18 6)) = _
  rw [f0]

theorem cntcfgWrite (a : BitVec 6) : Statement (.cntcfgWrite a) := by
  have h0 := a.isLt
  have e0 : encodeWord (.cntcfgWrite a) = 0x6E000000 + a.toNat * 2 ^ 18 + 0x121 * 2 ^ 6 := by
    show word 0x6E000000 [put a 18, 0x121 * 2 ^ 6] = _
    rw [word_cons, word_cons, word_nil, put_eq]
  refine roundTrips_word rfl (by omega) fun e₁ he hw k₁ hk => ?_
  rw [e0]
  clear e0
  generalize hW : 0x6E000000 + a.toNat * 2 ^ 18 + 0x121 * 2 ^ 6 + k₁ * 2 ^ 31 = w₁
  have hm : w₁ / 2 ^ 24 % 128 = 0x6E := by omega
  have f0 : fld w₁ 18 6 = a := fld_eq (by omega)
  obtain rfl : e₁ = 0 := by simpa using (show (e₁ == 0) = true from he)
  rw [candidate_seq hm (by decide)]
  rw [csrwOf_eq hm]
  have hs : w₁ / 2 ^ 6 % 4096 = 0x121 := by omega
  unfold csrwOf
  rw [hs]
  show some (Instr.cntcfgWrite (fld w₁ 18 6)) = _
  rw [f0]

theorem qcfgWrite (a : BitVec 6) : Statement (.qcfgWrite a) := by
  have h0 := a.isLt
  have e0 : encodeWord (.qcfgWrite a) = 0x6E000000 + a.toNat * 2 ^ 18 + 0x111 * 2 ^ 6 := by
    show word 0x6E000000 [put a 18, 0x111 * 2 ^ 6] = _
    rw [word_cons, word_cons, word_nil, put_eq]
  refine roundTrips_word rfl (by omega) fun e₁ he hw k₁ hk => ?_
  rw [e0]
  clear e0
  generalize hW : 0x6E000000 + a.toNat * 2 ^ 18 + 0x111 * 2 ^ 6 + k₁ * 2 ^ 31 = w₁
  have hm : w₁ / 2 ^ 24 % 128 = 0x6E := by omega
  have f0 : fld w₁ 18 6 = a := fld_eq (by omega)
  obtain rfl : e₁ = 0 := by simpa using (show (e₁ == 0) = true from he)
  rw [candidate_seq hm (by decide)]
  rw [csrwOf_eq hm]
  have hs : w₁ / 2 ^ 6 % 4096 = 0x111 := by omega
  unfold csrwOf
  rw [hs]
  show some (Instr.qcfgWrite (fld w₁ 18 6)) = _
  rw [f0]

theorem fencfgWrite (a : BitVec 6) : Statement (.fencfgWrite a) := by
  have h0 := a.isLt
  have e0 : encodeWord (.fencfgWrite a) = 0x6E000000 + a.toNat * 2 ^ 18 + 0x114 * 2 ^ 6 := by
    show word 0x6E000000 [put a 18, 0x114 * 2 ^ 6] = _
    rw [word_cons, word_cons, word_nil, put_eq]
  refine roundTrips_word rfl (by omega) fun e₁ he hw k₁ hk => ?_
  rw [e0]
  clear e0
  generalize hW : 0x6E000000 + a.toNat * 2 ^ 18 + 0x114 * 2 ^ 6 + k₁ * 2 ^ 31 = w₁
  have hm : w₁ / 2 ^ 24 % 128 = 0x6E := by omega
  have f0 : fld w₁ 18 6 = a := fld_eq (by omega)
  obtain rfl : e₁ = 0 := by simpa using (show (e₁ == 0) = true from he)
  rw [candidate_seq hm (by decide)]
  rw [csrwOf_eq hm]
  have hs : w₁ / 2 ^ 6 % 4096 = 0x114 := by omega
  unfold csrwOf
  rw [hs]
  show some (Instr.fencfgWrite (fld w₁ 18 6)) = _
  rw [f0]

theorem regrateWrite (a : BitVec 6) : Statement (.regrateWrite a) := by
  have h0 := a.isLt
  have e0 : encodeWord (.regrateWrite a) = 0x6E000000 + a.toNat * 2 ^ 18 + 0x129 * 2 ^ 6 := by
    show word 0x6E000000 [put a 18, 0x129 * 2 ^ 6] = _
    rw [word_cons, word_cons, word_nil, put_eq]
  refine roundTrips_word rfl (by omega) fun e₁ he hw k₁ hk => ?_
  rw [e0]
  clear e0
  generalize hW : 0x6E000000 + a.toNat * 2 ^ 18 + 0x129 * 2 ^ 6 + k₁ * 2 ^ 31 = w₁
  have hm : w₁ / 2 ^ 24 % 128 = 0x6E := by omega
  have f0 : fld w₁ 18 6 = a := fld_eq (by omega)
  obtain rfl : e₁ = 0 := by simpa using (show (e₁ == 0) = true from he)
  rw [candidate_seq hm (by decide)]
  rw [csrwOf_eq hm]
  have hs : w₁ / 2 ^ 6 % 4096 = 0x129 := by omega
  unfold csrwOf
  rw [hs]
  show some (Instr.regrateWrite (fld w₁ 18 6)) = _
  rw [f0]

theorem olctlWrite (a : BitVec 6) : Statement (.olctlWrite a) := by
  have h0 := a.isLt
  have e0 : encodeWord (.olctlWrite a) = 0x6E000000 + a.toNat * 2 ^ 18 + 0x160 * 2 ^ 6 := by
    show word 0x6E000000 [put a 18, 0x160 * 2 ^ 6] = _
    rw [word_cons, word_cons, word_nil, put_eq]
  refine roundTrips_word rfl (by omega) fun e₁ he hw k₁ hk => ?_
  rw [e0]
  clear e0
  generalize hW : 0x6E000000 + a.toNat * 2 ^ 18 + 0x160 * 2 ^ 6 + k₁ * 2 ^ 31 = w₁
  have hm : w₁ / 2 ^ 24 % 128 = 0x6E := by omega
  have f0 : fld w₁ 18 6 = a := fld_eq (by omega)
  obtain rfl : e₁ = 0 := by simpa using (show (e₁ == 0) = true from he)
  rw [candidate_seq hm (by decide)]
  rw [csrwOf_eq hm]
  have hs : w₁ / 2 ^ 6 % 4096 = 0x160 := by omega
  unfold csrwOf
  rw [hs]
  show some (Instr.olctlWrite (fld w₁ 18 6)) = _
  rw [f0]

theorem fcopy (r : Record) : Statement (.fcopy r) :=
  roundTrips_record (k := 2) rfl (by decide) (fun e he => by simpa using (show (e == 2) = true from he)) rfl

theorem fgath (r : Record) : Statement (.fgath r) :=
  roundTrips_record (k := 2) rfl (by decide) (fun e he => by simpa using (show (e == 2) = true from he)) rfl

theorem fxfm (r : Record) : Statement (.fxfm r) :=
  roundTrips_record (k := 2) rfl (by decide) (fun e he => by simpa using (show (e == 2) = true from he)) rfl

theorem cbload (r : Record) : Statement (.cbload r) :=
  roundTrips_record (k := 2) rfl (by decide) (fun e he => by simpa using (show (e == 2) = true from he)) rfl

theorem fcrc (r : Record) : Statement (.fcrc r) :=
  roundTrips_record (k := 2) rfl (by decide) (fun e he => by simpa using (show (e == 2) = true from he)) rfl

theorem scopy (r : Record) : Statement (.scopy r) :=
  roundTrips_record (k := 3) rfl (by decide) (fun e he => by simpa using (show (e == 3) = true from he)) rfl

theorem sscat (r : Record) : Statement (.sscat r) :=
  roundTrips_record (k := 3) rfl (by decide) (fun e he => by simpa using (show (e == 3) = true from he)) rfl

theorem sreds (r : Record) : Statement (.sreds r) :=
  roundTrips_record (k := 3) rfl (by decide) (fun e he => by simpa using (show (e == 3) = true from he)) rfl

theorem smcast (r : Record) : Statement (.smcast r) :=
  roundTrips_record (k := 3) rfl (by decide) (fun e he => by simpa using (show (e == 3) = true from he)) rfl

theorem scrc (r : Record) : Statement (.scrc r) :=
  roundTrips_record (k := 3) rfl (by decide) (fun e he => by simpa using (show (e == 3) = true from he)) rfl

theorem mldw (r : Record) : Statement (.mldw r) :=
  roundTrips_record (k := 4) rfl (by decide) (fun e he => by simpa using (show (e == 4) = true from he)) rfl

theorem mstrm (r : Record) : Statement (.mstrm r) :=
  roundTrips_record (k := 4) rfl (by decide) (fun e he => by simpa using (show (e == 4) = true from he)) rfl

theorem mswap (r : Record) : Statement (.mswap r) :=
  roundTrips_record (k := 4) rfl (by decide) (fun e he => by simpa using (show (e == 4) = true from he)) rfl

theorem mdrain (r : Record) : Statement (.mdrain r) :=
  roundTrips_record (k := 4) rfl (by decide) (fun e he => by simpa using (show (e == 4) = true from he)) rfl

theorem mzero (r : Record) : Statement (.mzero r) :=
  roundTrips_record (k := 4) rfl (by decide) (fun e he => by simpa using (show (e == 4) = true from he)) rfl

theorem mcvt (r : Record) : Statement (.mcvt r) :=
  roundTrips_record (k := 4) rfl (by decide) (fun e he => by simpa using (show (e == 4) = true from he)) rfl

theorem scand (r : Record) : Statement (.scand r) :=
  roundTrips_record (k := 4) rfl (by decide) (fun e he => by simpa using (show (e == 4) = true from he)) rfl

theorem scanm (r : Record) : Statement (.scanm r) :=
  roundTrips_record (k := 4) rfl (by decide) (fun e he => by simpa using (show (e == 4) = true from he)) rfl

theorem semit (r : Record) : Statement (.semit r) :=
  roundTrips_record (k := 4) rfl (by decide) (fun e he => by simpa using (show (e == 4) = true from he)) rfl

theorem scmpct (r : Record) : Statement (.scmpct r) :=
  roundTrips_record (k := 4) rfl (by decide) (fun e he => by simpa using (show (e == 4) = true from he)) rfl

theorem nop : Statement (.nop) := by
  have e0 : encodeWord (.nop) = 0x01000000 := by
    show word 0x01000000 [] = _
    rfl
  refine roundTrips_word rfl (by omega) fun e₁ he hw k₁ hk => ?_
  rw [e0]
  clear e0
  generalize hW : 0x01000000 + k₁ * 2 ^ 31 = w₁
  have hm : w₁ / 2 ^ 24 % 128 = 0x01 := by omega
  rw [candidate_shared hm (by decide)]
  unfold sharedOf
  simp only [hm]

theorem ret : Statement (.ret) := by
  have e0 : encodeWord (.ret) = 0x0C080000 := by
    show word 0x0C080000 [] = _
    rfl
  refine roundTrips_word rfl (by omega) fun e₁ he hw k₁ hk => ?_
  rw [e0]
  clear e0
  generalize hW : 0x0C080000 + k₁ * 2 ^ 31 = w₁
  have hm : w₁ / 2 ^ 24 % 128 = 0x0C := by omega
  rw [candidate_shared hm (by decide)]
  rw [sharedOf0C_eq hm]
  have hs : w₁ / 2 ^ 19 % 2 = 0x01 := by omega
  unfold sharedOf0C
  simp only [hs]

theorem estop : Statement (.estop) := by
  have e0 : encodeWord (.estop) = 0x25000000 := by
    show word 0x25000000 [] = _
    rfl
  refine roundTrips_word rfl (by omega) fun e₁ he hw k₁ hk => ?_
  rw [e0]
  clear e0
  generalize hW : 0x25000000 + k₁ * 2 ^ 31 = w₁
  have hm : w₁ / 2 ^ 24 % 128 = 0x25 := by omega
  rw [candidate_shared hm (by decide)]
  unfold sharedOf
  simp only [hm]

theorem mrel : Statement (.mrel) := by
  have e0 : encodeWord (.mrel) = 0x6A400000 := by
    show word 0x6A400000 [] = _
    rfl
  refine roundTrips_word rfl (by omega) fun e₁ he hw k₁ hk => ?_
  rw [e0]
  clear e0
  generalize hW : 0x6A400000 + k₁ * 2 ^ 31 = w₁
  have hm : w₁ / 2 ^ 24 % 128 = 0x6A := by omega
  obtain rfl : e₁ = 0 := by simpa using (show (e₁ == 0) = true from he)
  rw [candidate_seq hm (by decide)]
  rw [seqOf6A_eq hm]
  have hs : w₁ / 2 ^ 22 % 4 = 0x01 := by omega
  unfold seqOf6A
  simp only [hs]

theorem srel : Statement (.srel) := by
  have e0 : encodeWord (.srel) = 0x6AC00000 := by
    show word 0x6AC00000 [] = _
    rfl
  refine roundTrips_word rfl (by omega) fun e₁ he hw k₁ hk => ?_
  rw [e0]
  clear e0
  generalize hW : 0x6AC00000 + k₁ * 2 ^ 31 = w₁
  have hm : w₁ / 2 ^ 24 % 128 = 0x6A := by omega
  obtain rfl : e₁ = 0 := by simpa using (show (e₁ == 0) = true from he)
  rw [candidate_seq hm (by decide)]
  rw [seqOf6A_eq hm]
  have hs : w₁ / 2 ^ 22 % 4 = 0x03 := by omega
  unfold seqOf6A
  simp only [hs]

theorem wdone : Statement (.wdone) := by
  have e0 : encodeWord (.wdone) = 0x73000000 := by
    show word 0x73000000 [] = _
    rfl
  refine roundTrips_word rfl (by omega) fun e₁ he hw k₁ hk => ?_
  rw [e0]
  clear e0
  generalize hW : 0x73000000 + k₁ * 2 ^ 31 = w₁
  have hm : w₁ / 2 ^ 24 % 128 = 0x73 := by omega
  obtain rfl : e₁ = 0 := by simpa using (show (e₁ == 0) = true from he)
  rw [candidate_seq hm (by decide)]
  unfold seqOf
  simp only [hm]

theorem eret : Statement (.eret) := by
  have e0 : encodeWord (.eret) = 0x76000000 := by
    show word 0x76000000 [] = _
    rfl
  refine roundTrips_word rfl (by omega) fun e₁ he hw k₁ hk => ?_
  rw [e0]
  clear e0
  generalize hW : 0x76000000 + k₁ * 2 ^ 31 = w₁
  have hm : w₁ / 2 ^ 24 % 128 = 0x76 := by omega
  obtain rfl : e₁ = 0 := by simpa using (show (e₁ == 0) = true from he)
  rw [candidate_seq hm (by decide)]
  unfold seqOf
  simp only [hm]

theorem swapx : Statement (.swapx) := by
  have e0 : encodeWord (.swapx) = 0x77000000 := by
    show word 0x77000000 [] = _
    rfl
  refine roundTrips_word rfl (by omega) fun e₁ he hw k₁ hk => ?_
  rw [e0]
  clear e0
  generalize hW : 0x77000000 + k₁ * 2 ^ 31 = w₁
  have hm : w₁ / 2 ^ 24 % 128 = 0x77 := by omega
  obtain rfl : e₁ = 0 := by simpa using (show (e₁ == 0) = true from he)
  rw [candidate_seq hm (by decide)]
  unfold seqOf
  simp only [hm]

theorem reductionApplied (id : Nat) : Statement (.reductionApplied id) := roundTrips_event rfl rfl

theorem walk (id : Nat) : Statement (.walk id) := roundTrips_event rfl rfl

theorem leaseGrant (core : Nat) (unit : Nat) : Statement (.leaseGrant core unit) := roundTrips_event rfl rfl

theorem resultLands (g : Nat) (e : Nat) : Statement (.resultLands g e) := roundTrips_event rfl rfl

theorem operationCompletes (id : Nat) : Statement (.operationCompletes id) := roundTrips_event rfl rfl

theorem waitEnds (g : Nat) (e : Nat) : Statement (.waitEnds g e) := roundTrips_event rfl rfl

theorem transferRecordBegins (g : Nat) (e : Nat) : Statement (.transferRecordBegins g e) := roundTrips_event rfl rfl

theorem transferRecordCompletes (id : Nat) : Statement (.transferRecordCompletes id) := roundTrips_event rfl rfl

theorem commandBegins (core : Nat) (path : Nat) : Statement (.commandBegins core path) := roundTrips_event rfl rfl

theorem commandCompletes (core : Nat) (path : Nat) : Statement (.commandCompletes core path) := roundTrips_event rfl rfl

theorem trapTaken (g : Nat) (e : Nat) (c : Cause) (tval : BitVec 64) (sw : BitVec 16) : Statement (.trapTaken g e c tval sw) := roundTrips_event rfl rfl

theorem shadowSwap (g : Nat) : Statement (.shadowSwap g) := roundTrips_event rfl rfl

theorem spillDone (g : Nat) : Statement (.spillDone g) := roundTrips_event rfl rfl

theorem contextFill (g : Nat) : Statement (.contextFill g) := roundTrips_event rfl rfl

theorem launchStart (q : Nat) : Statement (.launchStart q) := roundTrips_event rfl rfl

theorem refusedLaunch (q : Nat) : Statement (.refusedLaunch q) := roundTrips_event rfl rfl

theorem placement (die : Nat) : Statement (.placement die) := roundTrips_event rfl rfl

theorem gangPlacement (die : Nat) : Statement (.gangPlacement die) := roundTrips_event rfl rfl

theorem preemption (die : Nat) : Statement (.preemption die) := roundTrips_event rfl rfl

theorem withdrawal (g : Nat) (bank : Nat) : Statement (.withdrawal g bank) := roundTrips_event rfl rfl

theorem launchEnd (lid : Nat) : Statement (.launchEnd lid) := roundTrips_event rfl rfl

theorem completionRecord (q : Nat) : Statement (.completionRecord q) := roundTrips_event rfl rfl

theorem watchdogExpiry (lid : Nat) : Statement (.watchdogExpiry lid) := roundTrips_event rfl rfl

theorem copyRecord (lid : Nat) : Statement (.copyRecord lid) := roundTrips_event rfl rfl

theorem mereExtension (core : Nat) : Statement (.mereExtension core) := roundTrips_event rfl rfl

theorem packetApplied (id : Nat) : Statement (.packetApplied id) := roundTrips_event rfl rfl

theorem creditReturn (core : Nat) (agent : Nat) : Statement (.creditReturn core agent) := roundTrips_event rfl rfl

theorem timeoutFires (id : Nat) : Statement (.timeoutFires id) := roundTrips_event rfl rfl

theorem wispCapture (die : Nat) : Statement (.wispCapture die) := roundTrips_event rfl rfl

theorem sloughArrival (id : Nat) : Statement (.sloughArrival id) := roundTrips_event rfl rfl

theorem flitRetry (core : Nat) (port : Nat) : Statement (.flitRetry core port) := roundTrips_event rfl rfl

theorem ringEntryDelivered (core : Nat) (ch : Nat) : Statement (.ringEntryDelivered core ch) := roundTrips_event rfl rfl

theorem peerLinkUp (link : Nat) : Statement (.peerLinkUp link) := roundTrips_event rfl rfl

theorem peerLinkDown (link : Nat) : Statement (.peerLinkDown link) := roundTrips_event rfl rfl

theorem held (fen : Nat) : Statement (.held fen) := roundTrips_event rfl rfl

theorem xinvFlush (fen : Nat) (va : BitVec 56) : Statement (.xinvFlush fen va) := roundTrips_event rfl rfl

theorem xinvRevoke (fen : Nat) (va : BitVec 56) : Statement (.xinvRevoke fen va) := roundTrips_event rfl rfl

theorem xinvSuspend (fen : Nat) (va : BitVec 56) : Statement (.xinvSuspend fen va) := roundTrips_event rfl rfl

theorem xinvResume (fen : Nat) (va : BitVec 56) : Statement (.xinvResume fen va) := roundTrips_event rfl rfl

theorem registerWrite (vf : Nat) (off : Nat) (v : BitVec 64) : Statement (.registerWrite vf off v) := roundTrips_event rfl rfl

theorem sessionRegisterWrite (vf : Nat) (off : Nat) (v : BitVec 64) : Statement (.sessionRegisterWrite vf off v) := roundTrips_event rfl rfl

theorem queueConfigWrite (vf : Nat) (q : Nat) (off : Nat) (v : BitVec 64) : Statement (.queueConfigWrite vf q off v) := roundTrips_event rfl rfl

theorem qkick (vf : Nat) (q : Nat) (v : BitVec 32) : Statement (.qkick vf q v) := roundTrips_event rfl rfl

theorem stampRetry (q : Nat) : Statement (.stampRetry q) := roundTrips_event rfl rfl

theorem qpoll (q : Nat) : Statement (.qpoll q) := roundTrips_event rfl rfl

theorem chead (vf : Nat) (q : Nat) (v : BitVec 32) : Statement (.chead vf q v) := roundTrips_event rfl rfl

theorem scrkick (vf : Nat) (v : BitVec 32) : Statement (.scrkick vf v) := roundTrips_event rfl rfl

theorem sevhead (vf : Nat) (v : BitVec 32) : Statement (.sevhead vf v) := roundTrips_event rfl rfl

theorem evhead (v : BitVec 32) : Statement (.evhead v) := roundTrips_event rfl rfl

theorem create (fen : Nat) (c : SessCmd) : Statement (.create fen c) := roundTrips_event rfl rfl

theorem append (fen : Nat) (c : SessCmd) : Statement (.append fen c) := roundTrips_event rfl rfl

theorem close (fen : Nat) (c : SessCmd) : Statement (.close fen c) := roundTrips_event rfl rfl

theorem enable (fen : Nat) (c : SessCmd) : Statement (.enable fen c) := roundTrips_event rfl rfl

theorem fcreate (fen : Nat) (c : SessCmd) : Statement (.fcreate fen c) := roundTrips_event rfl rfl

theorem ffree (fen : Nat) (c : SessCmd) : Statement (.ffree fen c) := roundTrips_event rfl rfl

theorem sdrop (fen : Nat) (c : SessCmd) : Statement (.sdrop fen c) := roundTrips_event rfl rfl

theorem sessionAge (fen : Nat) (sess : Nat) : Statement (.sessionAge fen sess) := roundTrips_event rfl rfl

theorem batchForm (fen : Nat) (model : Nat) : Statement (.batchForm fen model) := roundTrips_event rfl rfl

theorem storeBack (fen : Nat) (model : Nat) (set : Nat) : Statement (.storeBack fen model set) := roundTrips_event rfl rfl

theorem fenform (r : MgmtReq) : Statement (.fenform r) := roundTrips_event rfl rfl

theorem fenend (r : MgmtReq) : Statement (.fenend r) := roundTrips_event rfl rfl

theorem coremove (r : MgmtReq) : Statement (.coremove r) := roundTrips_event rfl rfl

theorem peerlink (r : MgmtReq) : Statement (.peerlink r) := roundTrips_event rfl rfl

theorem regset (r : MgmtReq) : Statement (.regset r) := roundTrips_event rfl rfl

theorem attest (r : MgmtReq) : Statement (.attest r) := roundTrips_event rfl rfl

theorem health (r : MgmtReq) : Statement (.health r) := roundTrips_event rfl rfl

theorem svnraise (r : MgmtReq) : Statement (.svnraise r) := roundTrips_event rfl rfl

theorem scrubPoint (core : Nat) : Statement (.scrubPoint core) := roundTrips_event rfl rfl

theorem joining (core : Nat) : Statement (.joining core) := roundTrips_event rfl rfl

theorem member (core : Nat) : Statement (.member core) := roundTrips_event rfl rfl

theorem boot : Statement (.boot) := roundTrips_event rfl rfl

theorem bankRetention (core : Nat) (bank : Nat) : Statement (.bankRetention core bank) := roundTrips_event rfl rfl

theorem limiterWindow (f : Nat) : Statement (.limiterWindow f) := roundTrips_event rfl rfl

theorem marginReport (core : Nat) (ps : Int) : Statement (.marginReport core ps) := roundTrips_event rfl rfl

theorem voltageAdjust (core : Nat) : Statement (.voltageAdjust core) := roundTrips_event rfl rfl

theorem sramError (core : Nat) (site : SramSite) (double : Bool) : Statement (.sramError core site double) := roundTrips_event rfl rfl

theorem reservedSessionCommand (fen : Nat) (c : SessCmd) : Statement (.reservedSessionCommand fen c) := roundTrips_event rfl rfl

theorem reservedManagementRequest (r : MgmtReq) : Statement (.reservedManagementRequest r) := roundTrips_event rfl rfl

end Sys2Proof.Laws.RoundTrip
end

