-- ==== Sys2Proof/Tests/Slice0.lean ====
section
/-! SUPPORT. Small tests of the model: ill-formed terms that the checks refuse, words written out from the spec's encodings, and states
that meet the hypotheses of the statements. -/

namespace Sys2Proof.Tests
open Sys2Proof Sys2Proof.Machine
set_option Elab.async false

/-! ### Ill-formed terms: each stands for one check of `Instr.wf` -/

/-- Every instruction of a list is refused. -/
def refuses (l : List Instr) : Bool := l.all fun i => !i.wf

/-- A record with the fields that its checks read. -/
def recOf (typ variant : BitVec 4) (aux : BitVec 16 := 0#16) (opA opB : BitVec 32 := 0#32) : Record :=
  ⟨variant, 0#4, 0#5, 0#5, false, typ, aux, 0#16, opA, opB⟩

/-- R40, R93, R98, R106, Table 2.5: DLY 0, loop bodies of 0, TPOST 0, CHK out of its file, prefixes with reserved or no fields. -/
theorem test_wf_control : refuses [.dly 0#16, .loop 0#2 1#4 0#16, .loopi 0#2 3#16 0#6, .tpost 0#5 0#8, .chk 0#2 16#6, .chk 1#2 4#6,
    .chk 3#2 24#6, .pfx 0#1 0#5 0#4 0#3 0#1 0#1 0#1 0#1, .pfx 0#1 1#5 0#4 4#3 0#1 0#1 0#1 0#1, .pfx 1#1 0#5 1#4 0#3 0#1 0#1 0#1 0#1,
    .pfx 1#1 0#5 0#4 1#3 0#1 0#1 0#1 0#1, .pfx 1#1 0#5 0#4 0#3 0#1 0#1 0#1 1#1] = true := by decide
/-- R48, R122, R130, R134: reserved op fields, FADD of 64 bits, CAS with an odd register, SWAP as a reduction, LDX of 8 bytes. -/
theorem test_wf_access : refuses [.amo32 1#6 0#4 0#6 11#4 0#4, .amo64 2#6 0#4 0#6 10#4 0#4, .amoh32 1#6 0#4 0#6 9#4 0#4,
    .amoh64 2#6 0#4 0#6 10#4 0#4, .red32 2#6 0#4 0#6 8#4 0#4, .red64 2#6 0#4 0#6 10#4 0#4, .redh32 2#6 0#4 0#6 9#4 0#4,
    .redh64 2#6 0#4 0#6 8#4 0#4, .ldxScratch 1#6 2#6 0#1 0#5 3#2 0#4, .ldxHandle 1#6 2#4 0#6 0#1 3#2 0#4, .fence 3#2 0#3 1#16,
    .fence 0#2 5#3 1#16, .fence 0#2 0#3 0#16, .trn 0#4 1#6 0#1 3#2] = true := by decide
/-- R137, R138, R140, R218, R224, R225: CPUSH of an odd pair, queues that the word does not reach, run lengths of 0 and 65, a level of 0 and
7, registers and counters that do not exist. -/
theorem test_wf_system : refuses [.cpush 0#6 3#6, .cpush 0#6 0#6, .qpush 0#6 4#3, .qpop 0#6 3#3, .mlease 0#7, .slease 65#7, .wbar 0#6,
    .wbar 7#6, .csrr 1#6 0xFFF#12, .csrw 1#6 0xFFF#12, .cntr 1#6 0xFFF#12] = true := by decide
/-- R49, R148 to R153: v registers above v47, integer types of float words and float types of integer words, an unordered compare of integers. -/
theorem test_wf_vector : refuses [.vadd 48#6 0#6 0#6 0#4, .vsub 0#6 48#6 0#6 0#4, .vmul 0#6 0#6 48#6 0#4, .vfma 0#6 0#6 0#6 3#4,
    .vfms 0#6 0#6 0#6 9#4, .vfnma 0#6 0#6 0#6 9#4, .vmin 0#6 0#6 0#6 7#4, .vmax 0#6 0#6 0#6 7#4, .vabs 0#6 0#6 3#4, .vneg 0#6 0#6 3#4,
    .vexp2 0#6 0#6 1#4, .vlog2 0#6 0#6 1#4, .vrcp 0#6 0#6 2#4, .vrsq 0#6 0#6 2#4, .vsqrt 0#6 0#6 9#4, .vfloor 0#6 0#6 9#4,
    .vceil 0#6 0#6 9#4, .vrint 0#6 0#6 9#4, .vcmp 0#6 0#6 0#6 9#4 3#2, .vsel 0#6 0#6 0#6 15#4, .vselc 0#6 0#6 0#6 15#4,
    .viadd 0#6 0#6 0#6 0#4 0#2, .viadd 0#6 0#6 0#6 9#4 2#2, .visub 0#6 0#6 0#6 9#4 3#2, .vimul 0#6 0#6 0#6 13#4, .vimulh 0#6 0#6 0#6 0#4,
    .vimulhu 0#6 0#6 0#6 0#4, .vand 0#6 0#6 0#6 9#4, .vor 0#6 0#6 0#6 9#4, .vxor 0#6 0#6 0#6 9#4, .vandn 0#6 0#6 0#6 9#4,
    .vshl 0#6 0#6 0#6 0#4, .vshr 0#6 0#6 0#6 0#4, .vsra 0#6 0#6 0#6 0#4, .vimin 0#6 0#6 0#6 13#4, .vimax 0#6 0#6 0#6 13#4,
    .viminu 0#6 0#6 0#6 13#4, .vimaxu 0#6 0#6 0#6 13#4] = true := by decide
/-- R154 to R168: conversions that Table 6.6 lacks, equal destinations, types of the row words, rotations, queues and splats. -/
theorem test_wf_rows : refuses [.vcvt 0#6 0#6 0#4 0#1 0#4, .vcvt 0#6 0#6 9#4 0#1 3#4, .vqblk 1#6 0#6 1#6 3#4, .vdqblk 1#6 0#6 2#6 0#4,
    .vpsum 0#6 0#6 1#4, .vpsumx 0#6 0#6 1#4, .vpmax 0#6 0#6 13#4, .vpxor 0#6 0#6 9#4, .vredsum 0#6 0#6 1#4, .vredmax 0#6 0#6 1#4,
    .vredmin 0#6 0#6 1#4, .vredsq 0#6 0#6 1#4, .vtopk 1#6 0#6 1#6 0#4 0#2, .vtopk 1#6 0#6 2#6 2#4 0#2, .vperm 0#6 0#6 0#6 6#4,
    .vrot 0#6 0#6 2048#12, .vwin 48#6 0#4 0#4, .vsmax 3#6 0#6 2#6 0#4, .vsmax 4#6 0#6 1#6 0#4, .vld 48#6 0#4 0#10 0#4,
    .vst 48#6 0#4 0#10 0#4, .vldState 48#6 0#4 0#10 0#4, .vstState 48#6 0#4 0#10 0#4, .vpopq 0#6 4#3 0#4, .vpopq 0#6 0#3 2#4,
    .vpushq 0#6 3#3 0#4, .vpushq 0#6 4#3 10#4, .vsplat 0#6 3#2 0#16, .vmov 0#6 0#6 15#4, .vrxpop 48#6] = true := by decide
/-- R52, R54, R195, R196, Table 8.2, Table 8.3: thresholds without WE, lengths of shaped records, variants, types and operand spaces. -/
theorem test_wf_transfers : refuses [.fcopy { recOf 11 0 2 with thr := 1#16 }, .fcopy (recOf 11 0 0x801), .fcopy (recOf 11 0 0x1001),
    .fcopy (recOf 11 1 2), .fcopy (recOf 12 0 2), .fcopy (recOf 11 0 2 0x43000000), .fgath (recOf 12 0 2), .fgath (recOf 11 0 0x800),
    .fxfm (recOf 6 1 2), .fxfm (recOf 0 0 2), .cbload (recOf 1 1 1), .cbload (recOf 6 0 1), .cbload (recOf 1 0 2), .cbload (recOf 1 0 1 0 1),
    .fcrc (recOf 11 0 2), .scopy (recOf 11 0 2 0 0x40000000), .sscat (recOf 12 0 2), .sreds (recOf 9 8 2), .sreds (recOf 9 10 2),
    .smcast (recOf 12 0 2), .scrc (recOf 11 0 2)] = true := by decide
/-- R53, R175, R176, Tables 7.1 to 7.3: reserved variants and types, destinations that are not the record's. -/
theorem test_wf_commands : refuses [.mldw (recOf 1 1 0 0 0x42000000), .mldw (recOf 6 0 0 0 0x42000000), .mldw (recOf 1 0 0 0 0x40000000),
    .mstrm (recOf 1 1 0 0 0x40000000), .mstrm (recOf 1 0 0 0 0), .mswap (recOf 0 1), .mswap (recOf 1 0), .mswap (recOf 0 0 1),
    .mdrain (recOf 5 0 0 0x40000000), .mdrain (recOf 0 1 0 0x40000000), .mzero (recOf 1 0 0 0 0x40000000), .mzero (recOf 0 0 1 0 0x40000000),
    .mcvt (recOf 0 1 0 0x40000000), .mcvt (recOf 0 8 0 0x40000000), .scand (recOf 1 0 0 0 0x40000000), .scand (recOf 0 0 0x4100 0 0x40000000),
    .scanm (recOf 0 4 0 0 0x40000000), .scanm (recOf 0 0 9 0 0x40000000), .semit (recOf 0 1 0 0x40000000), .scmpct (recOf 0 1 0 0 0x40000000),
    .scmpct (recOf 0 0 0 1)] = true := by decide
/-- Numbers of objects that the package does not have, and requests and commands under another code. -/
theorem test_wf_events : refuses [.leaseGrant 96 0, .leaseGrant 0 2, .resultLands 384 0, .resultLands 0 5, .waitEnds 384 0,
    .transferRecordBegins 0 4, .commandBegins 96 0, .commandCompletes 0 4, .trapTaken 384 0 .align 0#64 0#16, .shadowSwap 384, .spillDone 384,
    .contextFill 384, .launchStart 256, .refusedLaunch 256, .placement 2, .gangPlacement 2, .preemption 2, .withdrawal 0 2,
    .completionRecord 256, .mereExtension 96, .creditReturn 96 0, .wispCapture 2, .flitRetry 0 6, .ringEntryDelivered 97 0, .peerLinkUp 2,
    .peerLinkDown 2, .held 16, .xinvFlush 16 0#56, .xinvRevoke 16 0#56, .xinvSuspend 16 0#56, .xinvResume 16 0#56, .registerWrite 65 0 0#64,
    .sessionRegisterWrite 65 0 0#64, .queueConfigWrite 0 256 0 0#64, .qkick 65 0 0#32, .stampRetry 256, .qpoll 256, .chead 0 256 0#32,
    .scrkick 65 0#32, .sevhead 65 0#32] = true := by decide
/-- The same of session, management and device events. -/
theorem test_wf_device : (let c : SessCmd := ⟨0#16, 0#8, 0#32, 0#64, 0#64, 0#64⟩
    let r : MgmtReq := ⟨0, 0#16, 9#8, []⟩
    refuses [.create 0 c, .append 0 c, .close 0 c, .enable 0 c, .fcreate 0 c, .ffree 0 c, .sdrop 0 c, .sessionAge 0 65536, .batchForm 0 64,
      .storeBack 0 0 2, .fenform r, .fenend r, .coremove r, .peerlink r, .regset r, .attest r, .health r, .svnraise r, .scrubPoint 96,
      .joining 96, .member 96, .bankRetention 0 16, .limiterWindow 49, .marginReport 96 0, .voltageAdjust 96, .sramError 0 (.line (2 ^ 60)) true,
      .sramError 0 (.handle 0 8192) true, .reservedSessionCommand 16 c, .reservedManagementRequest ⟨2, 0#16, 9#8, []⟩,
      .reservedManagementRequest ⟨0, 0#16, 8#8, []⟩]) = true := by decide

/-! ### Words written out bit by bit: S, major, then the fields of the format (Tables 2.3, 2.6, 2.9 and 2.11) -/

/-- Formats CN, CD, CJ, CB, CQ and CJR. -/
theorem test_decode_branches :
    decodeWord 0 0b1_0000001_000000000000000000000000 = (true, some .nop) ∧
    decodeWord 2 0b0_0000010_00000000_0000000000000111 = (false, some (.dly 7#16)) ∧
    decodeWord 0 0b1_0000011_111111111111111111111110 = (true, some (.br 0xFFFFFE#24)) ∧
    decodeWord 4 0b1_0001001_1111_0001_0000000000000010 = (true, some (.bgeu 15#4 1#4 2#16)) ∧
    decodeWord 1 0b1_0001010_1_0000000_0000000000000011 = (true, some (.bqt 3#16)) ∧
    decodeWord 1 0b1_0001010_0_0000000_0000000000000011 = (true, some (.bqf 3#16)) ∧
    decodeWord 0 0b1_0001010_1_0000000_0000000000000011 = (true, none) ∧
    decodeWord 0 0b1_0001100_0000_1_0000000000000000000 = (true, some .ret) ∧
    decodeWord 0 0b1_0001100_0101_0_0000000000000000000 = (true, some (.jr 5#4)) ∧
    decodeWord 0 0b1_0001100_0101_1_0000000000000000000 = (true, none) := by decide
/-- Formats CL, CLI, CA, CI, CW and CM. -/
theorem test_decode_loops_and_addresses :
    decodeWord 0 0b0_0001101_11_0010_00_0000000000010000 = (false, some (.loop 3#2 2#4 16#16)) ∧
    decodeWord 3 0b0_0001110_01_0000000000000011_111111 = (false, some (.loopi 1#2 3#16 63#6)) ∧
    decodeWord 0 0b0_0010010_0001_0010_0011_0100_00000000 = (false, some (.addma 1#4 2#4 3#4 4#4)) ∧
    decodeWord 0 0b0_0010011_0001_0010_1111111111111111 = (false, some (.addia 1#4 2#4 0xFFFF#16)) ∧
    decodeWord 0 0b0_0010101_0001_0010_0000000000_111111 = (false, some (.sllia 1#4 2#4 63#6)) ∧
    decodeWord 0 0b0_0011000_1110_10_00_1010101010101010 = (false, some (.movka 14#4 2#2 0xAAAA#16)) ∧
    decodeWord 0 0b0_0011001_1_10_0101_00000000000000000 = (false, some (.movla 2#2 5#4)) ∧
    decodeWord 0 0b0_0011001_0_10_0101_00000000000000000 = (false, some (.moval 2#2 5#4)) := by decide
/-- Formats CT, CK, CS, CN and CP. -/
theorem test_decode_tokens :
    decodeWord 0 0b1_0100000_00101_0_00_0000000000001000 = (true, some (.twait 5#5 8#16)) ∧
    decodeWord 0 0b1_0100000_00101_1_00_000000000000_1001 = (true, some (.twaitReg 5#5 9#4)) ∧
    decodeWord 0 0b1_0100001_11111_00000000000_11111111 = (true, some (.tpost 31#5 255#8)) ∧
    decodeWord 0 0b1_0100010_00001_0010_1_00000000000000 = (true, some (.tstat 1#5 2#4 1#1)) ∧
    decodeWord 0 0b1_0100011_11_010111_0000000000000000 = (true, some (.chk 3#2 23#6)) ∧
    decodeWord 0 0b1_0100100_0001_0010_0011_0100_00000000 = (true, some (.selcShared 1#4 2#4 3#4 4#4)) ∧
    decodeWord 1 0b1_0100101_000000000000000000000000 = (true, some .estop) ∧
    decodeWord 1 0b0_0111111_0_00000_1010_101_0_1_1_0_0000000 = (false, some (.pfx 0#1 0#5 10#4 5#3 0#1 1#1 1#1 0#1)) := by decide
/-- Formats SR, SI, SW, S4 and SK. -/
theorem test_decode_integer :
    decodeWord 0 0b0_1000000_000001_000010_000011_000000 = (false, some (.add 1#6 2#6 3#6)) ∧
    decodeWord 0 0b0_1000000_000001_000010_000011_101001 = (false, some (.clmulh 1#6 2#6 3#6)) ∧
    decodeWord 0 0b0_1000000_000001_000010_000000_110100 = (false, some (.bswap 1#6 2#6)) ∧
    decodeWord 0 0b0_1000000_000001_000010_000011_110100 = (false, none) ∧
    decodeWord 0 0b0_1000010_111111_000000_100000000001 = (false, some (.andi 63#6 0#6 0x801#12)) ∧
    decodeWord 0 0b0_1000101_000001_000010_10_0000_010000 = (false, some (.srai 1#6 2#6 16#6)) ∧
    decodeWord 0 0b0_1001001_000001_11_1111111111111111 = (false, some (.movk 1#6 3#2 0xFFFF#16)) ∧
    decodeWord 0 0b0_1001010_000001_000010_000011_000100 = (false, some (.sel 1#6 2#6 3#6 4#6)) ∧
    decodeWord 0 0b0_1001100_101_000111_000000000000000 = (false, some (.kset 5#3 7#6)) ∧
    decodeWord 0 0b0_1001101_000111_101_000000000000000 = (false, some (.kget 7#6 5#3)) := by decide
/-- Formats SB, SM, SH, SA, SF and SN. -/
theorem test_decode_access :
    decodeWord 0 0b0_1001110_000001_000010_000011_10_0100 = (false, some (.ldb 1#6 2#6 3#6 2#2 4#4)) ∧
    decodeWord 0 0b0_1010000_000001_000010_1_11111_11_1111 = (false, some (.ldScratch 1#6 2#6 1#1 31#5 3#2 15#4)) ∧
    decodeWord 0 0b0_1010010_000001_000010_0_00011_10_0101 = (false, some (.stScratch 1#6 2#6 3#5 2#2 5#4)) ∧
    decodeWord 0 0b0_1010010_000001_000010_1_00011_10_0101 = (false, none) ∧
    decodeWord 0 0b0_1010111_000001_0010_000011_0_11_0100_0 = (false, some (.stHandle 1#6 2#4 3#6 3#2 4#4)) ∧
    decodeWord 0 0b0_1011001_000010_0001_000011_1001_0111 = (false, some (.amo64 2#6 1#4 3#6 9#4 7#4)) ∧
    decodeWord 0 0b0_1011110_000010_0001_000011_1010_0111 = (false, some (.redh32 2#6 1#4 3#6 10#4 7#4)) ∧
    decodeWord 0 0b1_1100000_10_100_000_1000000000000001 = (true, some (.fence 2#2 4#3 0x8001#16)) ∧
    decodeWord 0 0b1_1100001_000000_000011_000000_000000 = (true, some (.publ 3#6)) ∧
    decodeWord 0 0b0_1100010_0001_000010_1_01_00000000000 = (false, some (.trn 1#4 2#6 1#1 1#2)) := by decide
/-- The function majors 0x63 to 0x6C, and formats SQ and SL. -/
theorem test_decode_rings :
    decodeWord 0 0b0_1100011_000001_000010_000011_000011 = (false, some (.hnarrow 1#4 2#4 3#6)) ∧
    decodeWord 0 0b0_1100011_010001_000010_000011_000011 = (false, none) ∧
    decodeWord 0 0b1_1100100_000000_000010_000011_000010 = (true, some (.rwaitf 2#6 3#6)) ∧
    decodeWord 0 0b0_1100101_000000_000010_000100_000000 = (false, some (.cpush 2#6 4#6)) ∧
    decodeWord 0 0b0_1100110_000001_011_000000000000000 = (false, some (.qpush 1#6 3#3)) ∧
    decodeWord 0 0b1_1101001_000000_000010_000011_000100 = (true, some (.park 2#6 3#6 4#4)) ∧
    decodeWord 0 0b0_1101010_1_0_1000000_000000000000000 = (false, some (.slease 64#7)) ∧
    decodeWord 0 0b0_1101010_0_1_0000000_000000000000000 = (false, some .mrel) ∧
    decodeWord 0 0b0_1101011_000001_000010_000000_000000 = (false, some (.rand 1#6 2#6)) ∧
    decodeWord 0 0b0_1101100_000001_000010_000000_000011 = (false, some (.frmFork 1#6 2#6)) := by decide
/-- Formats SC and SJ, and the majors 0x70 to 0x77. -/
theorem test_decode_system :
    decodeWord 0 0b0_1101101_000001_000100000000_000000 = (false, some (.csrr 1#6 0x100#12)) ∧
    decodeWord 0 0b0_1101110_000001_000000000000_000000 = (false, some (.csrw 1#6 0#12)) ∧
    decodeWord 0 0b0_1101111_000001_000000000110_000000 = (false, some (.cntr 1#6 6#12)) ∧
    decodeWord 0 0b0_1110000_000001_000000_000000_000000 = (false, some (.wget 1#6)) ∧
    decodeWord 0 0b1_1110010_000000_000000_000000_000110 = (true, some (.wbar 6#6)) ∧
    decodeWord 0 0b1_1110011_000000_000000_000000_000000 = (true, some .wdone) ∧
    decodeWord 0 0b1_1110101_000000_00_0000000000000101 = (true, some (.trap 5#16)) ∧
    decodeWord 0 0b1_1110110_000000_000000_000000_000000 = (true, some .eret) ∧
    decodeWord 0 0b1_1110111_000000_000000_000000_000001 = (true, none) ∧
    decodeWord 0 0b1_1111001_000001_000000000000000100 = (true, some (.bnz 1#6 4#18)) := by decide
/-- Formats VV, VU, VC, VB, VI, VW, VM, VQ, VS and VN. -/
theorem test_decode_vector :
    decodeWord 1 0b0_1000011_000001_000010_000011_0010_10 = (false, some (.vfnma 1#6 2#6 3#6 2#4)) ∧
    decodeWord 1 0b0_1000110_000001_000010_000010_0000_00 = (false, some (.vexp2 1#6 2#6 0#4)) ∧
    decodeWord 1 0b0_1001111_000001_000010_000011_1001_11 = (false, some (.vimaxu 1#6 2#6 3#6 9#4)) ∧
    decodeWord 1 0b0_1010000_000001_000010_0001_1_0_0000_00 = (false, some (.vcvt 1#6 2#6 1#4 1#1 0#4)) ∧
    decodeWord 1 0b0_1010101_000001_000010_000011_0000_11 = (false, some (.vtopk 1#6 2#6 3#6 0#4 3#2)) ∧
    decodeWord 1 0b0_1010111_000001_000010_011111111111 = (false, some (.vrot 1#6 2#6 2047#12)) ∧
    decodeWord 1 0b0_1011000_000001_0010_0011_0000000000 = (false, some (.vwin 1#6 2#4 3#4)) ∧
    decodeWord 1 0b0_1011100_000001_0010_1111111111_0011 = (false, some (.vldState 1#6 2#4 1023#10 3#4)) ∧
    decodeWord 1 0b0_1011111_000001_100_000000000_1001_00 = (false, some (.vpushq 1#6 4#3 9#4)) ∧
    decodeWord 1 0b0_1100000_000001_10_1000000000000000 = (false, some (.vsplat 1#6 2#2 0x8000#16)) ∧
    decodeWord 1 0b0_1100010_101111_000000000000000000 = (false, some (.vrxpop 47#6)) ∧
    decodeWord 1 0b0_1100010_110000_000000000000000000 = (false, none) := by decide
/-- Records: word 0 from S to type, word 1 from aux to threshold, then opA and opB. -/
theorem test_decode_records :
    decodeRecord 3 0b1_1000010_0101_0010_00011_00100_1_0_1001 0b0000_0_00000000100_0000000000000111 0x100 0x200 =
      some (.sreds ⟨5#4, 2#4, 3#5, 4#5, true, 9#4, 4#16, 7#16, 0x100#32, 0x200#32⟩) ∧
    decodeRecord 4 0b1_1000010_0000_0000_00000_00110_0_0_0000 0 0 0 =
      some (.mswap ⟨0#4, 0#4, 0#5, 6#5, false, 0#4, 0#16, 0#16, 0#32, 0#32⟩) ∧
    decodeRecord 4 0b1_1001000_0000_0000_00000_00001_0_0_0000 0b01000000_00000001_0000000000000000 0x100 0x40000000 =
      some (.scand ⟨0#4, 0#4, 0#5, 1#5, false, 0#4, 0x4001#16, 0#16, 0x100#32, 0x40000000#32⟩) ∧
    decodeRecord 4 0b1_1000010_0000_0000_00000_00110_0_0_0000 1 0 0 = none ∧
    decodeRecord 2 0b0_1000000_0000_0000_00000_00001_0_0_1011 0x10000 0 0x40 = none := by decide
/-- A run of zeroed memory is no instruction (R43), in words and in a record slot. -/
theorem test_decode_zero : decodeWord 0 0 = (false, none) ∧ decodeWord 1 0 = (false, none) ∧ decodeRecord 2 0 0 0 0 = none := by decide

/-! ### Small states -/

/-- A register of a value, poisoned or not. -/
def reg (w : Word) (p : Option Cause := none) : Reg := { val := w, tag := { poison := p } }

/-- Core 0 a member of fen 0, at clock 100, with a context of number 1 on sub-core 0 whose sequencer executes. -/
def at0 (c : Ctx) (e : Nat := 0) : State :=
  { clock := 100, cores := [(0, { st := .member })], fens := [(0, { formed := true })], subs := [(0, { act := { c with cid := 1 } })],
    cur := { e } }

/-- Registers with the values that corner cases take. -/
def regs : Ctx :=
  { s := [(1, reg 7), (2, reg 5), (3, reg 9 (some .memerr)), (4, reg 0x8000000000000000), (5, reg 0xFFFFFFFFFFFFFFFF), (6, reg 64),
          (48, reg 11), (49, reg 12), (50, reg 13 (some .memerr))] }

/-- If no launch of a state has a mode of the order log, no launch number has one. -/
theorem olmode_zero (s : State) (h : (s.queues.all fun p => (queueOf s p.1).launches.all fun l => l.olmode == 0#2) = true) (n : Nat) :
    (launchOf s n).olmode = 0#2 := by
  unfold launchOf findLaunch
  split
  · rename_i q l hl
    obtain ⟨⟨q', x⟩, hx, hm⟩ := List.exists_of_findSome?_eq_some hl
    simp only [Option.map_eq_some_iff, Prod.mk.injEq] at hm
    obtain ⟨l', hf, -, rfl⟩ := hm
    have := List.all_eq_true.mp (List.all_eq_true.mp h _ hx) l' (List.mem_of_find?_eq_some hf)
    simpa using this
  · rfl

/-! ### States that meet the hypotheses of the statements, one theorem for each statement, with its clauses in order -/

theorem witness_AluFunctions :
    (rdS (curCtx (at0 regs)) (1#6).toNat = ⟨7, none⟩ ∧ rdS (curCtx (at0 regs)) (2#6).toNat = ⟨5, none⟩) ∧
    (rdS (curCtx (at0 regs)) (3#6).toNat = ⟨9, some .memerr⟩ ∧ rdS (curCtx (at0 regs)) (0#6).toNat = ⟨0, none⟩) := by decide
theorem witness_Division :
    (rdS (curCtx (at0 regs)) (1#6).toNat = ⟨7, none⟩ ∧ rdS (curCtx (at0 regs)) (0#6).toNat = ⟨0#64, none⟩) ∧
    (rdS (curCtx (at0 regs)) (4#6).toNat = ⟨0x8000000000000000#64, none⟩ ∧
      rdS (curCtx (at0 regs)) (5#6).toNat = ⟨0xFFFFFFFFFFFFFFFF#64, none⟩) ∧
    (rdS (curCtx (at0 regs)) (2#6).toNat = ⟨5, none⟩ ∧ (5 : Word) ≠ 0#64 ∧
      ¬ ((7 : Word) = 0x8000000000000000#64 ∧ (5 : Word) = 0xFFFFFFFFFFFFFFFF#64)) := by decide
theorem witness_BitFunctions :
    (rdS (curCtx (at0 regs)) (4#6).toNat = ⟨0x8000000000000000, none⟩ ∧ rdS (curCtx (at0 regs)) (5#6).toNat = ⟨0xFFFFFFFFFFFFFFFF, none⟩) ∧
    rdS (curCtx (at0 regs)) (0#6).toNat = ⟨0#64, none⟩ ∧ (rdS (curCtx (at0 regs)) (1#6).toNat = ⟨7, none⟩ ∧ (7 : Word) ≠ 0#64) := by decide
theorem witness_MovesAndSelects :
    rdS (curCtx (at0 regs)) (1#6).toNat = ⟨7, none⟩ ∧ rdS (curCtx (at0 regs)) (0#6).toNat = ⟨0#64, none⟩ ∧
    rdA (curCtx (at0 regs)) (at0 regs).cur.e (1#4).toNat = ⟨12, none⟩ ∧ rdS (curCtx (at0 regs)) (3#6).toNat = ⟨9, some .memerr⟩ ∧
    (let c : Ctx := { s := [(1, { tag := { pending := some 4 } })], k := [(0, { tag := { pending := some 0 } })] }
     (1 ≠ 0 ∧ pendingOf c (.s 1) = some 4) ∧ pendingOf c (.k 0) = some 0) := by decide
theorem witness_ComputeFrame : ∃ t, exec (.add 1#6 2#6 3#6) (at0 regs) = .next t := ⟨_, rfl⟩
theorem witness_LandingWrites :
    (let l : Nat → Dest → Landing := fun n d => { left := n, dest := d, val := .word 7 }
     (l 0 (.s 63)).val = .word 7 ∧ (63 ≠ 0 ∧ pendingOf regs (l 0 (.s 63)).dest = none) ∧ pendingOf regs (l 0 (.h 15)).dest = none ∧
     pendingOf regs (l 0 (.k 7)).dest = none ∧ ((4 : Nat) ≠ 0 ∧ pendingOf regs (l 0 (.a 4 15)).dest = none) ∧
     pendingOf regs (l 0 (.l 0 3)).dest = none ∧ pendingOf regs (l 0 .lr).dest = none ∧ (l 0 (.s 0)).dest = .s 0 ∧
     (Dest.s 1 ≠ (l 0 (.s 63)).dest) ∧ (15 < 16 ∧ (tget {} regs.s (48 + 15)).tag.pending = none ∧ (l 0 (destA 0 15)).dest = destA 0 15)) := by
  decide
theorem witness_AddressArithmetic :
    rdA (curCtx (at0 regs)) (at0 regs).cur.e (0#4).toNat = ⟨11, none⟩ ∧ rdA (curCtx (at0 regs)) (at0 regs).cur.e (2#4).toNat = ⟨13, some .memerr⟩ ∧
    rdA (curCtx (at0 regs 4)) (at0 regs 4).cur.e (15#4).toNat = ⟨0, none⟩ ∧ rdL (curCtx (at0 regs)) (at0 regs).cur.e (3#2).toNat = ⟨0, none⟩ := by
  decide
theorem witness_Branches :
    ((at0 regs).cur.e = 0 ∧ (at0 regs 1).cur.e ≠ 0 ∧
      ringSpan { at0 regs 1 with cores := [(0, { rings := [(0, { kind := 3, base := 0x1000, count := 16 })] })] } = (0x1000, 256) ∧ 0 < 256) ∧
    (rdA (curCtx (at0 regs)) (at0 regs).cur.e (0#4).toNat = ⟨11, none⟩ ∧ rdA (curCtx (at0 regs)) (at0 regs).cur.e (1#4).toNat = ⟨12, none⟩ ∧
      rdS (curCtx (at0 regs)) (0#6).toNat = ⟨0, none⟩) ∧
    (headQ (curCtx (at0 regs 1)) 6 (at0 regs 1).clock = none ∧
      headQ (curCtx (at0 { q := [(6, [⟨1, none, 100⟩])] } 1)) 6 100 = some ⟨1, none, 100⟩ ∧
      headQ (curCtx (at0 { q := [(6, [⟨0, some .memerr, 99⟩])] } 1)) 6 100 = some ⟨0, some .memerr, 99⟩) ∧
    (rdA (curCtx (at0 regs 1)) (at0 regs 1).cur.e (15#4).toNat = ⟨0, none⟩ ∧ rdLr (curCtx (at0 regs)) = ⟨0, none⟩ ∧
      rdA (curCtx (at0 regs)) (at0 regs).cur.e (2#4).toNat = ⟨13, some .memerr⟩) := by decide
theorem witness_PlainControl :
    ((0#4).toNat < 8 ∧ 8 ≤ (15#4).toNat) ∧ rdA (curCtx (at0 regs)) (at0 regs).cur.e (15#4).toNat = ⟨0, none⟩ ∧
    (let l : Nat → LoopReg := fun n => { count := BitVec.ofNat 32 n }
     ((l 2).tag = {} ∧ 2 ≤ (l 2).count.toNat) ∧ ((l 1).tag = {} ∧ (l 1).count = 1#32) ∧
     (let p : LoopReg := { count := 1, tag := { poison := some .memerr } }
      p.tag.pending = none ∧ p.tag.poison = some .memerr)) := by decide
theorem witness_ThresholdCondition :
    (let lead : BitVec 16 → BitVec 16 → Nat := fun c t => (t.toNat + 2 ^ 16 - c.toNat) % 2 ^ 16
     lead 5 5 = 0 ∧ lead 5 6 = 1 ∧ lead 0 16383 = 16383 ∧ lead 0 16384 = 16384 ∧ lead 0 32768 = 32768 ∧ lead 0 32769 = 32769 ∧
     lead 1 0 = 65535) := by decide

theorem witness_Tokens :
    (let c : Ctx := { t := [(0, { count := 8 }), (1, { count := 16392 })], s := [(48, reg 8)] }
     (at0 c).cur.mark = 0 ∧ (tget {} (curCtx (at0 c)).t 0).count = 8#16 ∧
     (tokenMet (at0 c) 0 0 0 8 = true ∧ (threshold 8 8).2 = false) ∧ (tokenMet (at0 c) 0 0 1 8 = true ∧ (threshold 16392 8).2 = false) ∧
     (tokenMet (at0 c) 0 0 0 16392 = true ∧ (threshold 8 16392).2 = true) ∧ tokenMet (at0 c) 0 0 0 9 = false ∧
     (rdA (curCtx (at0 c)) 0 (0#4).toNat = ⟨8, none⟩ ∧ tokenMet (at0 c) 0 0 0 ((8 : Word).setWidth 16) = true ∧ heldWord (at0 c) = none)) ∧
    ((chkVal (at0 regs) 2#2 1#6).p = none ∧ (chkVal (at0 regs) 2#2 3#6).p = some .memerr ∧ 2#2 ≠ 3#2 ∧
      (let s := at0 { h := [(15, reg 0x40 (some .xlate))] }
       (chkVal s 3#2 15#6).p = some .xlate ∧ s.cur.e = 0 ∧ (15#6).toNat < 16 ∧ causeResumable .xlate = true)) ∧
    (findCtx (at0 regs) 1 = some (0, 0) ∧ 0 ≤ 2) := by decide

/-- A state with a byte listed and a line poisoned. -/
def stored : State := { at0 regs with mem := [(64, 0x12#8)], ecc := [2] }
theorem witness_HomeReadAfterWrite : Memory.wf stored.mem ∧ poisoned stored (.scratch 64) 64 = false ∧ poisoned stored (.scratch 128) 1 = true := by decide
theorem witness_MemoryCanonicalKept : Memory.wf State.reset.mem ∧ ∃ t, step State.reset = .next t := ⟨by decide, _, rfl⟩

/-- Registers that hold addresses: local, of another core of the fen, at the end of the slice, misaligned, of the state store, handles. -/
def addrs : Ctx :=
  { s := [(1, reg 0x1000), (2, reg 0x80_1000), (3, reg 0x58_FFF8), (4, reg 0x1001), (5, reg 0x2F_FFF8), (6, reg 0x2F_FFFC), (7, reg 0x77),
          (8, reg 0), (9, reg 0x59_0000), (48, reg 0x1000)],
    h := [(0, reg 0x0801_0008_0000_0010), (1, reg 0x0000_0000_0000_0000)] }

/-- The state of the accesses: cores 0 and 1 in fen 0, a program ring in b16, a page in entry 1 of the handle table. -/
def accessed (c : Ctx := addrs) : State :=
  { at0 c with cores := [(0, { st := .member, rings := [(16, { kind := 1, ssz := 4, count := 8, base := 0x2000, phase := 0x3000 })] }),
                         (1, { st := .member })],
               fens := [(0, { formed := true, htcap := 8, ht := [(1, { alloc := true, base := 0, size := 4096, pa := 0x10000, r := true,
                                                                       w := true, lo := 0, hi := 4096, gen := 1, present := true })] })] }

/-- An access to core 1 in flight, its packet at its agent. -/
def arrivedAt (q : Access) : State :=
  { accessed with accs := [q], mesh := [{ id := 90, kind := .request, job := .access q.id, src := 0, dest := 1, agent := 1, k := 0, g := 0,
                                          place := .arrived }] }

theorem witness_Loads :
    (let s := accessed
     let free : Loc → Nat → Bool := fun l n => isLocal (curCore s) l && decide (precedes s (curCtx s).cid 0 true l n = []) &&
       !((coreOf s (curCore s)).comb.any fun e => overlaps e.loc e.size l n) && !badView s (curCtx s).cid l n
     (rdS (curCtx s) (3#6).toNat = ⟨0x58_FFF8, none⟩ ∧ 8 = 2 ^ (3#2).toNat ∧ (0x58_FFF8 + (0#5).toNat * 8) % 2 ^ 64 % 8 = 0 ∧
       scratchError s s.cur.g 0x58_FFF8 8 = none ∧ free (.scratch 0x58_FFF8) 8 = true) ∧
     (rdS (curCtx s) (5#6).toNat = ⟨0x2F_FFF8, none⟩ ∧ 0x2F_FFF8 % 8 = 0 ∧ stateError s (curCore s) 0x2F_FFF8 8 = false ∧
       free (.state (curCore s) 0x2F_FFF8) 8 = true ∧
       badView (touchBanks s 0 0x2F_FFF8 8) (curCtx s).cid (.state 0 0x2F_FFF8) 8 = false) ∧
     (let r := ringOf s (curCore s) (16#6).toNat
      let ra := r.base.toNat + (0x77 : Word).toNat % (r.count.toNat * 2 ^ r.ssz.toNat)
      rdS (curCtx s) (7#6).toNat = ⟨0x77, none⟩ ∧ r.kind ≠ 0#2 ∧ ra % 1 = 0 ∧ scratchError s s.cur.g ra 1 = none ∧ free (.scratch ra) 1 = true)) ∧
    (let s := accessed
     rdS (curCtx s) (2#6).toNat = ⟨0x80_1000, none⟩ ∧ 0x80_1000 = ((0x80_1000 : Word).toNat + (0#5).toNat * 4) % 2 ^ 64 ∧ 0x80_1000 % 4 = 0 ∧
      scratchError s s.cur.g 0x80_1000 4 = none ∧ isLocal (curCore s) (.scratch 0x80_1000) = false ∧
      noCredit s (curCore s) (.scratch 0x80_1000) = false) ∧
    (let q : Access := { id := 5, g := 0, cid := 1, kind := .load true, cls := 0, loc := .scratch 0x80_1000, size := 4 }
     let s := arrivedAt q
     q.kind = .load true ∧ q.token = none ∧ s.accs.find? (fun y => y.id == q.id && y.isRed == false) = some q ∧ canPerform s q = true ∧
     (askBanks s q.need).1 = true ∧ isLocal (coreNo q.g) q.loc = false) := by
  decide

theorem witness_Stores :
    (let s := accessed
     let fits : Nat → Nat → Bool := fun a n => a % n == 0 && decide (scratchError s s.cur.g a n = none) && !shadowOver s (curCtx s).cid [(a, n)] &&
       !noCredit s (curCore s) (.scratch a)
     (rdS (curCtx s) (3#6).toNat = ⟨0x58_FFF8, none⟩ ∧ rdS (curCtx s) (7#6).toNat = ⟨0x77, none⟩ ∧ 8 = 2 ^ (3#2).toNat ∧ fits 0x58_FFF8 8 = true ∧
       fits 0x80_1000 4 = true) ∧
     (0x2F_FFF8 % 8 = 0 ∧ stateError s (curCore s) 0x2F_FFF8 8 = false) ∧
     (let r := ringOf s (curCore s) (16#6).toNat
      let ra := r.base.toNat + (0x77 : Word).toNat % (r.count.toNat * 2 ^ r.ssz.toNat)
      r.kind ≠ 0#2 ∧ fits ra 1 = true)) ∧
    (let q : Access := { id := 5, g := 0, cid := 1, kind := .store, cls := 0, loc := .scratch 0x80_1000, size := 4, data := 0x77 }
     let s := arrivedAt q
     (askBanks s q.need).1 = true ∧ hostRefuses s q.loc q.size = false ∧
     Memory.wf s.mem ∧ (s.queues.all fun p => p.2.launches.all fun l => l.olmode == 0#2) = true ∧ q.kind = .store ∧
     s.accs.find? (fun y => y.id == q.id && y.isRed == false) = some q ∧ canPerform s q = true ∧ (ctxOfCid s q.cid).step = none ∧
     inRanges (stepRanges s (ctxOfCid s q.cid).step) 0x80_1000 = false) := by decide
/-- A store to the step's output range 0x1000 to 0x103F, the launch's record naming it. -/
theorem witness_Stores_shadow :
    (let st : StepCtx := { lid := 3, item := 0 }
     let q : Access := { id := 5, g := 0, cid := 1, kind := .store, cls := 0, loc := .scratch 0x1038, size := 8, data := 0x77 }
     let l : Launch := { lid := 3, fen := 0, queue := 0, lnr := List.replicate 12 0#8 ++ [1#8] ++ List.replicate 147 0#8 ++
                                                                 [0#8, 0x10#8, 0#8, 0#8, 0x40#8, 0#8, 0#8, 0#8] }
     let s := { accessed { addrs with step := some st } with accs := [q], queues := [(0, { launches := [l] })] }
     Memory.wf s.mem ∧ (s.queues.all fun p => p.2.launches.all fun l => l.olmode == 0#2) = true ∧ q.kind = .store ∧
     s.accs.find? (fun y => y.id == q.id && y.isRed == false) = some q ∧ canPerform s q = true ∧ q.loc = .scratch 0x1038 ∧
     (askBanks s q.need).1 = true ∧ hostRefuses s q.loc q.size = false ∧
     (ctxOfCid s q.cid).step = some st ∧ (∀ i, i < q.size → inRanges (stepRanges s (some st)) (0x1038 + i) = true) ∧ 0 < q.size ∧
     inRanges (stepRanges s (some st)) 0x1040 = false ∧
     shadowCount { st with shadow := ((leBytes q.size q.data.toNat).zipIdx 0x1038).foldl (fun t (b, i) => tset t i b) st.shadow } ≤ 1024) := by
  decide

/-- A store to a region that the step holds, beside its ends, and one to a core with no region (R273). -/
theorem witness_Stores_held :
    (let r : Region := ⟨64, 4, [1], [2], 3, 0, 0, none⟩
     let q (o : Nat) : Access := { id := 5, g := 0, cid := 1, kind := .store, cls := 0, loc := .state 0 o, size := 8, data := 0x77 }
     let s (o : Nat) : State := { accessed { addrs with step := some { lid := 3, item := 0 } } with
       accs := [q o], cores := [(0, { st := .member, regions := [r] })] }
     let met (o : Nat) : Bool := decide ((s o).accs.find? (fun y => y.id == 5 && y.isRed == false) = some (q o)) && canPerform (s o) (q o) &&
       (askBanks (s o) (q o).need).1 && !hostRefuses (s o) (q o).loc 8 && decide (regionAt (coreOf (s o) 0) o = some r) &&
       holds (ctxOfCid (s o) 1).step r && decide (o % 64 + 8 ≤ 64)
     Memory.wf (s 64).mem ∧ ((s 64).queues.all fun p => p.2.launches.all fun l => l.olmode == 0#2) = true ∧ r.off % 64 = 0 ∧
     met 64 = true ∧ met 0xF8 = true ∧ met 0x138 = true ∧ r.act.contains 1 = true ∧ r.dirty.contains 2 = true ∧ r.dirty.contains 0 = false ∧
     regionAt (coreOf (s 64) 0) 0x140 = none ∧ (coreOf accessed 0).regions = []) := by decide

/-- Poisoned operands, and the second half of a live region. -/
theorem witness_AccessTraps_poisoned :
    (let s := accessed { addrs with s := tset addrs.s 10 (reg 0x1000 (some .memerr)) }
     rdS (curCtx s) (10#6).toNat = ⟨0x1000, some .memerr⟩ ∧ rdS (curCtx s) (7#6).toNat = ⟨0x77, none⟩ ∧
     rdS (curCtx s) (1#6).toNat = ⟨0x1000, none⟩ ∧ 0x1000 % 8 = 0 ∧ stateError s (curCore s) 0x1000 8 = false ∧
     (ringOf s (curCore s) (16#6).toNat).kind ≠ 0#2 ∧ ((ringOf s (curCore s) (16#6).toNat).base.toNat +
       0x1000 % ((ringOf s (curCore s) (16#6).toNat).count.toNat * 2 ^ (ringOf s (curCore s) (16#6).toNat).ssz.toNat)) % 8 = 0) ∧
    (let r : Region := ⟨64, 4, [], [], 3, 0, 0, none⟩
     let s := { accessed with cores := [(0, { st := .member, regions := [r] })] }
     r ∈ (coreOf s (curCore s)).regions ∧ 0x140 < r.off + 128 * r.lines ∧ r.off + 64 * r.lines < 0x140 + 8) := by decide

theorem witness_AccessTraps :
    (let s := accessed
     (rdS (curCtx s) (4#6).toNat = ⟨0x1001, none⟩ ∧ rdS (curCtx s) (7#6).toNat = ⟨0x77, none⟩ ∧ 2 = 2 ^ (1#2).toNat ∧
       0x1001 = ((0x1001 : Word).toNat + (0#5).toNat * 2) % 2 ^ 64 ∧ 0x1001 % 2 ≠ 0) ∧
     (rdS (curCtx s) (6#6).toNat = ⟨0x2F_FFFC, none⟩ ∧ 0x30_0000 < 0x2F_FFFC + 8) ∧ (ringOf s (curCore s) (63#6).toNat).kind = 0#2 ∧
     (rdS (curCtx s) (9#6).toNat = ⟨0x59_0000, none⟩ ∧ 0x59_0000 % 8 = 0 ∧ scratchError { s with cur := { g := 1 } } 1 0x59_0000 8 = some 2)) := by
  decide

theorem witness_HandleAccesses :
    (let s := accessed
     let h := Handle.ofWord
     (h 0x1801_0008_0000_0010).fen ≠ 0 ∧ ((h 0x0802_0008_0000_0010).fen = 0 ∧ (hentry s 0 (h 0x0802_0008_0000_0010).index).gen = 1 ∧
       (h 0x0802_0008_0000_0010).gen = 2) ∧ ((h 0x0001_0008_0000_0010).acc = 0) ∧ ((h 0x0801_0008_0000_0FFF).off + 8 > 4096) ∧
     checkHandle s 0 0x1801_0008_0000_0010 0 8 2 false = .fail 4 ∧ checkHandle s 0 0x0802_0008_0000_0010 0 8 2 false = .fail 5 ∧
     checkHandle s 0 0x0001_0008_0000_0010 0 8 1 false = .fail 6 ∧ checkHandle s 0 0x0801_0008_0000_0FF8 1 8 0 false = .fail 7 ∧
     checkHandle s 0 0x0801_0008_0000_0FF8 0 8 0 false = .pass 0x10FF8) ∧
    (let s := accessed
     rdH (curCtx s) (0#4).toNat = ⟨0x0801_0008_0000_0010, none⟩ ∧ rdS (curCtx s) (0#6).toNat = ⟨0, none⟩ ∧ 8 = 2 ^ (3#2).toNat ∧
     ((Handle.ofWord 0x0801_0008_0000_0010).off + (0 : Word).toNat) % 8 = 0 ∧ noCredit s (curCore s) (.phys 0x10010) = false ∧
     checkHandle s (curFen s) 0x0801_0008_0000_0010 0 8 0 (atM s) = .pass 0x10010 ∧ rdS (curCtx s) (7#6).toNat = ⟨0x77, none⟩ ∧
     checkHandle s (curFen s) 0x0801_0008_0000_0010 0 8 1 (atM s) = .pass 0x10010) := by decide
theorem witness_HandleAccesses_absent :
    (let s := { accessed with fens := [(0, { ht := [(1, { alloc := true, r := true, w := true, hi := 4096, gen := 1 })] })] }
     checkHandle s 0 0x0801_0008_0000_0010 0 8 0 false = .absent) := by decide

/-- Accesses to host memory at 0x10 through a handle: clean, with an uncorrected error, and refused by the host's completer. -/
theorem witness_HandleAccesses_performs :
    (let q (k : AccKind) : Access := { id := 5, g := 0, cid := 1, kind := k, cls := 15, loc := .phys (2 ^ 51 + 0x10), size := 2, token := some 31 }
     let s (k : AccKind) : State := { accessed with
       accs := [q k]
       mesh := [{ id := 90, kind := .request, job := .access 5, src := 0, dest := 0, agent := 144, k := 0, g := 0, place := .arrived }] }
     let found (k : AccKind) : Bool := decide ((s k).accs.find? (fun y => y.id == 5 && y.isRed == false) = some (q k)) && canPerform (s k) (q k)
     found (.load true) = true ∧ found (.load false) = true ∧ found .store = true ∧ hostRefuses (s .store) (.phys (2 ^ 51 + 0x10)) 2 = false ∧
     poisoned (s .store) (.phys (2 ^ 51 + 0x10)) 2 = false ∧
     poisoned { s .store with ecc := [(2 ^ 60 + 2 ^ 51 + 0x10) / 64] } (.phys (2 ^ 51 + 0x10)) 2 = true ∧
     hostRefuses { s .store with hostBad := [(2 ^ 51 + 0x11, 1)] } (.phys (2 ^ 51 + 0x10)) 2 = true ∧
     canPerform { s .store with hostBad := [(2 ^ 51 + 0x11, 1)] } (q .store) = true ∧ (15 : Nat) < 16 ∧ (findCtx (s .store) 1).isSome = true) := by decide

/-- Resting reductions: a twin of one to 0x1000, one that shares a byte with it, others, and 64 of them. -/
def resting (es : List (Nat × Nat × Nat)) : State :=
  { accessed with cores := [(0, { st := .member, comb := es.zipIdx.map fun ((a, n, cls), i) =>
      { id := i + 2, op := 0, size := n, loc := .scratch a, cls, operand := 3, contributors := [1], after := [] } })] }
theorem witness_AtomicsIssue_merges :
    (let met (s : State) : Bool := (s.queues.all fun p => p.2.launches.all fun l => l.olmode == 0#2) &&
       (coreOf s (curCore s)).comb.all fun e => flushable s (curCore s) e
     let s := resting [(0x1000, 8, 0), (0x2000, 8, 0)]
     let u := resting [(0x1004, 4, 0), (0x2000, 8, 0)]
     let f := resting ((List.range 64).map fun i => (0x2000 + 8 * i, 8, 0))
     let shares (s : State) : List Bool := (coreOf s 0).comb.map fun e => overlaps e.loc e.size (.scratch 0x1000) 8
     met s = true ∧ met u = true ∧ met f = true ∧ (rdS (curCtx s) (0#6).toNat = ⟨0, none⟩ ∧ rdS (curCtx s) (7#6).toNat = ⟨0x77, none⟩ ∧
       rdA (curCtx s) 0 (0#4).toNat = ⟨0x1000, none⟩ ∧ 0x1000 % 8 = 0 ∧ scratchError s s.cur.g 0x1000 8 = none) ∧
     (coreOf s 0).comb.map (fun e => decide (e.size = 8 ∧ e.op = 0 ∧ e.loc = .scratch 0x1000 ∧ e.cls = 0)) = [true, false] ∧
     shares u = [true, false] ∧ (coreOf f 0).comb.length = 64 ∧ (shares f).all (!·) = true ∧
     (rdS (curCtx u) (1#6).toNat = ⟨0x1000, none⟩ ∧ noCredit u (curCore u) (.scratch 0x1000) = false ∧
       shadowOver u (curCtx u).cid [(0x1000, 8)] = false) ∧
     (1#2 ≠ 0#2 ∧ pendingErrors (curCtx s) &&& 1#16 = 0#16 ∧ waitMet (beforeGroup s) s.cur.g s.cur.e (.fence (1#2).toNat (3#3).toNat 1#16) = false)) := by
  decide +kernel

theorem witness_AtomicsPerform :
    ((4 = 4 ∨ 4 = 8) ∧ (8 = 4 ∨ 8 = 8)) ∧
    (let q : Access := { id := 5, g := 0, cid := 1, kind := .amo 9, cls := 0, loc := .scratch 0x1000, size := 8, expect := 3, dest := .s 2,
                         token := some 31 }
     let r : Access := { id := 6, g := 0, cid := 1, kind := .red 0, cls := 0, loc := .scratch 0x1000, size := 4, data := 1 }
     let s := { accessed with accs := [q, r] }
     Memory.wf s.mem ∧ (s.queues.all fun p => p.2.launches.all fun l => l.olmode == 0#2) = true ∧
     ((askBanks s q.need).1 = true ∧ hostRefuses s q.loc q.size = false ∧ (askBanks s r.need).1 = true ∧ hostRefuses s r.loc r.size = false) ∧
     (canPerform s q = true ∧ poisoned s q.loc q.size = false ∧ q.kind = .amo 9 ∧
       s.accs.find? (fun y => y.id == q.id && y.isRed == false) = some q ∧ q.token = some 31) ∧
     (canPerform s r = true ∧ poisoned s r.loc r.size = false ∧ r.kind = .red 0 ∧
       s.accs.find? (fun y => y.id == r.id && y.isRed == true) = some r)) := by decide

theorem witness_AtomicsIssue :
    (let s := accessed
     rdS (curCtx s) (0#6).toNat = ⟨0, none⟩ ∧ rdS (curCtx s) (8#6).toNat = ⟨0, none⟩ ∧ (9#4 = 9#4 ∧ rdS (curCtx s) ((8#6).toNat + 1) = ⟨0x59_0000, none⟩) ∧
     (0#4 ≠ 9#4) ∧
     (rdA (curCtx s) 0 (0#4).toNat = ⟨0x1000, none⟩ ∧ 0x1000 = ((0x1000 : Word) + 0).toNat ∧ 0x1000 % 8 = 0 ∧
       scratchError s s.cur.g 0x1000 8 = none ∧ noCredit s (curCore s) (.scratch 0x1000) = false) ∧
     (rdH (curCtx s) (0#4).toNat = ⟨0x0801_0008_0000_0010, none⟩ ∧ ((Handle.ofWord 0x0801_0008_0000_0010).off + (0 : Word).toNat) % 8 = 0 ∧
       checkHandle s (curFen s) 0x0801_0008_0000_0010 0 8 2 (atM s) = .pass 0x10010 ∧ noCredit s (curCore s) (.phys 0x10010) = false) ∧
     (coreOf s (curCore s)).comb = [] ∧ (s.queues.all fun p => p.2.launches.all fun l => l.olmode == 0#2) = true) := by decide

theorem witness_FenceAndPubl :
    (let s := accessed
     (pendingErrors (curCtx s) &&& 1#16 = 0#16 ∧ waitMet (beforeGroup s) s.cur.g s.cur.e (.fence 2 4 1#16) = true) ∧
     (pendingErrors (curCtx (accessed { addrs with errs := 1 })) &&& 1#16 ≠ 0#16) ∧
     (rdS (curCtx s) (7#6).toNat = ⟨0x77, none⟩ ∧ heldWord s = none ∧ (7#6 : BitVec 6) ≠ 0#6 ∧
       waitMet (beforeGroup (holdWord s 0x77)) s.cur.g s.cur.e (.publ 0x77) = true) ∧
     (rdS (curCtx s) (0#6).toNat = ⟨0, none⟩ ∧ waitMet (beforeGroup (holdWord s (BitVec.allOnes 64))) s.cur.g s.cur.e (.publ (BitVec.allOnes 64)) = true)) ∧
    (let st : StepCtx := { lid := 3, item := 0, shadow := [(0x1000, 0x55#8), (0x1001, 0x66#8)] }
     let s := accessed { addrs with step := some st }
     Memory.wf s.mem ∧ (ctxOfCid s 1).step = some st ∧ st.shadow.Pairwise (fun a b => a.1 < b.1) ∧ (0x1000, 0x55#8) ∈ st.shadow ∧
     inFen s 0 (0x1000 / 0x80_0000) = true) := by decide

theorem witness_PacketEvents :
    (let p : Posted := { id := 4, cid := 1, dest := .s 2, val := 7, poison := none, token := some 31, status := 0, due := 100 }
     let s := { accessed with posted := [p] }
     s.posted.find? (·.id == p.id) = some p ∧ p.token = some 31) ∧
    ((ctxAt (at0 { arrive := [{ left := 0, dest := .s 1, val := .word 7 }] }) 0 0).arrive ≠ []) ∧ 95 < 96 ∧
    (let a : Packet := { id := 5, kind := .request, job := .access 7, src := 0, dest := 1, agent := 1, k := 0, g := 0, place := .lane 0 1 2 7 true }
     let b : Packet := { id := 6, kind := .request, job := .access 8, src := 0, dest := 3, agent := 3, k := 0, g := 0, due := 100, place := .slough 3 }
     let s := { accessed with mesh := [a, b] }
     (0 < 2 ∧ (dieOf s 0).wisp < 48 ∧ firedAt s (0 * 48 + (dieOf s 0).wisp) = [a] ∧ tget 0 (dieOf s 0).sloughs (0 * 48 + (dieOf s 0).wisp) = 0) ∧
     firedAt s (1 * 48 + (dieOf s 1).wisp) = [] ∧
     (s.mesh.find? (·.id == b.id) = some b ∧ b.place = .slough 3 ∧ b.due ≤ s.clock ∧ 3 = b.dest)) := by decide

/-- Page tables from 0x10000 that give the page of 1 GiB at address 0: the entries of levels 0, 1 and 2. -/
def tables : List Host.Cell :=
  [(2 ^ 60 + 0x10000, 0x01#8), (2 ^ 60 + 0x10001, 0x10#8), (2 ^ 60 + 0x10002, 0x01#8), (2 ^ 60 + 0x11000, 0x01#8), (2 ^ 60 + 0x11001, 0x20#8),
   (2 ^ 60 + 0x11002, 0x01#8), (2 ^ 60 + 0x12000, 0x0F#8), (2 ^ 60 + 0x12003, 0x40#8)]
/-- The accesses' state with these tables, and a translation of another page in the core's cache. -/
def paged (c : Ctx := addrs) : State :=
  { accessed c with
    mem := tables
    fens := [(0, { formed := true, grantBase := 0, grantLen := 0x1_0000_0000, ptroot := 0x10000, htcap := 8,
                   ht := [(1, { alloc := true, base := 0x8000_0000, size := 4096, pa := 0x10000, r := true, w := false, lo := 0, hi := 4096,
                                gen := 1, present := true })] })]
    cores := [(0, { st := .member, l1 := [{ fen := 0, base := 0x8000_0000, size := 4096, index := 1, r := true, w := false }] })] }

theorem witness_HandleFunctions :
    (let s := accessed
     let h := Handle.ofWord 0x0801_0008_0000_0010
     let e := hentry s (curFen s) h.index
     rdH (curCtx s) (0#4).toNat = ⟨0x0801_0008_0000_0010, none⟩ ∧ rdS (curCtx s) (7#6).toNat = ⟨0x77, none⟩ ∧
     handleNames s (curFen s) h = none ∧
     (let lo := h.off + (0x77 : Word).toNat % 2 ^ 32
      let hi := lo + (0x77 : Word).toNat / 2 ^ 32
      e.lo ≤ lo ∧ hi ≤ e.hi ∧ freeEntry (fenOf s (curFen s)) = some 2 ∧ 2 < 2 ^ 13 ∧ lo < 2 ^ 35 ∧ (hentry s (curFen s) 2).gen < 2 ^ 10) ∧
     (rdS (curCtx s) (1#6).toNat = ⟨0x1000, none⟩ ∧ e.hi < h.off + (0x1000 : Word).toNat % 2 ^ 32 + (0x1000 : Word).toNat / 2 ^ 32)) ∧
    (let s := accessed { addrs with pl := 1 }
     rdH (curCtx s) (0#4).toNat = ⟨0x0801_0008_0000_0010, none⟩ ∧ (curCtx accessed).pl = 0#2 ∧ (curCtx s).pl ≠ 0#2 ∧
     handleNames s (curFen s) (Handle.ofWord 0x0801_0008_0000_0010) = none ∧
     waitMet (beforeGroup s) s.cur.g s.cur.e (.hrev (Handle.ofWord 0x0801_0008_0000_0010).index) = true) := by decide

theorem witness_TrnAndWalk :
    (let s := paged { s := [(1, reg 0x0100_0000_0000_0000), (2, reg 0x8000_0010), (3, reg 0x1000)] }
     let b : Tlb := { fen := 0, base := 0x8000_0000, size := 4096, index := 1, r := true, w := false }
     (rdS (curCtx s) (1#6).toNat = ⟨0x0100_0000_0000_0000, none⟩ ∧ 2 ^ 56 ≤ (0x0100_0000_0000_0000 : Word).toNat) ∧
     (rdS (curCtx s) (2#6).toNat = ⟨0x8000_0010, none⟩ ∧ (0x8000_0010 : Word).toNat < 2 ^ 56 ∧
       (coreOf s (curCore s)).l1.find? (fun b => b.serves s (curFen s) (0x8000_0010 : Word).toNat) = some b ∧
       b.allows (0#2).toNat (atM s) = true ∧ b.allows (1#2).toNat (atM s) = false) ∧
     (rdS (curCtx s) (3#6).toNat = ⟨0x1000, none⟩ ∧ (0x1000 : Word).toNat < 2 ^ 56 ∧
       (coreOf s (curCore s)).l1.find? (fun b => b.serves s (curFen s) (0x1000 : Word).toNat) = none)) ∧
    (let w : WalkOp := { id := 4, g := 0, cid := 1, fen := 0, va := 0x1000, acc := 0, atM := false, dest := .h 2, token := some 5, due := 100 }
     let x : WalkOp := { w with id := 5, va := 0x4000_0000 }
     let s := { paged with walks := [w, x] }
     let ok : WalkOp → Bool := fun w => !walkHeld s w && decide (((dieOf s (dieNo (coreNo w.g))).l2.find? fun t => t.serves s w.fen w.va.toNat) = none)
     (s.walks.find? (·.id == w.id) = some w ∧ w.token = some 5 ∧ ok w = true ∧
       walkVa s w.fen w.va.toNat = .page 0 0x4000_0000 0x4000_0000 true true false ∧ pageEntry (fenOf s w.fen) 0 0x4000_0000 = none ∧
       freeEntry (fenOf s w.fen) = some 2 ∧ 0 < 0x4000_0000 ∧ (w.acc = 1 ∨ true = true) ∧ w.acc = 0) ∧
     (s.walks.find? (·.id == x.id) = some x ∧ x.token = some 5 ∧ ok x = true ∧ walkVa s x.fen x.va.toNat = .none false)) := by decide

theorem witness_XinvEffects :
    15 < 16 ∧
    (let s := paged
     let e := hentry s 0 1
     (e.alloc = true ∧ e.base ≤ (0x8000_0FFF#56).toNat ∧ (0x8000_0FFF#56).toNat < e.base + e.size) ∧
     walkVa s 0 (0x8000_0FFF#56).toNat = .none false) ∧
    (let s := { paged with fens := [(0, { fenOf paged 0 with ht := [(1, { alloc := true, base := 0, size := 0x4000_0000 })] })] }
     walkVa s 0 (0x3FFF_FFFF#56).toNat = .page 0 0x4000_0000 0x4000_0000 true true false ∧ (hentry s 0 1).size = 0x4000_0000) := by decide

/-- The accesses' state with a program ring of 8 slots in b16: head 3, tail 5, claim 9, and the committed slot 6. -/
def ringed (head : Nat := 3) : State :=
  { accessed { s := [(1, reg 2), (2, reg 9), (3, reg 6), (4, reg 5), (5, reg 10), (6, reg 3)] } with
    mem := [(0x3006, 1#8)]
    cores := [(0, { st := .member, rings := [(16, { kind := 1, ssz := 4, count := 8, base := 0x2000, phase := 0x3000,
                                                    head := BitVec.ofNat 64 head, tail := BitVec.ofNat 64 (head + 2),
                                                    claim := BitVec.ofNat 64 (head + 6) })] })] }
theorem witness_RingFunctions :
    (let s := ringed
     let r := ringOf s (curCore s) (16#6).toNat
     let met : Word → Wait → Bool := fun n w => waitMet (beforeGroup (holdWord s n)) s.cur.g s.cur.e w
     heldWord s = none ∧ (s.queues.all fun p => p.2.launches.all fun l => l.olmode == 0#2) = true ∧ ringOk 16#6 r = true ∧
     (rdS (curCtx s) (1#6).toNat = ⟨2, none⟩ ∧ (2 : Word).toNat ≤ r.count.toNat ∧ met 2 (.rclaim 16 2) = true) ∧
     (rdS (curCtx s) (2#6).toNat = ⟨9, none⟩ ∧ r.count.toNat < (9 : Word).toNat) ∧
     (phaseOk (curCore s) r = true ∧ met 2 (.rwaitf 16 2) = true) ∧ (rdS (curCtx s) (5#6).toNat = ⟨10, none⟩ ∧ met 10 (.rwaite 16 10) = true) ∧
     ((2 : Word) ≠ 0#64 ∧ r.head.toNat + (2 : Word).toNat ≤ r.tail.toNat) ∧
     (rdS (curCtx s) (6#6).toNat = ⟨3, none⟩ ∧ r.tail.toNat < r.head.toNat + (3 : Word).toNat) ∧
     (Memory.wf s.mem ∧ rdS (curCtx s) (4#6).toNat = ⟨5, none⟩ ∧ r.tail.toNat ≤ (5 : Word).toNat ∧ (5 : Word).toNat < r.claim.toNat ∧
       phaseByte s r (5 : Word).toNat ≠ phaseOf r (5 : Word).toNat) ∧
     ringOk 15#6 r = false ∧
     (2 < r.head.toNat ∧ 4 < r.tail.toNat ∧ r.claim.toNat ≤ (9 : Word).toNat ∧ phaseByte s r (6 : Word).toNat = phaseOf r (6 : Word).toNat) ∧
     (let q (t c : Word) : State := { s with cores := [(0, { st := .member, rings := [(16, { r with tail := t, claim := c })] })] }
      (ringOf (q 2 9) (coreNo 0) (16#6).toNat).tail.toNat < (ringOf (q 2 9) (coreNo 0) (16#6).toNat).head.toNat ∧
      (ringOf (q 9 5) (coreNo 0) (16#6).toNat).claim.toNat < (ringOf (q 9 5) (coreNo 0) (16#6).toNat).tail.toNat ∧
      (ringOf (q 5 12) (coreNo 0) (16#6).toNat).head.toNat + (ringOf (q 5 12) (coreNo 0) (16#6).toNat).count.toNat <
        (ringOf (q 5 12) (coreNo 0) (16#6).toNat).claim.toNat)) ∧
    (let r := ringOf (ringed 40000) 0 16
     (2 : Word).toNat + 32768 ≤ r.head.toNat) := by decide

theorem witness_FedRingsAndQueues :
    (let f : Ring := { kind := 3, ssz := 4, count := 16, base := 0x4000, head := 3, tail := 4 }
     let s := { accessed addrs with cores := [(0, { st := .member, rings := [(0, f), (1, { f with tail := 19 })] })] }
     rdS (curCtx s) (2#6).toNat = ⟨0x80_1000, none⟩ ∧ rdS (curCtx s) ((2#6).toNat + 1) = ⟨0x58_FFF8, none⟩ ∧
     f = ringOf s (curCore s) (0#6).toNat ∧ (ringOf s (curCore s) (5#6).toNat).kind ≠ 3#2 ∧
     ((ringOf s (curCore s) (1#6).toNat).kind = 3#2 ∧
       fedCap (ringOf s (curCore s) (1#6).toNat) ≤ (ringOf s (curCore s) (1#6).toNat).tail.toNat - (ringOf s (curCore s) (1#6).toNat).head.toNat) ∧
     (f.kind = 3#2 ∧ f.tail.toNat - f.head.toNat < f.count.toNat ∧ Memory.wf s.mem ∧
       (s.queues.all fun p => p.2.launches.all fun l => l.olmode == 0#2) = true ∧ stepRanges s (ctxOfCid s (curCtx s).cid).step = [])) ∧
    (let full : List QEntry := List.replicate 16 ⟨7, none, 100⟩
     let c : Ctx := { q := [(3, full), (4, [⟨7, none, 100⟩]), (6, List.replicate 64 ⟨1, none, 100⟩)] }
     (queueOfCtx regs 3).length < queueCap regs 3 ∧ queueCap c 3 ≤ (queueOfCtx c 3).length ∧ (queueOfCtx regs 6).length < queueCap regs 6 ∧
     queueCap c 6 ≤ (queueOfCtx c 6).length ∧ (queueOfCtx c 4 = [⟨7, none, 100⟩] ∧ 100 ≤ (at0 c).clock) ∧ queueOfCtx c 5 = []) := by decide

theorem witness_ParkAndLeases :
    (let s := accessed
     let home : Nat → Bool := fun x => x / 0x80_0000 == curCore s && decide (scratchError s s.cur.g x 8 = none)
     (rdS (curCtx s) (2#6).toNat = ⟨0x80_1000, none⟩ ∧ home 0x80_1000 = false) ∧
     (rdS (curCtx s) (4#6).toNat = ⟨0x1001, none⟩ ∧ home 0x1001 = true ∧ 0x1001 % 8 ≠ 0) ∧
     (rdS (curCtx s) (3#6).toNat = ⟨0x58_FFF8, none⟩ ∧ home 0x58_FFF8 = true ∧ 0x58_FFF8 % 8 = 0 ∧
       parkBlocked (beforeGroup s) s.cur.g 0 0x58_FFF8 = false ∧ badView s (curCtx s).cid (.scratch 0x58_FFF8) 8 = false ∧
       (let w := BitVec.ofNat 64 (leNat (readView s (curCtx s).cid (.scratch 0x58_FFF8) 8))
        w ≠ (0x77 : Word) ∧ w = 0#64) ∧ (coreOf s (curCore s)).waits.length < 32)) ∧
    (let c : Ctx := { mreq := some { run := 64 }, eng := [(4, { stopped := false })] }
     let s : State := { accessed with subs := [(3, { act := c })] }
     95 < 96 ∧ 1 < 2 ∧ (leaseOf (coreOf s 0) 0).holder = none ∧ requests s (4 * 0 + 3) 0 = true ∧
     (∀ j, j < 4 → requests s (4 * 0 + j) 0 = true → (3 + 3 - (leaseOf (coreOf s 0) 0).last) % 4 ≤ (j + 3 - (leaseOf (coreOf s 0) 0).last) % 4) ∧
     (leaseOf (coreOf s 0) 0).last < 4) := by decide

theorem witness_SystemRegisters :
    (State.reset.seen = none ∧ (accessed.seen = none) ∧ (let x : Seen := { cores := [], subs := [], fens := [], queues := [], dies := [], xfers := [], peers := {}, svc := {} };
      ({ seen := some x } : State).seen = some x)) ∧
    (sysReg (0x208#12).toNat = some (3, 3) ∧ (curCtx (at0 regs)).pl.toNat < 3) ∧
    (sysReg (0x002#12).toNat = some (0, 1) ∧ 0 ≤ (curCtx (at0 regs)).pl.toNat) ∧
    (sysReg (0x102#12).toNat = some (1, 4) ∧ (4 = 4 ∨ (curCtx (at0 regs)).pl.toNat < 4)) ∧
    (sysReg (0x003#12).toNat = some (0, 0) ∧ 0 ≤ (curCtx (at0 regs)).pl.toNat ∧ rdS (curCtx (at0 regs)) (1#6).toNat = ⟨7, none⟩) ∧
    (3 ≤ (curCtx (at0 { regs with pl := 3 })).pl.toNat ∧ rdS (curCtx (at0 { regs with pl := 3 })) (5#6).toNat = ⟨0xFFFFFFFFFFFFFFFF, none⟩) ∧
    (rdS (curCtx (at0 regs)) (0#6).toNat = ⟨0#64, none⟩ ∧ (curCtx (at0 regs)).rndseed = 0#64 ∧ (curCtx (at0 regs)).rndctr = 0#64) := by decide

theorem witness_RegisterWritesThatAct :
    (let u := accessed
     let k (p : BitVec 2) (b : BitVec 6) : State := accessed { addrs with pl := p, rdsel := b }
     (curCtx u).pl = 0#2 ∧ (curCtx (k 1 0)).pl ≠ 3#2 ∧ (curCtx (k 1 0)).pl ≠ 0#2 ∧ (curCtx (k 3 0)).pl = 3#2 ∧
     rdS (curCtx (k 1 16)) (7#6).toNat = ⟨0x77, none⟩ ∧ 16 ≤ (curCtx (k 1 16)).rdsel.toNat ∧
     (let fits : Nat → Bool := fun x => x % 64 == 0 && 4 ≤ x / 2 ^ 52 % 16 && 1 ≤ x / 2 ^ 32 % 2 ^ 16 && x / 2 ^ 32 % 2 ^ 16 ≤ 4096 &&
        decide (0 ≤ x % 2 ^ 32) && decide (x % 2 ^ 32 + x / 2 ^ 32 % 2 ^ 16 * 2 ^ (x / 2 ^ 52 % 16) ≤ 0x59_0000)
      (0x4041_0000_0000_0000 / 2 ^ 62 = 1 ∧ fits 0x4041_0000_0000_0000 = false) ∧ (0x4040_1000_0058_0000 / 2 ^ 62 = 1 ∧ fits 0x4040_1000_0058_0000 = true) ∧
      (0x77 : Word).toNat / 2 ^ 62 = 0 ∧ 2 ≤ 0xC000_0000_0000_0000 / 2 ^ 62) ∧
     ((curCtx (k 1 15)).rdsel.toNat < 16 ∧ (curCtx (k 1 15)).pl ≠ 3#2) ∧
     (32 ≤ (fenOf u 0).cntsel.toNat ∧ ({ fenOf u 0 with cntsel := 31 } : Fen).cntsel.toNat < 32) ∧
     ((queueOf { u with queues := [(0, { owner := some 0 })] } (fenOf u 0).qsel.toNat).owner = some (curFen u) ∧
       (queueOf u (fenOf u 0).qsel.toNat).owner ≠ some (curFen u)) ∧
     regPlace (fenOf u 0).regsel = some 0 ∧
     ({ next := some (1, 2, 3, 4) } : Regul).next = some (1, 2, 3, 4) ∧ crSum (k 3 0) 0 0 { cr := 32768 } ≤ 32768 ∧ 32768 < crSum (k 3 0) 0 0 { cr := 32769 } ∧ 15 < 16) := by decide +kernel

/-- A launch of queue 2 of fen 0, with a record of no dimensions. -/
def launch (st : LaunchSt := .started) : Launch := { lid := 3, fen := 0, queue := 2, lnr := List.replicate 256 0#8, st, checked := true }
/-- The accesses' state with this launch, and a context that runs a resident step of it with the range 4 to 9. -/
def launched (c : Ctx := addrs) (l : Launch := launch) : State :=
  { accessed { c with step := some { lid := 3, item := 0, resident := true, lo := 4, hi := 9 } } with
    queues := [(2, { owner := some 0, launches := [l] })] }

theorem witness_FrameAndGangWords :
    (rdS (curCtx accessed) (1#6).toNat = ⟨0x1000, none⟩ ∧ rdS (curCtx accessed) (7#6).toNat = ⟨0x77, none⟩) ∧
    (let s := launched
     let c := curCtx s
     let st : StepCtx := { lid := 3, item := 0, resident := true, lo := 4, hi := 9 }
     (s.queues.all fun p => p.2.launches.all fun l => l.olmode == 0#2) = true ∧
     (c.step = some st ∧ st.ended = false ∧ st.resident = true ∧ st.lo < st.hi) ∧
     ((curCtx accessed).step = none ∧ (curCtx accessed).svc = false) ∧
     (let v (n : BitVec 16) : State := accessed { addrs with svc := true, pl := 1, errs := n }
      (curCtx (v 0)).step = none ∧ (curCtx (v 0)).svc = true ∧ pendingErrors (curCtx (v 1)) ≠ 0#16 ∧ pendingErrors (curCtx (v 0)) = 0#16 ∧
      waitMet (beforeGroup (v 0)) (v 0).cur.g (v 0).cur.e .wdone = true ∧ workDone (v 0) (v 0).cur.g (curCtx (v 0)).cid = true) ∧
     (rdS c (1#6).toNat = ⟨0x1000, none⟩ ∧ 383 < (0x1000 : Word).toNat) ∧
     (rdS c (7#6).toNat = ⟨0x77, none⟩ ∧ (0x77 : Word).toNat ≤ 383 ∧ heldWord s = none) ∧
     isGangLevel (launchOf s (lidOf c)) (1#6).toNat = false ∧
     (let q : Access := { id := 5, g := 0, cid := 1, kind := .store, cls := 0, loc := .scratch 0x1000, size := 8 }
      let busy : State := { s with accs := [q], cur := { s.cur with mark := 5 } }
      waitMet (beforeGroup busy) busy.cur.g busy.cur.e .wdone = true ∧ workDone busy busy.cur.g (curCtx busy).cid = false) ∧
     workDone s s.cur.g c.cid = true ∧
     (pendingErrors c = 0#16 ∧ waitMet (beforeGroup s) s.cur.g s.cur.e .wdone = true ∧ findLaunch s st.lid = some (2, launch)) ∧
     (rdS c (1#6).toNat = ⟨0x1000, none⟩ ∧ rdS c (7#6).toNat = ⟨0x77, none⟩ ∧ scratchError s s.cur.g 0x1000 256 = none ∧
       badView s c.cid (.scratch 0x1000) 256 = false ∧ 0x1000 % 64 = 0 ∧ 0x77 ≤ 255 ∧ (queueOf s 0x77).owner ≠ some (curFen s)) ∧
     (0x1001 % 64 ≠ 0) ∧
     (255 < 256 ∧ rdS (curCtx (launched { addrs with s := [(1, reg 0x1000), (2, reg 2)] })) (2#6).toNat = ⟨2, none⟩ ∧
       (queueOf s 2).owner = some (curFen s) ∧ waitMet (beforeGroup s) s.cur.g s.cur.e (.lnch 2) = true)) := by decide +kernel
/-- The victim of a split, a WBAR whose episode is met, a pending store error, and an answered WSTEAL. -/
theorem witness_FrameAndGangWords_gangs :
    (let me : StepCtx := { lid := 3, item := 0, resident := true, lo := 9, hi := 9 }
     let st : StepCtx := { lid := 3, item := 1, resident := true, lo := 4, hi := 9 }
     let k : Ctx := { cid := 2, step := some st }
     let s := { launched with subs := [(0, { act := { cid := 1, step := some me } }), (383, { act := k })] }
     (curCtx s).step = some me ∧ me.resident = true ∧ me.hi ≤ me.lo ∧ (383 : Word).toNat ≤ 383 ∧
     (contextsOf s me.lid).find? (fun (g, _, c) => g == (383 : Word).toNat &&
       (match c.step with | some st => st.resident && !st.ended | none => false)) = some (383, 0, k) ∧
     k.step = some st ∧ 2 ≤ st.hi - st.lo ∧ ¬ (383 = s.cur.g ∧ 0 = 0) ∧ 0 ≤ 1) ∧
    (let l : Launch := { launch with lnr := [0#8, 0#8, 0#8, 0#8, 0x20#8] }
     let st : StepCtx := { lid := 3, item := 0, arrived := some 6 }
     let s := { launched addrs l with subs := [(0, { act := { cid := 1, step := some st } })] }
     (curCtx s).step = some st ∧ isGangLevel (launchOf s st.lid) (6#6).toNat = true ∧ wbarMet (beforeGroup s) s.cur.g (6#6).toNat = true) ∧
    (let c : Ctx := { step := some { lid := 3, item := 0, errs := 1 }, eng := [(0, { held := [(0, 5)] })] }
     (curCtx (at0 c)).step = some { lid := 3, item := 0, errs := 1 } ∧ pendingErrors (curCtx (at0 c)) ≠ 0#16 ∧ heldWord (at0 c) = some 5) := by decide +kernel
/-- A frame command that names no frame. -/
theorem witness_FrameAndGangWords_frames : frmEffect accessed
    { id := 4, g := 0, cid := 1, fen := 0, fn := 3, a := 0x77, b := 0, dest := .s 2, token := 5, due := 100 } = .error .frm := rfl

theorem witness_LaunchLife :
    (let l := launch .queued
     let s := launched addrs l
     2 < 256 ∧ headLaunch s 2 = some l ∧ findLaunch s l.lid = some (2, l) ∧ l.checked = true ∧
     (startable s 2 = some l ∧ (fenOf s l.fen).ol.mode ≠ 2#2 ∧ l.budget = none) ∧
     startable (launched addrs { l with prev := 3 }) 2 = none) ∧
    (let l := launch .refused
     headLaunch (launched addrs l) 2 = some l ∧ l.st = .refused ∧ prevCompleted (launched addrs l) l = true) ∧
    (let l := { launch .queued with checked := false }
     headLaunch (launched addrs l) 2 = some l ∧ findLaunch (launched addrs l) l.lid = some (2, l) ∧ l.checked = false) ∧
    (let l := { launch with next := 1 }
     findLaunch (launched addrs l) l.lid = some (2, l) ∧ l.st = .started ∧ finished l = true) ∧
    (launch (.ending 1 0x0F 7)).st = .ending 1 0x0F 7 ∧
    (let l := { launch with budget := some (0, 0), live := 1 }
     findLaunch (launched addrs l) l.lid = some (2, l) ∧ l.budget = some (0, 0) ∧ 0 + 1000 * 0 < (launched addrs l).clock ∧ finished l = false ∧
     l.st = .started ∧ (contextsOf (launched addrs l) l.lid).map (fun x => (x.1, x.2.1)) = [(0, 0)]) ∧
    (let st : StepCtx := { lid := 3, item := 0, resident := true, lo := 4, hi := 9 }
     let s := { launched with cores := [(0, { st := .leaving })] }
     0 < 384 ∧ withdrawable s 0 0 = true ∧ (ctxOf s 0).step = some st ∧ findLaunch s st.lid = some (2, launch)) := by decide +kernel

theorem witness_LaunchResults :
    (let l := launch (.ending 1 0x0F 7)
     let s := { accessed with queues := [(2, { owner := some 0, launches := [{ l with waiter := some (1, 5) }] })] }
     2 < 256 ∧ completable s 2 = some { l with waiter := some (1, 5) } ∧ l.st = .ending 1 0x0F 7 ∧ l.olmode = 0#2 ∧
       (fenOf s l.fen).ol.out.any (·.1.tag == l.tag) = false ∧ (queueOf s 2).csize = 0#13) ∧
    (let l := launch (.ending 0 0 0)
     let s := { accessed with queues := [(2, { owner := some 0, launches := [l], csize := 4096, ctail := 0xFFFFFFFF, chead := 0xFFFFF000 })] }
     completable s 2 = some l ∧ (queueOf s 2).csize ≠ 0#13 ∧ Memory.wf s.mem) ∧
    (let w : Stuck := { cap := 8, g := 3, row := 0, num := 6, e := 0, dest := (3, 0, 6) }
     let s := { accessed with subs := [(3, { act := { cid := 1, eng := [(0, { pushTo := some 6 })] } })], cores := [(0, { stall := 256 })] }
     0 < 96 ∧ 256 ≤ (coreOf s 0).stall ∧
     sortBy stuckLe (((List.range 4).map (4 * 0 + ·)).flatMap fun g => [0, 1, 2, 3, 4].flatMap fun e => stuckOf s g e) = [w] ∧
     (dieOf s 0).mere.foldl (fun a (_, b) => a + b) 0 + extBytes w.dest.2.2 ≤ 65536 ∧ tget 0 (dieOf s 0).mere 0 + extBytes w.dest.2.2 ≤ 16384 ∧
     w.dest.2.2 < 10 ∧ w.dest.2.1 ≤ 1) := by decide +kernel

/-- A copy's next line has its banks and its bytes have passed the regulators. -/
def copyReady (s : State) (l : Launch) : Bool :=
  match copyLineOf s l with
  | some c => (askBanks s (c.needs l)).1 && (copyPays (askBanks s (c.needs l)).2 l c).isSome
  | none => false

/-- A copy record of one line from 0x1000 to 0x2000 in scratch, before and after its line. -/
theorem witness_LaunchResults_copy :
    (let l : Launch := { launch with lnr := [2#8, 0#8, 1#8] ++ List.replicate 0x7D 0#8 ++
        [0x00#8, 0x10#8, 0#8, 0#8, 0#8, 0#8, 0#8, 0#8, 0x00#8, 0x20#8, 0#8, 0#8, 0#8, 0#8, 0#8, 0#8, 64#8, 0#8, 0#8, 0#8, 3#8] }
     let s := launched addrs l
     findLaunch s l.lid = some (2, l) ∧ l.isCopy = true ∧ l.st = .started ∧ l.copied = false ∧
     (s.queues.all fun p => p.2.launches.all fun l => l.olmode == 0#2) = true ∧ copyCursor l l.ncopy l.copyAt = some (0, 0) ∧ Memory.wf s.mem ∧
     bitAt (l.copyOf 0).2.2.2 0 = true ∧ bitAt (l.copyOf 0).2.2.2 1 = true ∧ (l.copyOf 0).1 + 64 * 0 = 0x1000 ∧ (l.copyOf 0).2.1 + 64 * 0 = 0x2000 ∧
     copyReady s l = true ∧ (copyPlace s l (bitAt (l.copyOf 0).2.2.2 0) ((l.copyOf 0).1 + 64 * 0) false).toOption = some (.scratch 0x1000) ∧
     (copyPlace s l (bitAt (l.copyOf 0).2.2.2 1) ((l.copyOf 0).2.1 + 64 * 0) true).toOption = some (.scratch 0x2000) ∧
     poisoned s (.scratch 0x1000) 64 = false ∧ hostRefuses s (.scratch 0x1000) 64 = false ∧ hostRefuses s (.scratch 0x2000) 64 = false ∧
     (copyReady { s with ecc := [0x40] } l = true ∧ poisoned { s with ecc := [0x40] } (.scratch 0x1000) 64 = true) ∧
     copyCursor { l with copyAt := 1 } l.ncopy 1 = none) := by decide +kernel

/-- A frame area of three entries (frame 0 of pages 1 and 4, snapshot 1 of pages 1 and 5 under key 5, entry 2 free) and eight pages, of which
6 and 7 are free and page 1 is shared; core 0 holds the region of a frame of two pages. -/
def framed : State :=
  let put (s : State) (va : Nat) (bs : List Byte) : State := writeHome s (.phys (0x4000_0000 + va)) bs
  let s : State := { paged with
    subs := [(0, { act := { addrs with cid := 1, step := some { lid := 3, item := 0, resident := true, lo := 4, hi := 9 } } })]
    cores := [(0, { st := .member, regions := [⟨64, 2048, [], [], 3, 0, 0, none⟩] })]
    fens := [(0, { fenOf paged 0 with sess := { ftbase := 0x10_0000, ftcount := 3, poolbase := 0x20_0000, poolpages := 8 } })] }
  let s := put s 0x10_0000 (FEntry.bytes ⟨1, 0, 0, 2, 0x20_0000, 0, 0, 0⟩)
  let s := put s 0x10_0040 (FEntry.bytes ⟨2, 3, 0, 2, 0x22_0000, 0x23_0000, 5, 1⟩)
  let s := put s 0x20_0000 (leBytes 8 0x21_0000 ++ leBytes 8 0x24_0000)
  let s := put s 0x22_0000 (leBytes 8 0x21_0000 ++ leBytes 8 0x25_0000)
  let s := put s 0x23_0000 (leBytes 4 1 ++ leBytes 4 9)
  let s := [1, 2, 1, 1, 1, 1].zipIdx.foldl (fun s (n, i) => put s (0x28_0080 + 256 * i) (leBytes 2 n)) s
  writeHome s (.scratch 0x1000) (leBytes 16 5 ++ leBytes 4 1 ++ leBytes 4 9)

/-- Eight bytes of a page-table entry read as before, and none of them is poisoned, after writes to other places. -/
theorem entry_kept (s t : State) (f : Nat) (pa : Nat → Nat) (a : Nat) (hs : Memory.wf s.mem) (ht : Memory.wf t.mem)
    (ho : SameOutsideArea f pa s t)
    (he : ∀ l, (∀ va, FrameArea s f va → (Loc.phys (pa va)).key / 64 ≠ l) → (l ∈ t.ecc ↔ l ∈ s.ecc))
    (hp : ∀ va, FrameArea s f va → a + 64 ≤ pa va) (ha : a % 64 = 0) (hz : s.ecc = []) :
    readHome t (.phys a) 8 = readHome s (.phys a) 8 ∧ poisoned t (.phys a) 8 = false := by
  constructor
  · unfold readHome
    rw [memRead_eq _ _ _ ht.1, memRead_eq _ _ _ hs.1]
    refine List.map_congr_left fun i hi => ?_
    rw [← byteAt_eq t ht, ← byteAt_eq s hs]
    refine ho _ fun va hv => ?_
    have := hp va hv
    have := List.mem_range.mp hi
    simp only [Loc.key]
    omega
  · have hl : linesOf (2 ^ 60 + a) 8 = [(2 ^ 60 + a) / 64] := by
      have : (2 ^ 60 + a + 8 - 1) / 64 - (2 ^ 60 + a) / 64 + 1 = 1 := by omega
      unfold linesOf
      rw [if_neg (by decide), this]
      simp [List.range_succ]
    have hn : (2 ^ 60 + a) / 64 ∉ t.ecc := by
      rw [he _ fun va hv => by have := hp va hv; simp only [Loc.key]; omega, hz]
      simp
    rw [poisoned, show (Loc.phys a).key = 2 ^ 60 + a from rfl, hl, List.any_cons, List.any_nil, Bool.or_false]
    simpa using hn

/-- The walk of an address below 1 GiB through the tables of `paged`. -/
theorem walk_paged (t : State) (va : Nat) (hv : va < 2 ^ 30) (h : ∀ a x, (a, x) ∈ [(0x10000, 0x11001), (0x11000, 0x12001), (0x12000, 0x4000000F)] →
    readHome t (.phys a) 8 = leBytes 8 x ∧ poisoned t (.phys a) 8 = false) (f : Fen) (hr : rootOf f = 0x10000)
    (hm : malformed f 0 0x11001 = false ∧ malformed f 1 0x12001 = false ∧ malformed f 2 0x4000000F = false) :
    walkLevels t f va walkPlan (rootOf f) = .page 0 (2 ^ 30) 0x4000_0000 true true false := by
  have b0 : bits va 48 8 = 0 := by unfold bits; omega
  have b1 : bits va 39 9 = 0 := by unfold bits; omega
  have b2 : bits va 30 9 = 0 := by unfold bits; omega
  obtain ⟨r0, p0⟩ := h 0x10000 0x11001 (by simp)
  obtain ⟨r1, p1⟩ := h 0x11000 0x12001 (by simp)
  obtain ⟨r2, p2⟩ := h 0x12000 0x4000000F (by simp)
  have e0 : leNat (leBytes 8 0x11001) = 0x11001 := by decide
  have e1 : leNat (leBytes 8 0x12001) = 0x12001 := by decide
  have e2 : leNat (leBytes 8 0x4000000F) = 0x4000000F := by decide
  have q0 : bits 0x11001 12 40 * 2 ^ 12 = 0x11000 := by decide
  have q1 : bits 0x12001 12 40 * 2 ^ 12 = 0x12000 := by decide
  have q2 : bits 0x4000000F 12 40 * 2 ^ 12 = 0x4000_0000 := by decide
  have z : va / 2 ^ 30 = 0 := Nat.div_eq_of_lt hv
  have v0 : bitAt 0x11001 0 = true ∧ bitAt 0x11001 1 = false := by decide
  have v1 : bitAt 0x12001 0 = true ∧ bitAt 0x12001 1 = false := by decide
  have v2 : bitAt 0x4000000F 0 = true ∧ bitAt 0x4000000F 1 = true ∧ bitAt 0x4000000F 2 = true ∧ bitAt 0x4000000F 3 = true ∧
    bitAt 0x4000000F 5 = false ∧ bitAt 0x4000000F 55 = false := by decide
  simp only [walkPlan, walkLevels, hr, b0, b1, b2, r0, r1, r2, p0, p1, p2, e0, e1, e2, q0, q1, q2, v0, v1, v2, hm, leafSize, z]
  rfl

theorem framed_area (va : Nat) (h : FrameArea framed 0 va) : 0x10_0000 ≤ va ∧ va < 0x28_0800 := by
  have h0 : (sessOf framed 0).ftbase.toNat = 0x10_0000 ∧ ftCount framed 0 = 3 ∧ poolBase framed 0 = 0x20_0000 ∧ poolPages framed 0 = 8 := by
    decide +kernel
  simp only [FrameArea, h0] at h
  omega

/-- The frame area of `framed` is well placed. -/
theorem witness_FrameAndGangWords_placed : AreaPlaced framed 0 fun va => 0x4000_0000 + va := by
  have h0 : (sessOf framed 0).ftbase.toNat = 0x10_0000 ∧ ftCount framed 0 = 3 ∧ poolBase framed 0 = 0x20_0000 ∧ poolPages framed 0 = 8 := by
    decide +kernel
  refine ⟨by simp [h0], by simp [h0], by simp [h0], by simp [h0], fun x y _ _ h => by simpa using h, fun x _ _ _ => rfl, ?_⟩
  intro t ht hf ho he va w hv
  have hs : Memory.wf framed.mem := by decide +kernel
  have hva := framed_area va hv
  have hz : framed.ecc = [] := by decide +kernel
  have key := fun a (ha : a % 64 = 0) (hl : a + 64 ≤ 0x4000_0000) => entry_kept framed t 0 _ a hs ht ho he
    (fun va hv => by have := framed_area va hv; omega) ha hz
  have hfen : fenOf t 0 = fenOf framed 0 := by simp [fenOf, hf]
  have habs : pageAbsent (fenOf t 0) va = false := by
    have : ((fenOf framed 0).ht.all fun x => x.2.present) = true := by decide +kernel
    rw [hfen, pageAbsent, List.any_eq_false]
    intro x hx
    simp [List.all_eq_true.mp this x hx]
  have hw : walkVa t 0 va = .page 0 (2 ^ 30) 0x4000_0000 true true false := by
    unfold walkVa
    rw [hfen]
    refine walk_paged t va (by omega) ?_ _ (by decide +kernel) (by decide +kernel)
    intro a x hx
    have hr : readHome framed (.phys 0x10000) 8 = leBytes 8 0x11001 ∧ readHome framed (.phys 0x11000) 8 = leBytes 8 0x12001 ∧
      readHome framed (.phys 0x12000) 8 = leBytes 8 0x4000000F := by decide +kernel
    simp only [List.mem_cons, Prod.mk.injEq, List.not_mem_nil, or_false] at hx
    rcases hx with ⟨rfl, rfl⟩ | ⟨rfl, rfl⟩ | ⟨rfl, rfl⟩
    · exact hr.1 ▸ key _ rfl (by decide)
    · exact hr.2.1 ▸ key _ rfl (by decide)
    · exact hr.2.2 ▸ key _ rfl (by decide)
  simp [frameVa, habs, translateVa, hw]


/-- What each command meets in `framed`. -/
def frmOp (fn : Nat) (a b : Word) : FrmOp := { id := 4, g := 0, cid := 1, fen := 0, fn, a, b, dest := .s 2, token := 5, due := 100 }
/-- References of the pages. -/
def refs (p : Nat) : Nat := nth 0 [1, 2, 1, 1, 1, 1] ((p - 0x20_0000) / 0x1_0000)
theorem witness_FrameAndGangWords_refs : ∀ p, PoolPage framed 0 p → refOf framed 0 p = .ok (refs p) := by
  have h0 : poolBase framed 0 = 0x20_0000 ∧ poolPages framed 0 = 8 := by decide +kernel
  have h : ∀ i, i < 8 → (refOf framed 0 (0x20_0000 + 0x1_0000 * i)).toOption = some (refs (0x20_0000 + 0x1_0000 * i)) := by decide +kernel
  rintro p ⟨i, hi, rfl⟩
  rw [h0.2] at hi
  rw [h0.1]
  have := h i hi
  revert this
  cases refOf framed 0 (0x20_0000 + 0x1_0000 * i) <;> simp [Except.toOption]
theorem witness_FrameAndGangWords_effects :
    (let s := framed
     let e : FEntry := ⟨1, 0, 0, 2, 0x20_0000, 0, 0, 0⟩
     let g : FEntry := ⟨2, 3, 0, 2, 0x22_0000, 0x23_0000, 5, 1⟩
     let n : FEntry := ⟨0, 0, 0, 0, 0, 0, 0, 0⟩
     let old := [0x21_0000, 0x24_0000]
     let new := [0x21_0000, 0x25_0000]
     let r : Region := ⟨64, 2048, [], [], 3, 0, 0, none⟩
     let st := (ctxOfCid s 1).step
     let is : {α : Type} → [DecidableEq α] → Except FErr α → α → Bool := fun x v => decide (x.toOption = some v)
     Memory.wf s.mem ∧ is (frameCheck s 0 0x0400_0000_0000_0000 [1]) (0, e) = true ∧ is (frameCheck s 0 0x0400_0000_0000_0000 [1, 2]) (0, e) = true ∧
     is (frameCheck s 0 0x0800_0000_0000_0001 [2]) (1, g) = true ∧ is (frameCheck s 0 0x0800_0000_0000_0001 [1, 2]) (1, g) = true ∧
     is (pageList s 0 e) old = true ∧ is (pageList s 0 g) new = true ∧
     (is (heldRegion s 0 st 64 e) r = true ∧ r.off % 64 = 0 ∧ r.off + 128 * r.lines ≤ 0x30_0000 ∧ (coreOf s 0).regions = [r]) ∧
     ((List.range 32).all fun j => (frameRead s 0 (nth 0 old (j / 16) + 4096 * (j % 16)) 4096).toOption.isSome &&
       (frameRead s 0 (sidecar s 0 (nth 0 old (j / 16)) + 8 * (j % 16)) 8).toOption.isSome) = true ∧
     (is (allocFEntry s 0) (2, n) = true ∧ is (findPage s 0 8 0x20_0000) 0x26_0000 = true ∧ s.ecc = []) ∧
     (e.npages ≤ 4096 ∧ 0 < refs e.plist ∧ 0 < refs g.plist ∧ e.plist ∉ old ++ new ∧ g.plist ∉ old ++ new ∧ old.Nodup ∧ e.plist ≠ g.plist ∧
       (old ++ new).all (fun p => refs p + 1 ≤ 65535 && 0 < refs p) = true ∧ (old.filter fun p => 1 < refs p) = [0x21_0000] ∧
       refs 0x26_0000 = 0 ∧ refs 0x27_0000 = 0) ∧
     is (allEntries s 0) [(0, e), (1, g), (2, n)] = true ∧ is (cached s 0) [(1, g)] = true ∧ evictions 5 [(1, g)] = [] ∧
     (scratchError s 0 0x1000 16 = none ∧ scratchError s 0 0x1010 4 = none ∧ scratchError s 0 0x1010 8 = none ∧
       leNat (readView s 1 (.scratch 0x1000) 16) = 5 ∧ leNat (readView s 1 (.scratch 0x1010) 4) = 1 ∧
       is (frameRead s 0 g.trec 8) (readView s 1 (.scratch 0x1010) 8) = true ∧ (0x1000 : Word) ≠ 0#64 ∧ (0x1000 : Word).toNat % 64 = 0) ∧
     (sessOf s 0).iseq + 1 < 2 ^ 64) := by decide +kernel
theorem witness_TakingTraps :
    (causeResumable .swtrap = true ∧ (ctxOf (at0 regs) 0).pl = 0#2 ∧ (ctxOf (at0 regs) 0).svc = false) ∧
    (ctxOf (at0 { regs with pl := 1 }) 0).pl ≠ 0#2 ∧
    (let st : StepCtx := { lid := 3, item := 0, resident := true, lo := 4, hi := 9 }
     causeResumable .align = false ∧ (ctxOf launched 0).svc = false ∧ (ctxOf launched 0).step = some st ∧
     findLaunch launched st.lid = some (2, launch) ∧ launch.st = .started ∧ (4 ≠ 0) ∧
     ((ctxOf (launched { addrs with pl := 1 }) 0).pl ≠ 0#2 ∧ Cause.align ≠ .swtrap)) ∧
    ((curCtx (at0 regs)).pl = 0#2 ∧ undrained (at0 { regs with pl := 1 }) = false ∧ (383 < 384 ∧ 4 < 5)) ∧
    (let c : Ctx := { pl := 1, eng := [(0, { grp := 5, pipe := [{ left := 3, dest := .s 1, val := .word 7, grp := 4 }] })] }
     (curCtx (at0 c)).pl ≠ 0#2 ∧ undrained (at0 c) = true) := by decide +kernel

theorem witness_TrapReturns :
    (let l : Landing := { left := 1, dest := .s 1, val := .word 7 }
     let s (f : Bool) (n : Nat) : State := { accessed with subs := [(383, { act := { eng := [(4, { frozen := f, pipe := [l] })] }, swapLeft := n })] }
     383 < 384 ∧ 4 < 5 ∧ 4 ≠ 1 ∧ ((engOf (ctxOf (s true 0) 383) 4).frozen = true ∨ (subOf (s true 0) 383).swapLeft ≠ 0) ∧
     (subOf (s false 24) 383).swapLeft ≠ 0 ∧
     ((engOf (ctxOf (s false 0) 383) 4).frozen = false ∧ (subOf (s false 0) 383).swapLeft = 0 ∧
       (engOf (ctxOf (s false 0) 383) 4).pipe = [l] ∧ l.val = .word 7)) ∧
    (let c (p : BitVec 2) (m t : Word) : Ctx := { pl := p, tr := { tcause := t, mtcause := m } }
     (curCtx (at0 regs)).pl = 0#2 ∧
     ((curCtx (at0 (c 3 0x400 0))).pl = 3#2 ∧ (curCtx (at0 (c 3 0x400 0))).tr.mtcause.toNat / 2 ^ 9 % 4 = 2) ∧
     ((curCtx (at0 (c 1 0 0x400))).pl ≠ 0#2 ∧ (curCtx (at0 (c 1 0 0x400))).pl ≠ 3#2 ∧ (curCtx (at0 (c 1 0 0x400))).tr.tcause.toNat / 2 ^ 9 % 4 = 2) ∧
     ((curCtx (at0 (c 3 0x600 0))).pl = 3#2 ∧ (curCtx (at0 (c 3 0x600 0))).tr.mtcause.toNat / 2 ^ 9 % 4 ≠ 2 ∧ undrained (at0 (c 3 0x600 0)) = false ∧
       (at0 (c 3 0x600 0)).cur.e = 0) ∧
     ((curCtx (at0 (c 1 0 0))).tr.tcause.toNat / 2 ^ 9 % 4 ≠ 2 ∧ undrained (at0 (c 1 0 0)) = false ∧ (at0 (c 1 0 0)).accs = [] ∧
       (at0 (c 1 0 0)).xfers = [])) := by decide +kernel

/-- One sub-core with a bank, the caller's number 1 and the other context's number 2. -/
def banked (b : Sub) : State := { accessed with subs := [(0, b)] }
theorem witness_ShadowSwaps :
    ((curCtx (at0 regs)).pl = 0#2 ∧ (curCtx (at0 { regs with pl := 1 })).pl ≠ 0#2 ∧ swapxMet (at0 { regs with pl := 1 }) 0 = true) ∧
    (let c : Ctx := { cid := 1, step := some { lid := 3, item := 0 } }
     let d : Ctx := { cid := 2, step := some { lid := 4, item := 0 } }
     let v : Ctx := { cid := 2, svc := true, pl := 1 }
     let p : Ctx := { cid := 2, step := some { lid := 4, item := 0, preempting := true } }
     let s1 : Sub := { act := c, swapAsk := true }
     let s2 : Sub := { act := v, shd := c, shb := 1, swapAsk := true }
     let s3 : Sub := { act := c, shd := p }
     let s4 : Sub := { act := { cid := 3 }, shd := d, shb := 2 }
     0 < 384 ∧
     (s1.swapAsk = true ∧ swapBoundary (banked s1) 0 = true ∧ s1.act.svc = false ∧ s1.shb = 0#2 ∧ s1.shd.step = none ∧ s1.act.trapped = false) ∧
     (s2.swapAsk = true ∧ swapBoundary (banked s2) 0 = true ∧ s2.act.svc = true ∧ s2.spilled = none ∧ s2.shd.trapped = false) ∧
     (s3.swapAsk = false ∧ preemptReady s3 = true ∧ swapAllowed (banked s3) 0 = true) ∧
     (s4.swapAsk = false ∧ preemptReady s4 = false ∧ returnReady s4 = true ∧ s4.swapLeft = 0) ∧
     (s4.shb = 2#2 ∧ s1.shb ≠ 2#2 ∧ s1.shb ≠ 3#2) ∧
     (let s5 : Sub := { act := v, shb := 3, spilled := some c }
      s5.shb = 3#2 ∧ s5.spilled = some c) ∧
     (let s6 : Sub := { act := { cid := 3 }, shb := 3, spilled := some p }
      s6.shb = 3#2 ∧ s6.spilled = some p ∧ s6.image = none ∧ (match p.step with | some st => st.preempting && !st.ended | none => false) = true)) := by
  decide +kernel

/-- A context whose image is all zeros, and a spill area that nothing has written. -/
def blank : Ctx := { fadefl := 0#31, cb := [(0, { typ := 0#4 }), (1, { typ := 0#4 })] }
theorem blank_words : ((List.range 1024).all fun k => imageWord State.reset 0 blank (8 * k) == 0#64) = true := by decide +kernel
theorem blank_codebooks : ((List.range 512).all fun k => nth 0#64 (codebookWords State.reset 0 blank) k == 0#64) = true := by
  decide +kernel
theorem blank_entries (n j : Nat) : nth 0#64 (ifqWords (nth [] (ifqEntries { blank with ifqS := blank.ifqS ++ (engOf blank 0).pipe }) n)) j = 0#64 ∨
    3 < j := by
  have : ifqEntries { blank with ifqS := blank.ifqS ++ (engOf blank 0).pipe } = [] := rfl
  rw [this]
  match j with
  | 0 | 1 | 2 | 3 => exact .inl rfl
  | n + 4 => exact .inr (by omega)
theorem zero_word (w n : Nat) : (0#w >>> n).setWidth 64 = 0#64 := by simp
theorem blank_vector (n j : Nat) : vecWord (vregOf blank n).val j = 0#64 := by
  have h : vregOf blank n = {} := rfl
  rw [h]
  exact zero_word _ _
theorem blank_low (o : Nat) (h : o % 8 = 0) (h1 : o < 0x2000) : imageWord State.reset 0 blank o = 0#64 := by
  have := List.all_eq_true.1 blank_words (o / 8) (List.mem_range.2 (by omega))
  rw [show 8 * (o / 8) = o by omega] at this
  exact eq_of_beq this
theorem blank_codebook (o : Nat) (h : o < 512) : nth 0#64 (codebookWords State.reset 0 blank) o = 0#64 :=
  eq_of_beq (List.all_eq_true.1 blank_codebooks o (List.mem_range.2 h))
theorem blank_high (o : Nat) (h1 : ¬ o < 0x2000) : imageWord State.reset 0 blank o = 0#64 := by
  unfold imageWord
  rw [if_neg (by omega), if_neg (by omega), if_neg (by omega), if_neg (by omega), if_neg (by omega), if_neg (by omega)]
  split
  · exact (blank_entries _ _).resolve_right (by omega)
  split
  · exact blank_vector _ _
  split
  · rw [show blank.ifqV = [] from rfl, List.drop_nil]; rfl
  split
  · exact blank_codebook _ (by omega)
  · rw [show blank.mf ++ blank.sq ++ blank.ingress = [] from rfl, List.drop_nil]; rfl
theorem blank_image (o : Nat) (h : o % 8 = 0) : imageWord State.reset 0 blank o = 0#64 :=
  if h1 : o < 0x2000 then blank_low o h h1 else blank_high o h1
theorem witness_ShadowSwaps_image (i : Nat) :
    readHome State.reset (.phys (spillArea State.reset 0 + 64 * i)) 64 = imageLine State.reset 0 blank i := by
  have : imageLine State.reset 0 blank i = (List.range 8).flatMap fun _ => leBytes 8 0 := by
    have h : (fun j => leBytes 8 (imageWord State.reset 0 blank (64 * i + 8 * j)).toNat) = fun _ => leBytes 8 0 :=
      funext fun j => by rw [blank_image _ (by omega)]; rfl
    rw [imageLine, h]
  rw [this]
  rfl

/-- Vector registers: v1 and v2 with elements, v3 poisoned; the vector engine executes, with the predicate k that a prefix names. -/
def vecs (kp : Option Nat := none) (c : Ctx := {}) : State :=
  let s := at0 { c with v := [(1, { val := 0x3F800000_40000000 }), (2, { val := 5 }), (3, { val := 6, poison := some .memerr })],
                        k := [(0, reg 0x0002_0003), (1, reg 0 (some .memerr))] } 1
  { s with cur := { s.cur with pfx := { kp } } }

theorem witness_VectorPredicates :
    (14#4 ≠ 15#4 ∧ 0 < 16384 / typeBits 14 ∧ 255 < 16384 / typeBits 14) ∧ (8 = 1 ∨ 8 = 2 ∨ 8 = 4 ∨ 8 = 8) ∧ 2047 < 2048 / 1 ∧
    (let l : Landing := { left := 0, dest := .v 47, val := .vec 7, whole := false }
     l.dest = .v 47 ∧ l.val = .vec 7 ∧ (46 ≠ 47 ∧ ∀ m, Dest.s 1 ≠ .v m)) ∧
    (predicate (vecs (some 1)) = some ⟨0, some .memerr⟩ ∧ hasCopies (vecs (some 1)) = false) := by
  refine ⟨by decide, by decide, by decide, ⟨rfl, rfl, by decide, by simp⟩, by decide +kernel⟩

theorem witness_VectorFloats : (4#4).toNat < 5 ∧ VecClean (vecs (some 0)) [1#6, 2#6, 3#6] ∧
    (vregOf (curCtx (vecs (some 0))) (1#6).toNat).val = 0x3F800000_40000000 ∧ 0#4 = 0#4 := by
  refine ⟨by decide, ?_, by decide +kernel, rfl⟩
  unfold VecClean; decide +kernel

theorem witness_VectorIntegers : typeBits (9#4).toNat = 32 ∧ VecClean (vecs (some 0)) [1#6, 2#6, 3#6] ∧ 8 ≤ 32 ∧ isFloat (9#4).toNat = false ∧
    (typeBits (0#4).toNat = 32 ∧ isFloat (0#4).toNat = true) ∧ (typeBits (6#4).toNat = 4 ∧ ¬ 8 ≤ 4) ∧
    (headQ (curCtx (vecs none { q := [(6, [⟨1, none, 100⟩])] })) 6 100 = some ⟨1, none, 100⟩ ∧ (⟨1, none, 100⟩ : QEntry).poison = none) ∧
    headQ (curCtx (vecs none)) 6 (vecs none).clock = none := by
  refine ⟨by decide, ?_, by decide +kernel⟩
  unfold VecClean; decide +kernel

theorem witness_VectorRows : VecClean (vecs (some 0)) [1#6, 2#6, 3#6] ∧ (0#4 ≠ 6#4 ∧ 0#4 ≠ 15#4) ∧ (2047#12).toNat < 2048 ∧
    rdA (curCtx (vecs none)) 1 (15#4).toNat = ⟨0, none⟩ ∧ hasCopies (vecs none) = false := by
  refine ⟨?_, by decide +kernel⟩
  unfold VecClean; decide +kernel

theorem witness_VectorBlocks : VecClean (vecs (some 0)) [1#6, 2#6] ∧ (0#4 ≠ 6#4 ∧ 1#4 ≠ 6#4) ∧ (0#4 = 0#4 ∨ 0#4 = 1#4) ∧
    (∀ x ∈ [0xFF800000, 0xFF800000], x = 0xFF800000) ∧ 3 < 4 := by
  refine ⟨?_, by decide⟩
  unfold VecClean; decide +kernel

theorem witness_VectorMemory :
    (let c : Ctx := { eng := [(1, { a := [(0, reg 0x1000), (1, reg 0x1001), (2, reg 0x2F_F800), (3, reg 0x2F_F840)] })] }
     let s : State := { accessed with subs := [(0, { act := { c with cid := 1 } })], cur := { e := 1 } }
     rdA (curCtx s) 1 (0#4).toNat = ⟨0x1000, none⟩ ∧ predicate s = none ∧ (vregOf (curCtx s) (1#6).toNat).poison = none ∧
     (0x1000 % 64 = 0 ∧ vscratchError s 0x1000 = none ∧ shadowOver s (curCtx s).cid [(0x1000, 2048)] = false) ∧
     (rdA (curCtx s) 1 (2#4).toNat = ⟨0x2F_F800, none⟩ ∧ 0x2F_F800 % 64 = 0 ∧ stateError s (curCore s) 0x2F_F800 2048 = false) ∧
     (rdA (curCtx s) 1 (1#4).toNat = ⟨0x1001, none⟩ ∧ 0x1001 % 64 ≠ 0 ∧ vscratchError s 0x1001 = none) ∧
     (rdA (curCtx s) 1 (3#4).toNat = ⟨0x2F_F840, none⟩ ∧ stateError s (curCore s) 0x2F_F840 2048 = true)) ∧
    (let v (st : Bool) : VAccess := ⟨st, .scratch 0x1000, 0⟩
     let l (st : Bool) : Landing := { left := 1, dest := .v 1, val := .vec 7, access := some (v st) }
     (l false).access = some (v false) ∧ (l false).val = .vec 7 ∧ (v false).store = false ∧
     badView accessed 1 (v false).loc 2048 = false ∧ stepRanges accessed (ctxOfCid accessed 1).step = [] ∧
     (v true).store = true ∧ (l true).whole = true ∧ (v true).loc = .scratch 0x1000 ∧ Memory.wf accessed.mem ∧
     (accessed.queues.all fun p => p.2.launches.all fun l => l.olmode == 0#2) = true) ∧
    (14#4 ≠ 6#4 ∧ headQ (curCtx (vecs none)) 3 (vecs none).clock = none ∧ (curCtx (vecs none)).ingress = [] ∧
      headQ (curCtx (vecs none { q := [(3, [⟨1, none, 100⟩])] })) 3 100 = some ⟨1, none, 100⟩ ∧
      (curCtx (vecs none { ingress := [⟨7, none⟩] })).ingress = [⟨7, none⟩]) ∧ (14#4 = 0#4 ∨ 14#4 = 9#4 ∨ 14#4 = 13#4 ∨ 14#4 = 14#4) := by
  decide +kernel

/-- A transfer record of one line of bytes between scratch places, awaiting token 31 at 8. -/
def copyRec : Record := ⟨0#4, 2#4, 31#5, 4#5, true, 11#4, 1#16, 8#16, 0x1000#32, 0x2000#32⟩
/-- The accesses' state with that record begun by the fetch engine. -/
def moved (x : Xfer := { id := 5, g := 0, cid := 1, eng := 2, major := 0x40, r := copyRec, num := 0, begun := true, opA := 0x1000, opB := 0x2000,
                          len := 64, due := 100 }) : State :=
  { accessed with xfers := [x] }
theorem witness_RecordsTaken :
    (let c (n : BitVec 16) : Ctx := { cid := 1, t := [(31, { count := n })] }
     let s (n : BitVec 16) : State := { accessed with subs := [(0, { act := c n })], cur := { e := 2 } }
     let x : Xfer := { id := 5, g := 0, cid := 1, eng := 2, major := 0x40, r := copyRec, num := 0 }
     { copyRec with we := false }.we = false ∧
     (tokenMet (beforeGroup (s 8)) (s 8).cur.g (s 8).cur.e copyRec.wtok.toNat copyRec.thr = true ∧ (threshold (8#16) copyRec.thr).2 = false) ∧
     ((xfersOf (s 8) 1 2).length < 8 ∧ waitMet (beforeGroup (s 8)) (s 8).cur.g 2 (.cbload 2) = true) ∧
     (8 ≤ (xfersOf { s 8 with xfers := List.replicate 8 x } 1 2).length ∧
       waitMet (beforeGroup { s 8 with xfers := List.replicate 8 x }) 0 2 (.cbload 2) = true) ∧
     (copyRec.we = true ∧ tokenMet (beforeGroup (s 7)) (s 7).cur.g (s 7).cur.e copyRec.wtok.toNat copyRec.thr = false)) ∧
    (let s (l : Lease) : State := { accessed with cores := [(0, { mlease := l })], cur := { e := 4 } }
     (leaseOf (coreOf (s { holder := some 0, left := 1 }) 0) 0).holder = some 0 ∧ (leaseOf (coreOf (s { holder := some 0, left := 1 }) 0) 0).left ≠ 0 ∧
     (leaseOf (coreOf (s { holder := some 1, left := 1 }) 0) 0).holder ≠ some 0) := by decide +kernel

theorem witness_TransferRecordsRun :
    (let x : Xfer := { id := 5, g := 0, cid := 1, eng := 2, major := 0x40, r := copyRec, num := 0 }
     let s := moved x
     let c := ctxOfCid s x.cid
     (xfersOf s (ctxOf s 0).cid 2).find? (fun y => !y.begun && y.fault.isNone) = some x ∧ haltedBehind s x = false ∧ listBehind s x = false ∧
     (wholeNeeds s x).any (bankLost s) = false ∧ x.inbox = [] ∧ x.major = 0x40 ∧
     (resolveOperand c 2 x.r.opA).toOption = some 0x1000 ∧ (resolveOperand c 2 x.r.opB).toOption = some 0x2000 ∧
     (recordShape c 2 x.r).toOption = some ⟨1, 64, 0, 0, false⟩ ∧
     Operand.ofWord 0x1000 = .scratch 0x1000 ∧ Operand.ofWord 0x2000 = .scratch 0x2000 ∧ 0 < 64 ∧ 0x1000 % 64 = 0 ∧ 0x2000 % 64 = 0 ∧
     0x2000 / 0x80_0000 = coreNo x.g ∧ scratchError s x.g 0x1000 64 = none ∧ scratchError s x.g 0x2000 64 = none) := by decide +kernel
/-- An operand through a register that no space admits, a piece to move, and a record whose bytes have moved. -/
theorem witness_TransferRecordsRun_pieces :
    (let c : Ctx := { cid := 1, eng := [(2, { a := [(0, reg 0xC000_0000)] })] }
     let s : State := { accessed with subs := [(0, { act := c })] }
     let x : Xfer := { id := 5, g := 0, cid := 1, eng := 2, major := 0x40, r := { copyRec with opA := 0xC000_0000 }, num := 0 }
     let z : Xfer := { x with r := { copyRec with aux := 0 } }
     (ctxOfCid s 1 = c ∧ (x.isGather || x.isScatter || x.isMcast) = false ∧
       worst [errVal (resolveOperand c 2 x.r.opA), errVal (resolveOperand c 2 x.r.opB), errVal (recordShape c 2 x.r)] = some (.cmdopnd, 0#64) ∧
       (resolveOperand c 2 x.r.opA).toOption = none ∧ (resolveOperand c 2 x.r.opB).toOption = some 0x2000 ∧ operandHandle c 0x2000 = none) ∧
     ((z.isGather || z.isScatter || z.isMcast) = false ∧ (resolveOperand c 2 z.r.opA).toOption = some 0x1000 ∧
       (resolveOperand c 2 z.r.opB).toOption = some 0x2000 ∧ operandHandle c 0x1000 = none ∧
       (recordShape c 2 z.r).toOption.map (fun sh => sh.rows * sh.len) = some 0)) ∧
    (let x : Xfer := { id := 5, g := 0, cid := 1, eng := 2, major := 0x40, r := copyRec, num := 0, begun := true, opA := 0x1000, opB := 0x2000,
                       len := 64, due := 100 }
     let s := moved x
     Memory.wf s.mem ∧ (s.queues.all fun p => p.2.launches.all fun l => l.olmode == 0#2) = true ∧ x.buf = [] ∧
     behind s x (pieceRuns s x x.piece) = false ∧ queueBusy s x = false ∧ farReached s x = true ∧
     (x.needs (pieceRuns s x x.piece)).any (bankLost s) = false ∧ stepRanges s (ctxOfCid s x.cid).step = [] ∧ x.piece = 64 ∧
     scratchError s x.g 0x1000 64 = none ∧ scratchError s x.g 0x2000 64 = none ∧ badView s x.cid (.scratch 0x1000) 64 = false ∧
     s.xfers.find? (·.id == x.id) = some x ∧ x.pos < x.total ∧
     (let y := { x with pos := 64 }
      y.begun = true ∧ haltedBehind s y = false ∧ y.total ≠ 0 ∧ ({ y with len := 0 } : Xfer).total = 0 ∧ y.total ≤ y.pos ∧ y.due ≤ s.clock ∧ y.isCrc = false ∧ y.fill = [] ∧ lastWrite s y = some s)) := by
  decide +kernel

/-- A record of one row of 64 bytes from 0x1000 to 0x2000, changed as the clauses on pieces need it, and its piece read and written. -/
def pieceOf (eng major : Nat) (r : Record := copyRec) (a b : BitVec 32 := 0x1000) : Xfer :=
  { id := 5, g := 0, cid := 1, eng, major, r, num := 0, begun := true, opA := a, opB := b, len := 64, due := 100 }
/-- The step's context is alive and has one entry in sq. -/
def piecing (x : Xfer) : State :=
  { moved x with subs := [(0, { act := { addrs with cid := 1, step := some { lid := 3, item := 0 }, sq := [⟨7, none⟩] } })] }
def gotData (s : State) (x : Xfer) : Bool := match readPiece s x x.piece with | (.data .., _) => true | _ => false
def putDone (s : State) (x : Xfer) (bs : List Byte) (bad : Bool := false) : Bool := (writePiece s x x.piece bs bad).1 == .done
/-- The pieces of transfer records: what is read, and where it goes. -/
theorem witness_TransferRecordsRun_reads :
    (let x := pieceOf 2 0x40 copyRec 0x1000 0x2000
     let s := piecing x
     behind s x (pieceRuns s x 64) = false ∧ queueBusy s x = false ∧ farReached s x = true ∧ hostBehind s x (pieceRuns s x 64) = false ∧
     (x.needs (pieceRuns s x 64)).any (bankLost s) = false ∧ (pieceRegul s x 64).isSome = true ∧ gotData s x = true ∧ lostIndex x = false ∧
     putDone s x (List.replicate 64 7#8) = true) ∧
    (let g : Xfer := { pieceOf 2 0x41 with idx := [some 0xFE, some 0xFF] }
     let c : Xfer := { pieceOf 3 0x41 with idx := [some 3] }
     nth none g.idx 0 = some 0xFE ∧ nth none g.idx 1 = some (2 ^ (8 * g.w) - 1) ∧ g.isGather = true ∧ g.isScatter = false ∧ c.isScatter = true ∧
     c.isGather = false ∧ (nth none c.idx 0).isSome = true) ∧
    (let x := pieceOf 2 0x40
     let i : InPiece := { pos := 0, agent := 1, bytes := [7#8], bad := false, refused := false }
     x.buf = [] ∧ ({ x with inbox := [i] } : Xfer).inbox.find? (·.pos == x.pos) = some i ∧ x.inbox = [] ∧ Operand.ofWord x.opA = .scratch 0x1000 ∧
     x.srcRow 0 = some 0 ∧ scratchError (piecing x) 0 0x1000 64 = none ∧ badView (piecing x) 1 (.scratch 0x1000) 64 = false ∧
     ({ pieceOf 2 0x41 with idx := [some 0xFF] } : Xfer).srcRow 0 = none) ∧
    (let x := pieceOf 3 0x40 copyRec 0x4300_0000
     fromSq x = true ∧ x.pos % 2048 = 0 ∧ (ctxOfCid (piecing x) 1).sq = [⟨7, none⟩] ∧ (findCtx (piecing x) 1).isSome = true) := by decide +kernel
theorem witness_TransferRecordsRun_writes :
    (let x := pieceOf 2 0x40 copyRec 0x1000 0x2000
     let s := piecing x
     Memory.wf s.mem ∧ (s.queues.all fun p => p.2.launches.all fun l => l.olmode == 0#2) = true ∧ Operand.ofWord x.opB = .scratch 0x2000 ∧
     stepRanges s (ctxOfCid s x.cid).step = [] ∧ x.dstRow 0 = some 0 ∧ scratchError s 0 0x2000 64 = none ∧
     ({ pieceOf 3 0x41 with idx := [some 0xFF] } : Xfer).dstRow 0 = none ∧ (pieceOf 3 0x41).major = 0x41) ∧
    (let f (v : BitVec 4) : Xfer := pieceOf 2 0x42 { copyRec with variant := v, typ := 1 }
     (f 0).isFxfm = true ∧ (f 0).xf = 0 ∧ (f 9).xf = 1 ∧ (f 2).xf = 2 ∧ (transform (piecing (f 0)) (f 0) [7#8]).length = 4 ∧
     ([7#8] : List Byte)[0]? = some 7#8 ∧ 0 < [7#8, 7#8].length / (f 1).w) ∧
    (let m : Xfer := { pieceOf 3 0x43 with reg := 0x0102 }
     m.isMcast = true ∧ m.mcastCores = [0, 1] ∧ m.dstRow 0 = some 0 ∧
     (m.mcastCores.all fun c => decide (scratchError (piecing m) 0 (c * 0x80_0000 + 0x1000) 64 = none)) = true) ∧
    (let d : Xfer := pieceOf 3 0x42 { copyRec with variant := 0, typ := 9 }
     d.isReduce = true ∧ d.w = 4 ∧ scratchError (piecing d) 0 0x1000 4 = none ∧ redsAhead (piecing d) 0 (.scratch 0x1000) 4 = false ∧
     poisoned (piecing d) (.scratch 0x1000) 4 = false ∧ d.dstRow 0 = some 0) ∧
    ((pieceOf 2 0x44).isCrc = true ∧ (pieceOf 2 0x43).isCbload = true) ∧
    (let x (n : Nat) : Xfer := { pieceOf 2 0x40 copyRec 0x1000 0x4100_0000 with fill := List.replicate n 0#8 }
     let s := piecing (x 0)
     toMf (x 0) = true ∧ (x 0).isFxfm = false ∧ (x 0).isCrc = false ∧ (x 0).isCbload = false ∧ (x 1983).fill.length + 64 < 2048 ∧
     2048 ≤ (x 1984).fill.length + 64 ∧ stepGone s 1 = false ∧ (ctxOfCid s 1).mf.length < bigCap (ctxOfCid s 1) 7 ∧ (findCtx s 1).isSome = true ∧
     (x 1).fill ≠ []) ∧
    (let c : Xfer := pieceOf 2 0x44 { copyRec with variant := 8 } 0x1000 0x2000
     let e : Xfer := { c with pos := 64 }
     let o : Xfer := pieceOf 2 0x40 copyRec 0x1000 0x1020
     let s := piecing c
     (e.isCrc = true ∧ e.begun = true ∧ e.total ≤ e.pos ∧ Operand.ofWord e.opB = .scratch 0x2000 ∧ behind s e [(.scratch 0x2000, 8)] = false ∧
       (wholeNeeds s e).any (bankLost s) = false ∧ e.fillBad = false) ∧
     (c.ready = false ∧ (wholeNeeds s c).any (bankLost s) = false ∧ behind s c [(operandLoc s 0 c.opB 0, 8)] = false ∧
       behind s c (srcRuns s c) = false ∧ (readOperand s 0 1 c.opB 0 8).2 = false ∧ c.r.variant.getLsbD 3 = true ∧ crosses s c = false) ∧
     (o.ready = false ∧ o.isCrc = false ∧ crosses (piecing o) o = true ∧ (wholeNeeds (piecing o) o).any (bankLost (piecing o)) = false ∧
       behind (piecing o) o (srcRuns (piecing o) o) = false ∧ (readOperand (piecing o) 0 1 o.opB 0 8).2 = false)) := by decide +kernel

theorem witness_CommandsRun :
    (let r : Record := ⟨0#4, 0#4, 0#5, 6#5, false, 0#4, 0#16, 0#16, 0#32, 0x4000_0000#32⟩
     let c (n : Nat) (b : Bool) : Cmd := { major := n, r := r, cid := 1, g := 0, path := if n = 0x42 then 2 else 1, begun := b, opB := 0x4000_0000 }
     let s (n : Nat) (b : Bool) : State := { accessed with cores := [(0, { st := .member, mcmds := [c n b] })] }
     95 < 96 ∧ 3 < 4 ∧ (nextCmd (cmdsOf (coreOf (s 0x44 false) 0) 1) 1 = some (c 0x44 false)) ∧
     ((resolveOperand (ctxOfCid (s 0x44 false) 1) 4 r.opA).toOption = some 0 ∧
       (resolveOperand (ctxOfCid (s 0x44 false) 1) 4 r.opB).toOption = some 0x4000_0000) ∧
     (let x : Ctx := { eng := [(4, { a := [(0, reg 0xC000_0000)] })] }
      worst [errVal (resolveOperand x 4 0xC000_0000), errVal (resolveOperand x 4 0)] = some (.cmdopnd, 0#64)) ∧
     ({ c 0x40 false with begun := true } : Cmd).zero = true ∧ (nextCmd (cmdsOf (coreOf (s 0x44 true) 0) 1) 1 = none) ∧
     (runningCmd (cmdsOf (coreOf (s 0x42 true) 0) 2) 2 = some (c 0x42 true) ∧ (c 0x42 true).due ≤ (s 0x42 true).clock ∧
       (c 0x42 true).major = 0x42 ∧ (c 0x42 true).computed = false ∧ (c 0x42 true).formed = false ∧ (c 0x42 true).stuck = false ∧
       (c 0x42 true).zero = false) ∧
     ((s 0x42 true).clock < ({ c 0x42 true with due := 101 } : Cmd).due ∧ ({ c 0x42 true with due := 101 } : Cmd).fromMf = false) ∧
     ((residueCheck (s 0x42 true)).1 = 0 ∧ (residueCheck (s 0x44 true)).1 = 0) ∧
     (runningCmd (cmdsOf (coreOf (s 0x44 true) 0) 1) 1 = some (c 0x44 true) ∧ (c 0x44 true).major = 0x44 ∧ (c 0x44 true).formed = false ∧
       bankLost (s 0x44 true) (cmdNeed (s 0x44 true) 0 1 (c 0x44 true)) = false ∧
       Operand.ofWord (c 0x44 true).opB = .core 0 0 ∧ (coreOf (s 0x44 true) 0).regions = [] ∧ Memory.wf (s 0x44 true).mem)) := by decide +kernel
/-- A command whose inputs are there: it gathers, forms its results and sends nothing. -/
theorem witness_CommandsRun_results :
    (let r : Record := ⟨0#4, 0#4, 0#5, 6#5, false, 0#4, 0#16, 0#16, 0#32, 0#32⟩
     let c : Cmd := { major := 0x42, r := r, cid := 1, g := 0, path := 2, begun := true }
     let s : State := { accessed with cores := [(0, { st := .member, mcmds := [c] })] }
     let c1 := (gather s 0 2 c).1
     let s1 := (gather s 0 2 c).2
     let c2 := (formResults (takeBanks s1 (cmdNeed s1 0 2 c1)) 0 2 c1).1
     let s2 := (formResults (takeBanks s1 (cmdNeed s1 0 2 c1)) 0 2 c1).2
     let c3 := (writeResults s2 0 2 c2).1
     c.due ≤ s.clock ∧ c.zero = false ∧ c.computed = false ∧ c.formed = false ∧ c1.stuck = false ∧ bankLost s1 (cmdNeed s1 0 2 c1) = false ∧
     c2.due ≤ s2.clock ∧ (sendAll (writeResults s2 0 2 c2).2 c3.g c3.cid c3.toMf c3.toSq c3.toRx c3.sends).1 = []) := by
  exact ⟨by decide +kernel, by decide +kernel, rfl, rfl, rfl, rfl, by decide +kernel, rfl⟩
/-- Commands of every major and variant bit whose results the statement gives, sources in the state store, and each bound of its clauses. -/
theorem witness_CommandsRun_values :
    (let r (v : BitVec 4) (n : BitVec 16) : Record := ⟨v, 0#4, 0#5, 6#5, false, 1#4, n, 0#16, 0x4000_0000#32, 0x4000_0000#32⟩
     let c (m path : Nat) (v : BitVec 4) (n : BitVec 16 := 0x4010) : Cmd :=
       { major := m, r := r v n, cid := 1, g := 0, path, begun := true, opA := 0x4000_0000, opB := 0x4001_0000 }
     accessed.residue = [] ∧ (c 0x40 0 0).v2 = false ∧ (c 0x40 0 0).fromMf = false ∧ (c 0x40 0 4).v2 = true ∧ (c 0x41 1 0).fromMf = false ∧
     ((c 0x41 1 0).hi = 64 ∧ 63 < (c 0x41 1 0).hi) ∧ (coreOf accessed 0).actDesc.n = 0 ∧
     (coreOf { accessed with cores := [(0, { st := .member, actDesc := ⟨1, 40, 20, false⟩ })] } 0).actDesc.n = 20 ∧
     (c 0x43 1 1).r.variant.getLsbD 0 = true ∧ (c 0x43 1 2).r.variant.getLsbD 0 = false ∧ (c 0x43 1 1).r.variant.toNat / 2 = 0 ∧
     (c 0x43 1 2).r.variant.toNat / 2 ≠ 0 ∧ (c 0x43 1 2).path ≠ 3 ∧ (c 0x43 1 2).lo = 16 ∧ (c 0x45 1 4).v3 = false ∧ (c 0x45 1 8).v3 = true ∧
     (c 0x48 3 8).fromMf = false ∧ 0 < (c 0x48 3 8).hi ∧ (c 0x48 3 8).v3 = true ∧ (c 0x49 3 11 0x4040).dk = 128 ∧ (c 0x49 3 11 0x4040).dv = 128 ∧
     (c 0x49 3 0 0x4008).dk = 128 ∧ (c 0x49 3 0 0x4008).fromMf = false ∧ (c 0x4A 3 0).v3 = false ∧ (c 0x4A 3 8 0x4001).v3 = true ∧
     (c 0x4A 3 8 0x4001).dk ≤ 128 ∧ (4 * (c 0x4A 3 8 0x4001).dv ≤ 511 ∧ 511 < 512) ∧ (c 0x4B 3 8).v3 = true ∧ (c 0x4B 3 0).v3 = false) := by
  decide +kernel
/-- A command whose residue check fails once: its results form again in later clocks. -/
theorem witness_CommandsRun_retry :
    (let r : Record := ⟨0#4, 0#4, 0#5, 6#5, false, 0#4, 0x0101#16, 0#16, 0#32, 0#32⟩
     let c : Cmd := { major := 0x4A, r := r, cid := 1, g := 0, path := 3, begun := true }
     let s : State := { accessed with cores := [(0, { st := .member, mcmds := [c] })], residue := [1] }
     let c1 := (gather s 0 3 c).1
     let s1 := (gather s 0 3 c).2
     let p := formResults (takeBanks s1 (cmdNeed s1 0 3 c1)) 0 3 c1
     c.zero = false ∧ c1.stuck = false ∧ bankLost s1 (cmdNeed s1 0 3 c1) = false ∧ p.2.clock < p.1.due) := by
  exact ⟨by decide, rfl, by decide +kernel, by decide +kernel⟩

/-- A record of fields with the extents e0 and e1, with a gang level or without. -/
def lnrOf (nf gang e0 e1 : Nat) : List Byte :=
  [0#8, 0#8, BitVec.ofNat 8 nf, 0#8, BitVec.ofNat 8 gang] ++ List.replicate 0x3B 0#8 ++
    [BitVec.ofNat 8 e0, 0#8, 0#8, 0#8, 0#8, 0#8, 0#8, 0#8, BitVec.ofNat 8 e1]
/-- A started launch in queue 2 of priority 0, over given sub-cores of core 0. -/
def placing (l : Launch) (subs : Tab Sub := []) : State :=
  { accessed with subs, cores := [(0, { st := .member })], queues := [(2, { owner := some 0, prio := 0, launches := [l] })] }
theorem witness_WalkerPlacements :
    (let gs := [1, 2, 5]
     gs.Pairwise (· < ·) ∧ pickFree (some 2) gs = some 5 ∧ 2 < 5 ∧ pickFree (some 5) gs = some 1 ∧ 1 ≤ 5) ∧
    (let busy : Tab Sub := [0, 1, 2, 3].map fun g => (g, { act := { cid := 10 + g, step := some { lid := 9, item := g, thresh := 7 } } })
     let one : Launch := { launch with lnr := lnrOf 1 0 2 0 }
     let gang : Launch := { launch with lnr := lnrOf 2 1 1 4 }
     let picks : State → Option Pick := fun s => (choose (lapse s 0) 0).map fun p => p.1.pick
     pickVictim (placing one busy) [0, 1, 2, 3] = some 0 ∧ 1 < 2 ∧ mayPlace (lapse (placing one) 0) 0 = true ∧
     picks (placing one) = some (.one 0 0 false) ∧ picks (placing one busy) = some (.one 0 0 true) ∧
     picks (placing gang) = some (.gang [(0, 0, false), (1, 1, false), (2, 2, false), (3, 3, false)]) ∧ [0, 1, 2, 3].Nodup ∧
     picks (placing gang [(1, { act := { cid := 5, svc := true } })]) = some (.reserve [0, 2, 3]) ∧
     picks (placing { one with next := 2 }) = none) := by decide +kernel

theorem witness_StepOrder :
    (State.reset.agenda = .boot :: [] ∧ ({ at0 regs with turn := [(0, 4)] } : State).turn = (0, 4) :: [] ∧ (at0 regs).agenda = [] ∧
      (at0 regs).turn = []) ∧
    (let s (n : BitVec 16) : State := at0 { eng := [(0, { wait := some (.token 1 n) })] }
     (engOf (ctxOf (s 0) 0) 0).wait = some (.token 1 0) ∧ waitMet (s 0) 0 0 (.token 1 0) = true ∧ waitMet (s 1) 0 0 (.token 1 1) = false) := by decide

theorem witness_Links :
    (let c (n : Nat) : Ctx := { cid := 1, step := some { lid := 3, item := 0 }, ingress := List.replicate n ⟨7, none⟩ }
     let m : RingMsg := { core := 95, ch := 3, lid := 3, fen := 0, e := ⟨7, none⟩, due := 100 }
     let s (n : Nat) : State := { accessed with ring := [m], subs := [(3, { act := c n })] }
     95 < 96 ∧ 3 < 4 ∧ (s 0).ring.find? (fun m => m.core == 95 && m.ch == 3 && !m.peer) = some m ∧ boundElsewhere (s 0) 95 m.fen = false ∧ m.due ≤ (s 0).clock ∧ m.peer = false ∧
     bankOfLaunch (s 0) (4 * ((95 + 1) % 96) + 3) m.lid = some 0 ∧ (ctxAt (s 3) 3 0).ingress.length < bigCap (ctxAt (s 3) 3 0) 9 ∧
     bigCap (ctxAt (s 4) 3 0) 9 ≤ (ctxAt (s 4) 3 0).ingress.length ∧
     (let p := { m with peer := true }
      let s (u : Bool) : State := { accessed with ring := [p], peers := { nxtUp := u } }
      (s true).ring.find? (fun m => m.core == 95 && m.ch == 3 && m.peer) = some p ∧ p.due ≤ (s true).clock ∧ (s true).peers.nxtUp = true ∧
      (s false).peers.nxtUp = false)) ∧ 5 < 6 ∧
    (let s (n : Nat) : State := { accessed with svc := { attempts := [(5, (n, 99))] } }
     let f : State → Nat := fun s => if s.clock ≤ (tget (0, 0) s.svc.attempts 5).2 + 1 then (tget (0, 0) s.svc.attempts 5).1 + 1 else 1
     f (s 15) = 16 ∧ f (s 14) = 15 ∧ (s 15).svc.evtail - (s 15).svc.evhead ≠ 240#32) ∧
    (let s (p : Peers) : State := { accessed with peers := p }
     ((s { nxtEn := true }).peers.nxtEn = true ∧ (s { nxtEn := true }).peers.nxtReady = true ∧ (s { nxtEn := true }).peers.nxtUp = false) ∧
     ((s { prvEn := true }).peers.prvEn = true ∧ (s { prvEn := true }).peers.prvReady = true ∧ (s { prvEn := true }).peers.prvUp = false) ∧
     (s { nxtUp := true }).peers.nxtUp = true ∧ (s { prvUp := true }).peers.prvUp = true) := by decide +kernel

/-- A state with a frame table of two entries (a frame and a snapshot of no pages), a pool of four pages, and a model of chunk 4. -/
def sessions (x : Session := {}) : State :=
  { paged with
    mem := tables ++ [(2 ^ 60 + 0x4010_0000, 1#8), (2 ^ 60 + 0x4010_0012, 0x20#8), (2 ^ 60 + 0x4010_0040, 2#8), (2 ^ 60 + 0x4010_0041, 1#8),
      (2 ^ 60 + 0x4010_0052, 0x20#8), (2 ^ 60 + 0x4030_0000, 2#8), (2 ^ 60 + 0x4030_0001, 4#8), (2 ^ 60 + 0x4030_0002, 2#8),
      (2 ^ 60 + 0x4030_0004, 5#8), (2 ^ 60 + 0x4030_000C, 64#8), (2 ^ 60 + 0x4030_0011, 0x10#8), (2 ^ 60 + 0x4030_0019, 0x20#8),
      (2 ^ 60 + 0x4030_001D, 0x30#8)]
    queues := [(2, { owner := some 0 })]
    clock := 9000
    fens := [(0, { fenOf paged 0 with vfs := 1
                                      sess := { sesscnt := 2, ftbase := 0x10_0000, ftcount := 2, poolbase := 0x20_0000, poolpages := 4,
                                                modelbase := 0x30_0000, sevsize := 16 } })]
    sessions := [(0, x)] }
def cmd (op : BitVec 8) (a0 a1 a2 : BitVec 64) (i : BitVec 32 := 0#32) : SessCmd := ⟨7#16, op, i, a0, a1, a2⟩

theorem witness_HostRings :
    (let s := sessions
     64 < 65 ∧ 1 ≠ 0 ∧ vfFen s 2 = none ∧ (1 : BitVec 64).getLsbD 0 = true ∧ vfFen s 1 = some 0 ∧ (sessOf s 0).heldEvents = [] ∧
     31 < 32 ∧ ((0x1_0000_0000 : BitVec 64) >>> 32).setWidth 32 = 1#32 ∧
     (let b (d : Bool) : Service := { bootst := 4, doorbell := d }
      (b false).doorbell = false ∧ (b false).bootst = 4#8 ∧ (b true).doorbell = true) ∧
     areaInUse { s with mem := tables } 0 = false ∧ areaInUse s 0 = true) ∧
    (let s (x : LQueue) : State := { sessions with queues := [(2, { x with owner := some 0 })] }
     2 < 256 ∧ vfQueue (s {}) 1 3 = false ∧ vfQueue (s {}) 1 2 = true ∧ ((queueOf (s {}) 2).qhead = (queueOf (s {}) 2).kicked ∧
       (queueOf (s {}) 2).launches = []) ∧ (queueOf (s { kicked := 1 }) 2).qhead ≠ (queueOf (s { kicked := 1 }) 2).kicked ∧
     (queueOf (s { qsize := 4 }) 2).qsize.toNat < ((5 : BitVec 32) - (queueOf (s {}) 2).qhead).toNat ∧
     ((1 : BitVec 32) = (queueOf (s { qsize := 4 }) 2).qhead + 1#32 ∧ 1 ≤ (queueOf (s { qsize := 4 }) 2).qsize.toNat ∧
       (queueOf (s { qsize := 4 }) 2).retries = 0 ∧ stampMatches (s { qsize := 4 }) 2 = false) ∧
     stampMatches { s { qsize := 4 } with mem := [(2 ^ 60 + 2 ^ 51 + 0x100, 1#8)] } 2 = true ∧
     ((queueOf (s {}) 2).owner = some 0 ∧ (queueOf (s {}) 2).retries = 0) ∧
     (let r := s { qsize := 4, kicked := 1, retries := 8, retryAt := 9000 }
      0 < (queueOf r 2).retries ∧ (queueOf r 2).retryAt ≤ r.clock ∧ stampMatches r 2 = false ∧
      stampMatches { r with mem := [(2 ^ 60 + 2 ^ 51 + 0x100, 1#8)] } 2 = true) ∧
     ((queueOf (s {}) 2).qpoll = 0#16) ∧ ((queueOf (s { qpoll := 5, pollAt := 9000 }) 2).qpoll ≠ 0#16 ∧
       (queueOf (s { qpoll := 5, pollAt := 9000 }) 2).pollAt ≤ (s {}).clock) ∧
     (let f (n : BitVec 13) : SessRegs := { scrsize := n }
      ((5 : BitVec 32) - (f 5).scrhead).toNat ≤ (f 5).scrsize.toNat ∧ (f 4).scrsize.toNat < ((5 : BitVec 32) - (f 4).scrhead).toNat)) := by
  decide +kernel

theorem witness_SessionCommands :
    (let s := sessions
     Memory.wf s.mem ∧ eventRoom (sessOf s 0) = true ∧ (sessOf s 0).heldEvents = [] ∧ eventRoom { sessOf s 0 with sevsize := 0 } = false ∧
     [leBytes 16 5] ≠ []) ∧
    (let frame : Word := 0x0400_0000_0000_0000
     let snap : Word := 0x0800_0000_0000_0001
     let s (st : SessSt) (n : Nat) : State := sessions { st, a := n, tcap := 8 }
     15 < 16 ∧ named sessions 0 (cmd 1 0 0 0 2) = false ∧ named sessions 0 (cmd 1 0 0 0 1) = true ∧ (sessionOf (s .idle 0) 0 0).st ≠ .free ∧
     ((sessionOf sessions 0 0).st = .free ∧ (16 ≤ 16 ∧ bits (0x1_0000 : Word).toNat 0 32 = 2 ^ 16) ∧ (64 : Word).toNat % 64 = 0 ∧
       (0x1_0000 : Word).toNat < 2 ^ 38 ∧ (frameCheck sessions 0 frame [1]).toOption.isSome = true) ∧
     (65536 < (65537 : Word).toNat) ∧ ((1 : Word) ≠ 0#64 ∧ (65536 : Word).toNat ≤ 65536 ∧ (sessionOf (s .idle 8) 0 0).tcap <
       (sessionOf (s .idle 8) 0 0).buffered + (1 : Word).toNat) ∧
     ((sessionOf (s .ready 7) 0 0).st ≠ .held ∧ (sessionOf (s .ready 7) 0 0).buffered + (1 : Word).toNat ≤ (sessionOf (s .ready 7) 0 0).tcap) ∧
     (sessionOf (s .batched 0) 0 0).st = .batched ∧ (sessionOf (s .held 0) 0 0).st = .held ∧
     (cmd 5 4097 0 0).session = 0#32 ∧ 4096 < (cmd 5 4097 0 0).arg0.toNat ∧
     ((frameCheck sessions 0 frame [1]).bind fun x => (pageList sessions 0 x.2).bind fun ps => (downRefs sessions 0 ps).bind fun u =>
       freeFEntry u 0 x.1 x.2).toOption.isSome = true ∧
     ((frameCheck sessions 0 snap [2]).bind fun x => dropHold sessions 0 x.1 0 x.2).toOption.isSome = true ∧
     ((sessionOf (s .idle 4) 0 0).st = .idle ∧ (modelOf (s .idle 4) 0 (sessionOf (s .idle 4) 0 0).model).chunk ≤ (sessionOf (s .idle 4) 0 0).buffered) ∧
     (sessionOf (s .idle 3) 0 0).buffered < (modelOf (s .idle 3) 0 (sessionOf (s .idle 3) 0 0).model).chunk) := by decide +kernel

theorem witness_SessionBatches :
    (let s := sessions { st := .idle, a := 1, tcap := 8, t0 := 4 }
     0 < 16 ∧ 0 < (sessOf s 0).sesscnt ∧ 0 < 65536 ∧ (sessionOf s 0 0).st = .idle ∧ 1 ≤ (sessionOf s 0 0).a - (sessionOf s 0 0).c ∧
     (modelOf s 0 0).maxwait ≠ 0 ∧ (modelOf s 0 0).maxwait ≤ s.clock / 1000 - (sessionOf s 0 0).t0 ∧
     8999 / 1000 - (sessionOf s 0 0).t0 < (modelOf s 0 0).maxwait) ∧
    (let s := sessions { st := .ready, a := 4, tcap := 8 }
     63 < 64 ∧ batchNow sessions 0 0 = none ∧ (batchNow s 0 0).map (fun x => (x.1, x.2.2)) = some (0, [0]) ∧
     (s.batches.filter fun b => b.fen == 0 && b.model == 0 && b.stage != .queued) = [] ∧
     (let b (o : Nat) (st : BatchStage) : Batch :=
        { fen := 0, model := 0, set := 1, items := [⟨0, 1, false⟩], lid := 7, plan := [(0, 128, o, 0)], stage := st }
      let t (b : Batch) (cs : List Carry) : State :=
        { s with batches := [b], fens := [(0, { fenOf s 0 with sess := { sessOf s 0 with carry := cs } })] }
      let waiting (u : State) := u.batches.filter fun b => b.fen == 0 && b.model == 0 && b.stage != .queued
      (waiting (t (b 0 .formed) []) = [b 0 .formed] ∧ batchFits (t (b 0 .formed) []) (b 0 .formed) = true ∧
        batchFits (t (b 0x2F_FFC0 .formed) []) (b 0x2F_FFC0 .formed) = false) ∧
      (let u := t (b 0 .loading) [{ what := .load 0 1, lines := [0] }]
       let v := t (b 0 .loading) [{ what := .load 0 1, lines := [] }]
       batchMoves u (b 0 .loading) = false ∧ batchMoves v (b 0 .loading) = true ∧ (askBanks v (b 0 .loading).need).1 = true ∧
       findLaunch v 7 = none))) ∧
    (let b : Batch := { fen := 0, model := 63, set := 1, items := [], lid := 3, plan := [], status := some 0 }
     1 < 2 ∧ sessions.batches.find? (fun b => b.fen == 0 && b.model == 63 && b.set == 1 && b.status.isSome) = none ∧
     ({ sessions with batches := [b] } : State).batches.find? (fun b => b.fen == 0 && b.model == 63 && b.set == 1 && b.status.isSome) = some b ∧
     (let o : Batch := { b with items := [{ sess := 0, t := 1, skip := false }], plan := [(0, 128, 0, 0)] }
      let mine := (o.items.filter (!·.skip)).map (·.sess)
      let first (k : State) := carried k 0 (.store 63 1) (mine.flatMap fun i => extentLines k 0 i (o.plan.map fun p => (p.1, p.2.1)) true)
      let u := sessions { frame := 0x0400_0000_0000_0000 }
      let v : State := { u with fens := [(0, { fenOf u 0 with sess := { sessOf u 0 with carry := [{ what := .store 63 1, lines := [] }] } })] }
      o.status = some 0 ∧ mine ≠ [] ∧ (first u).1 = false ∧ (first v).1 = true ∧ (askBanks (first v).2 o.need).1 = true)) := by
  decide +kernel
/-- The lines of a command to carry past the regulators (R380): none listed yet, and all carried. -/
theorem witness_SessionCommands_carried :
    (let s := sessions
     let c := cmd 5 1 0 0
     let w : CarryFor := .command c
     let v : State := { s with fens := [(0, { fenOf s 0 with sess := { sessOf s 0 with carry := [{ what := w, lines := [] }] } })] }
     let lines := scanLines s 0 ++ newPageLines s 0 (c.arg0.toNat + 1)
     (c.arg0 ≠ 0#64 ∧ c.arg0.toNat ≤ 4096 ∧ c.session = 0#32) ∧ carryOf s 0 w = none ∧ lines ≠ [] ∧
     (carried s 0 w lines).1 = false ∧ (carried v 0 w lines).1 = true) := by
  decide +kernel
/-! ### FCREATE succeeds somewhere: a frame of one page in the frame area of `framed` -/

/-- A state that differs from `framed` in its frame area only. -/
def Good (t : State) : Prop :=
  Memory.wf t.mem ∧ t.fens = framed.fens ∧ SameOutsideArea 0 (fun va => 0x4000_0000 + va) framed t ∧
  ∀ l, (∀ va, FrameArea framed 0 va → (Loc.phys (0x4000_0000 + va)).key / 64 ≠ l) → (l ∈ t.ecc ↔ l ∈ framed.ecc)

theorem framed_regs : (sessOf framed 0).ftbase.toNat = 0x10_0000 ∧ ftCount framed 0 = 3 ∧ poolBase framed 0 = 0x20_0000 ∧ poolPages framed 0 = 8 := by
  decide +kernel

theorem area_iff (va : Nat) : FrameArea framed 0 va ↔ (0x10_0000 ≤ va ∧ va < 0x10_00C0) ∨ (0x20_0000 ≤ va ∧ va < 0x28_0800) := by
  simp only [FrameArea, framed_regs]

theorem good_framed : Good framed := ⟨by decide +kernel, rfl, fun _ _ => rfl, fun _ _ => Iff.rfl⟩

theorem Good.regs {t : State} (h : Good t) : (sessOf t 0).ftbase.toNat = 0x10_0000 ∧ poolBase t 0 = 0x20_0000 ∧ poolPages t 0 = 8 := by
  have : sessOf t 0 = sessOf framed 0 := by simp [sessOf, fenOf, h.2.1]
  simp only [poolBase, poolPages, this]
  exact ⟨framed_regs.1, framed_regs.2.2⟩

theorem Good.va {t : State} (h : Good t) {va : Nat} (hv : FrameArea framed 0 va) (w : Bool) : frameVa t 0 va w = .ok (0x4000_0000 + va) :=
  witness_FrameAndGangWords_placed.2.2.2.2.2.2 t h.1 h.2.1 h.2.2.1 h.2.2.2 va w hv

theorem Good.write {t : State} (h : Good t) {va : Nat} {bs : List Byte} (hv : ∀ i, i < bs.length → FrameArea framed 0 (va + i)) :
    Good (writeHome t (.phys (0x4000_0000 + va)) bs) := by
  refine ⟨writeHome_wf _ _ _ h.1, h.2.1, fun k hk => ?_, fun l hl => ?_⟩
  · rw [writeHome_same _ _ _ h.1 k, h.2.2.1 k hk]
    by_cases hb : k < (Loc.phys (0x4000_0000 + va)).key ∨ (Loc.phys (0x4000_0000 + va)).key + bs.length ≤ k
    · exact hb
    · simp only [Loc.key] at hb
      refine absurd ?_ (hk _ (hv (k - (2 ^ 60 + (0x4000_0000 + va))) (by omega)))
      simp only [Loc.key]
      omega
  · rw [← h.2.2.2 l hl]
    show l ∈ List.filter _ _ ↔ _
    rw [List.mem_filter]
    refine ⟨And.left, fun hm => ⟨hm, ?_⟩⟩
    by_cases hb : (Loc.phys (0x4000_0000 + va)).key ≤ l * 64 ∧ l * 64 + 64 ≤ (Loc.phys (0x4000_0000 + va)).key + bs.length
    · simp only [Loc.key] at hb
      refine absurd ?_ (hl _ (hv (l * 64 - (2 ^ 60 + (0x4000_0000 + va))) (by omega)))
      simp only [Loc.key]
      omega
    · simp only [Bool.not_eq_eq_eq_not, Bool.not_true, Bool.and_eq_false_imp, decide_eq_true_eq, decide_eq_false_iff_not]
      omega

theorem pieces_inside (va n : Nat) : ∀ p ∈ pieces 4096 va n, va ≤ p.1 ∧ p.1 < va + n ∧ p.1 + p.2 ≤ va + n := by
  unfold pieces
  split
  · simp
  · rename_i hn
    simp only [Bool.or_eq_true, decide_eq_true_eq, not_or] at hn
    intro p hp
    simp only [List.mem_map, List.mem_range] at hp
    obtain ⟨i, hi, rfl⟩ := hp
    dsimp only
    omega

/-- A write of the area succeeds and changes nothing outside its run. -/
theorem Good.frameWrite {t : State} (h : Good t) {va : Nat} {bs : List Byte} (hv : ∀ i, i < bs.length → FrameArea framed 0 (va + i)) :
    ∃ u, Machine.frameWrite t 0 va bs = .ok u ∧ Good u ∧ ∀ k, k < 2 ^ 60 + (0x4000_0000 + va) ∨ 2 ^ 60 + (0x4000_0000 + va) + bs.length ≤ k →
      byteAt u k = byteAt t k := by
  unfold Machine.frameWrite
  generalize hps : pieces 4096 va bs.length = ps
  have hin : ∀ p ∈ ps, va ≤ p.1 ∧ p.1 < va + bs.length ∧ p.1 + p.2 ≤ va + bs.length := hps ▸ pieces_inside va bs.length
  clear hps
  induction ps generalizing t with
  | nil => exact ⟨t, rfl, h, fun _ _ => rfl⟩
  | cons p r ih =>
    have hp := hin p List.mem_cons_self
    have hlen : ((bs.drop (p.1 - va)).take p.2).length ≤ p.2 := by simp [Nat.min_le_left]
    have hva : FrameArea framed 0 p.1 := by
      have := hv (p.1 - va) (by omega)
      rwa [show va + (p.1 - va) = p.1 by omega] at this
    have hg : Good (writeHome t (.phys (0x4000_0000 + p.1)) ((bs.drop (p.1 - va)).take p.2)) := h.write fun i hi => by
      have := hv (p.1 - va + i) (by omega)
      rwa [show va + (p.1 - va + i) = p.1 + i by omega] at this
    obtain ⟨u, hu, gu, ku⟩ := ih hg fun q hq => hin q (List.mem_cons_of_mem _ hq)
    refine ⟨u, ?_, gu, fun k hk => ?_⟩
    · rw [List.foldl_cons, ← hu]
      congr 1
      show (frameVa t 0 p.1 true).bind _ = _
      rw [h.va hva]
      rfl
    · rw [ku k hk, writeHome_same _ _ _ h.1 k]
      simp only [Loc.key]
      omega

/-- A read of the area succeeds. -/
theorem Good.frameRead {t : State} (h : Good t) {va n : Nat} (hv : ∀ i, i < n → FrameArea framed 0 (va + i)) :
    ∃ bs, Machine.frameRead t 0 va n = .ok bs := by
  unfold Machine.frameRead
  generalize hps : pieces 4096 va n = ps
  have hin : ∀ p ∈ ps, va ≤ p.1 ∧ p.1 < va + n ∧ p.1 + p.2 ≤ va + n := hps ▸ pieces_inside va n
  clear hps
  generalize ([] : List Byte) = acc
  induction ps generalizing acc with
  | nil => exact ⟨acc, rfl⟩
  | cons p r ih =>
    have hp := hin p List.mem_cons_self
    have hva : FrameArea framed 0 p.1 := by
      have := hv (p.1 - va) (by omega)
      rwa [show va + (p.1 - va) = p.1 by omega] at this
    obtain ⟨u, hu⟩ := ih (fun q hq => hin q (List.mem_cons_of_mem _ hq)) (acc ++ readHome t (.phys (0x4000_0000 + p.1)) p.2)
    refine ⟨u, ?_⟩
    rw [List.foldl_cons, ← hu]
    congr 1
    show (frameVa t 0 p.1 false).bind _ = _
    rw [h.va hva]
    rfl

theorem page_area (i j : Nat) (hi : i < 8) (hj : j < 0x1_0000) : FrameArea framed 0 (0x20_0000 + 0x1_0000 * i + j) := by
  rw [area_iff]; omega

theorem Good.sidecar {t : State} (h : Good t) (i : Nat) : Machine.sidecar t 0 (0x20_0000 + 0x1_0000 * i) = 0x28_0000 + 256 * i := by
  simp only [Machine.sidecar, h.regs]; omega

/-- REF of page 7 is read where it stands. -/
theorem Good.ref7 {t : State} (h : Good t) : refOf t 0 0x27_0000 = .ok (leNat (readHome t (.phys (0x4000_0000 + 0x28_0780)) 2)) := by
  have hp : pieces 4096 0x28_0780 2 = [(0x28_0780, 2)] := by decide
  have hs := h.sidecar 7
  rw [refOf, show (0x27_0000 : Nat) = 0x20_0000 + 0x1_0000 * 7 from rfl, hs]
  show (Machine.frameRead t 0 0x28_0780 2).map leNat = _
  rw [Machine.frameRead, hp, List.foldl_cons, List.foldl_nil]
  show (Except.bind (frameVa t 0 0x28_0780 false) _).map leNat = _
  rw [h.va (by rw [area_iff]; omega)]
  rfl

theorem ref7_free : leNat (readHome framed (.phys (0x4000_0000 + 0x28_0780)) 2) = 0 := by decide +kernel

/-- With a page of REF 0 in reach, the first one is found. -/
theorem findPage_found (t : State) (n p : Nat) (hr : ∀ i, i < n → ∃ r, refOf t 0 (p + 0x1_0000 * i) = .ok r)
    (hz : ∃ i, i < n ∧ refOf t 0 (p + 0x1_0000 * i) = .ok 0) : ∃ i, i < n ∧ findPage t 0 n p = .ok (p + 0x1_0000 * i) := by
  induction n generalizing p with
  | zero => obtain ⟨i, hi, -⟩ := hz; omega
  | succ n ih =>
    obtain ⟨r, h0⟩ := hr 0 (by omega)
    simp only [Nat.mul_zero, Nat.add_zero] at h0
    by_cases h : r = 0
    · refine ⟨0, by omega, ?_⟩
      simp only [findPage, h0]
      show (if r = 0 then _ else _) = _
      rw [if_pos h]; rfl
    · obtain ⟨i, hi, hz⟩ := hz
      have hi0 : i ≠ 0 := by
        rintro rfl
        simp only [Nat.mul_zero, Nat.add_zero, h0, Except.ok.injEq] at hz
        exact h hz
      have e : ∀ j, p + 0x1_0000 + 0x1_0000 * j = p + 0x1_0000 * (j + 1) := fun j => by omega
      obtain ⟨j, hj, hf⟩ := ih (p + 0x1_0000) (fun j hj => by rw [e]; exact hr (j + 1) (by omega))
        ⟨i - 1, by omega, by rw [e, show i - 1 + 1 = i by omega]; exact hz⟩
      refine ⟨j + 1, by omega, ?_⟩
      simp only [findPage, h0]
      show (if r = 0 then _ else _) = _
      rw [if_neg h, hf, e]

theorem ok_bind {α β : Type} (x : α) (f : α → Except FErr β) : (Except.ok x >>= f) = f x := rfl

theorem crcs_length : ((List.replicate 16 (leBytes 8 (crc64 (List.replicate 4096 0#8)).toNat)).flatten).length = 128 := by
  generalize (crc64 (List.replicate 4096 0#8)).toNat = n
  have h : (leBytes 8 n).length = 8 := rfl
  simp [h]
/-- The acts of an allocation, one by one. -/
theorem allocPage_steps (t : State) (p : Nat) (zs cs : List Byte) (a b c : State) (hz : zs = List.replicate 0x1_0000 0#8)
    (hcs : cs = (List.replicate 16 (leBytes 8 (crc64 (List.replicate 4096 0#8)).toNat)).flatten)
    (hf : findPage t 0 (poolPages t 0) (poolBase t 0) = .ok p) (ha : Machine.frameWrite t 0 p zs = .ok a)
    (hb : Machine.frameWrite a 0 (Machine.sidecar a 0 p) cs = .ok b) (hc : setRef b 0 p 1 = .ok c) :
    Machine.allocPage t 0 = .ok (p, c) := by
  subst hz hcs
  unfold Machine.allocPage
  rw [hf, ok_bind, ha, ok_bind]
  show (Machine.frameWrite a 0 (Machine.sidecar a 0 p) _ >>= _) = _
  rw [hb, ok_bind, hc, ok_bind]

/-- A page is taken while page 7 is free. -/
theorem Good.allocPage {t : State} (h : Good t) (hz : leNat (readHome t (.phys (0x4000_0000 + 0x28_0780)) 2) = 0) :
    ∃ i u, i < 8 ∧ findPage t 0 8 0x20_0000 = .ok (0x20_0000 + 0x1_0000 * i) ∧ Machine.allocPage t 0 = .ok (0x20_0000 + 0x1_0000 * i, u) ∧ Good u ∧ ∀ k, (∀ va, FrameArea framed 0 va →
      (0x20_0000 + 0x1_0000 * i ≤ va ∧ va < 0x20_0000 + 0x1_0000 * (i + 1)) ∨ (0x28_0000 + 256 * i ≤ va ∧ va < 0x28_0000 + 256 * (i + 1)) →
        k ≠ 2 ^ 60 + (0x4000_0000 + va)) → byteAt u k = byteAt t k := by
  obtain ⟨i, hi, hf⟩ := findPage_found t 8 0x20_0000 (fun i hi => by
      obtain ⟨bs, hb⟩ := h.frameRead (va := Machine.sidecar t 0 (0x20_0000 + 0x1_0000 * i) + 128) (n := 2) fun j hj => by
        rw [h.sidecar, area_iff]; omega
      exact ⟨leNat bs, by rw [refOf, hb]; rfl⟩) ⟨7, by omega, by rw [show 0x20_0000 + 0x1_0000 * 7 = 0x27_0000 from rfl, h.ref7, hz]⟩
  obtain ⟨zs, hzs⟩ : ∃ zs, zs = List.replicate 0x1_0000 0#8 := ⟨_, rfl⟩
  have hzl : zs.length = 0x1_0000 := by rw [hzs, List.length_replicate]
  obtain ⟨cs, hcs⟩ : ∃ cs, cs = (List.replicate 16 (leBytes 8 (crc64 (List.replicate 4096 0#8)).toNat)).flatten := ⟨_, rfl⟩
  have hcl : cs.length = 128 := by rw [hcs, crcs_length]
  obtain ⟨a, ha, ga, ka⟩ := h.frameWrite (va := 0x20_0000 + 0x1_0000 * i) (bs := zs) fun j hj => page_area i j hi (by omega)
  obtain ⟨b, hb, gb, kb⟩ := ga.frameWrite (va := Machine.sidecar a 0 (0x20_0000 + 0x1_0000 * i)) (bs := cs) fun j hj => by
    rw [ga.sidecar, area_iff]; omega
  obtain ⟨c, hc, gc, kc⟩ := gb.frameWrite (va := Machine.sidecar b 0 (0x20_0000 + 0x1_0000 * i) + 128) (bs := leBytes 2 1) fun j hj => by
    rw [gb.sidecar, area_iff]
    have : (leBytes 2 1).length = 2 := rfl
    omega
  refine ⟨i, c, hi, hf, ?_, gc, fun k hk => ?_⟩
  · exact allocPage_steps t _ zs cs a b c hzs hcs (by rw [h.regs.2.1, h.regs.2.2, hf]) ha hb hc
  · have out : ∀ va n, (∀ j, j < n → FrameArea framed 0 (va + j) ∧ ((0x20_0000 + 0x1_0000 * i ≤ va + j ∧ va + j < 0x20_0000 + 0x1_0000 * (i + 1)) ∨
        (0x28_0000 + 256 * i ≤ va + j ∧ va + j < 0x28_0000 + 256 * (i + 1)))) →
        k < 2 ^ 60 + (0x4000_0000 + va) ∨ 2 ^ 60 + (0x4000_0000 + va) + n ≤ k := by
      intro va n hj
      by_cases hb : k < 2 ^ 60 + (0x4000_0000 + va) ∨ 2 ^ 60 + (0x4000_0000 + va) + n ≤ k
      · exact hb
      · have := hj (k - (2 ^ 60 + (0x4000_0000 + va))) (by omega)
        exact absurd (by omega) (hk _ this.1 this.2)
    have hl2 : (leBytes 2 1).length = 2 := rfl
    rw [kc k (out _ _ fun j hj => ?_), kb k (out _ _ fun j hj => ?_), ka k (out _ _ fun j hj => ?_)]
    · rw [area_iff]; omega
    · rw [ga.sidecar, area_iff]; omega
    · rw [gb.sidecar, area_iff]; omega

/-- Eight bytes at the start of a page are written with their CRC. -/
theorem Good.pageWrite {t : State} (h : Good t) (i : Nat) (hi : i < 8) (bs : List Byte) (hb : bs.length = 8) :
    ∃ u, Machine.pageWrite t 0 (0x20_0000 + 0x1_0000 * i) bs = .ok u ∧ Good u := by
  obtain ⟨a, ha, ga, -⟩ := h.frameWrite (va := 0x20_0000 + 0x1_0000 * i) (bs := bs) fun j hj => page_area i j hi (by omega)
  obtain ⟨block, hk⟩ := ga.frameRead (va := 0x20_0000 + 0x1_0000 * i + 4096 * 0) (n := 4096) fun j hj => page_area i j hi (by omega)
  obtain ⟨u, hu, gu, -⟩ := ga.frameWrite (va := Machine.sidecar a 0 (0x20_0000 + 0x1_0000 * i) + 8 * 0) (bs := leBytes 8 (crc64 block).toNat)
    fun j hj => by
      have : (leBytes 8 (crc64 block).toNat).length = 8 := rfl
      rw [ga.sidecar, area_iff]; omega
  refine ⟨u, ?_, gu⟩
  unfold Machine.pageWrite
  rw [ha, ok_bind]
  have hp : poolBase a 0 + (0x20_0000 + 0x1_0000 * i - poolBase a 0) / 0x1_0000 * 0x1_0000 = 0x20_0000 + 0x1_0000 * i := by
    rw [ga.regs.2.1]; omega
  simp only [hp, Nat.sub_self, hb]
  rw [show pieces 4096 0 8 = [(0, 8)] by decide]
  show (do let block ← Machine.frameRead a 0 (0x20_0000 + 0x1_0000 * i + 4096 * 0) 4096; putCrc a 0 (0x20_0000 + 0x1_0000 * i) 0 block) = _
  rw [hk, ok_bind]
  exact hu

/-- FCREATE of one page succeeds in `framed`. -/
theorem witness_SessionCommands_creates : ∃ w u, newFrame framed 0 1 = .ok (w, u) := by
  obtain ⟨old, ho⟩ : ∃ old, allocFEntry framed 0 = .ok (2, old) := by
    have : (allocFEntry framed 0).toOption.map (·.1) = some 2 := by decide +kernel
    revert this
    cases allocFEntry framed 0 with
    | error e => simp [Except.toOption]
    | ok x => intro hx; exact ⟨x.2, by simp [Except.toOption] at hx; rw [← hx]⟩
  obtain ⟨i, a, hi, hf, ha, ga, ka⟩ := good_framed.allocPage ref7_free
  have h6 : i = 6 := by
    have : (findPage framed 0 8 0x20_0000).toOption = some 0x26_0000 := by decide +kernel
    rw [hf] at this
    simp only [Except.toOption, Option.some.injEq] at this
    omega
  subst h6
  have hz : leNat (readHome a (.phys (0x4000_0000 + 0x28_0780)) 2) = 0 := by
    rw [← ref7_free]
    unfold readHome
    rw [memRead_eq _ _ _ ga.1.1, memRead_eq _ _ _ good_framed.1.1]
    refine congrArg leNat (List.map_congr_left fun j hj => ?_)
    have := List.mem_range.mp hj
    rw [← byteAt_eq a ga.1, ← byteAt_eq framed good_framed.1]
    refine ka _ fun va _ hva => ?_
    simp only [Loc.key]
    omega
  obtain ⟨j, b, hj, -, hb, gb, -⟩ := ga.allocPage hz
  obtain ⟨c, hc, gc⟩ := gb.pageWrite j hj (leBytes 8 (0x20_0000 + 0x1_0000 * 6)) rfl
  obtain ⟨d, hd, -, -⟩ := gc.frameWrite (va := 0x10_0000 + 64 * 2)
    (bs := FEntry.bytes ⟨1, 0, old.gen, 1, 0x20_0000 + 0x1_0000 * j, 0, 0, 0⟩) fun x hx => by
      have : (FEntry.bytes ⟨1, 0, old.gen, 1, 0x20_0000 + 0x1_0000 * j, 0, 0, 0⟩).length = 64 := rfl
      rw [area_iff]; omega
  refine ⟨frameHandle 0 1 old.gen 2, d, ?_⟩
  have hn : newPages framed 0 1 = .ok ([0x20_0000 + 0x1_0000 * 6], a) := by
    rw [newPages, ha, ok_bind]; rfl
  unfold newFrame
  rw [ho, ok_bind]
  show (newPages framed 0 1 >>= _) = _
  rw [hn, ok_bind]
  show (Machine.allocPage a 0 >>= _) = _
  rw [hb, ok_bind]
  show (Machine.pageWrite b 0 (0x20_0000 + 0x1_0000 * j) _ >>= _) = _
  rw [show List.flatMap (leBytes 8) [0x20_0000 + 0x1_0000 * 6] = leBytes 8 (0x20_0000 + 0x1_0000 * 6) from rfl, hc, ok_bind]
  show (Machine.frameWrite c 0 ((sessOf c 0).ftbase.toNat + 64 * 2) _ >>= _) = _
  rw [gc.regs.1, hd]
  rfl
theorem endCarry_back (s : State) (f : SessRegs → SessRegs) (w : CarryFor) (h : (endCarry (modSess s 0 f) 0 w).fens = s.fens) :
    endCarry (modSess s 0 f) 0 w = s := by
  show State.mk s.clock s.mem s.ecc s.cores s.subs (endCarry (modSess s 0 f) 0 w).fens s.queues s.dies s.sessions s.batches s.batchNo s.accs
    s.posted s.walks s.frms s.xfers s.raises s.mesh s.streams s.ring s.peers s.svc s.fresh s.cur s.turn s.agenda s.script s.hostBad s.jitter
    s.residue s.free s.seen = s
  rw [h]
/-- The same command, its lines carried. -/
theorem witness_SessionCommands_created :
    (let w : CarryFor := .command (cmd 5 1 0 0)
     let s := modSess framed 0 fun r => { r with carry := [{ what := w, lines := [] }] }
     (∀ lines, (carried s 0 w lines).1 = true) ∧ ∃ v u, newFrame (endCarry s 0 w) 0 (cmd 5 1 0 0).arg0.toNat = .ok (v, u)) := by
  refine ⟨fun lines => ?_, ?_⟩
  · unfold carried
    rw [show carryOf (modSess framed 0 fun r => { r with carry := [{ what := .command (cmd 5 1 0 0), lines := [] }] }) 0
      (.command (cmd 5 1 0 0)) = some { what := .command (cmd 5 1 0 0), lines := [] } by decide +kernel]
    rfl
  · rw [endCarry_back _ _ _ (by decide +kernel), show (cmd 5 1 0 0).arg0.toNat = 1 from rfl]
    exact witness_SessionCommands_creates

/-- READY, with core 1 a member of fen 0 and the other cores unowned. -/
def readied (k : Core := { st := .member }) : State :=
  { clock := 100, cores := [(1, k)], fens := [(0, { formed := true })], svc := { bootst := 4 } }
def zeros (n : Nat) : List Byte := List.replicate n 0#8
/-- A FENFORM of fen 15 with core 0, VF 1, queue 2, one session, a grant of 1 GiB, and 8 handles. -/
def forming : MgmtReq :=
  ⟨1, 9#16, 1#8, [15#8, 1#8, 7#8, 0#8, 1#8, 0#8, 0#8, 0#8, 1#8] ++ zeros 11 ++ [1#8] ++ zeros 7 ++ [4#8] ++ zeros 31 ++ [1#8, 0#8, 0#8, 0#8] ++ zeros 8 ++
    [0#8, 0#8, 0#8, 0x40#8, 0#8, 0#8, 0#8, 0#8] ++ zeros 24 ++ [8#8, 0#8] ++ zeros 6⟩

theorem witness_ManagementRequests :
    (let r := forming
     let s := readied
     r.port < 2 ∧ r.payload.length ≤ 252 ∧ r.code = 1#8 ∧ State.reset.svc.bootst ≠ 4#8 ∧ s.svc.bootst = 4#8 ∧ zeros 111 ≠ zeros 112 ∧
     r.payload.length = 112 ∧ mgField r 3 1 = 0 ∧ mgField r 0x6A 6 = 0 ∧ fenformArgs r = true ∧
     fenformArgs { r with payload := zeros 112 } = false ∧ fenEnding s (mgField r 0 1) = false ∧ (fenOf s (mgField r 0 1)).formed = false ∧
     (∀ k, k < 96 → bitAt (mgField r 8 12) k = true → moving (coreOf s k) = false) ∧ fenformFree s r = true ∧ Memory.wf s.mem) := by decide +kernel
/-- FENEND and COREMOVE. -/
theorem witness_ManagementRequests_moves :
    (let r : MgmtReq := ⟨0, 9#16, 2#8, [0#8]⟩
     let s := readied
     r.code = 2#8 ∧ r.payload.length = 1 ∧ mgField r 0 1 < 16 ∧ fenEnding s (mgField r 0 1) = false ∧ (fenOf s 15).formed = false ∧
     (fenOf s (mgField r 0 1)).formed = true ∧ (1 < 96 ∧ (coreOf s 1).fen = mgField r 0 1 ∧ (coreOf s 1).st = .member)) ∧
    (let r (k f : BitVec 8) : MgmtReq := ⟨0, 9#16, 3#8, [k, f, 0#8, 0#8]⟩
     let s := readied
     (r 95 0).payload.length = 4 ∧ mgField (r 95 0) 2 2 = 0 ∧ mgField (r 95 0) 0 1 = 95 ∧ 95 < 96 ∧ mgField (r 95 0) 1 1 < 16 ∧
     (coreOf s 95).st = .unowned ∧ (coreOf s 95).retired = false ∧ (fenOf s 0).formed = true ∧ fenEnding s 0 = false ∧
     mgField (r 1 0xFF) 1 1 = 0xFF ∧ (coreOf s (mgField (r 1 0xFF) 0 1)).st = .member ∧ (coreOf s 1).fen < 16 ∧
     (mgField (r 1 0) 0 1 = 1 ∧ (coreOf s 1).fen = mgField (r 1 0) 1 1 ∧ (coreOf s 1).retired = false)) := by decide +kernel
/-- The other requests. -/
theorem witness_ManagementRequests_others :
    (let s := readied
     let p (d e : BitVec 8) : MgmtReq := ⟨0, 9#16, 4#8, [d, e, 0#8, 0#8]⟩
     (p 0 1).payload.length = 4 ∧ mgField (p 0 1) 3 1 = 0 ∧ mgField (p 0 1) 2 1 = 0 ∧ (mgField (p 0 1) 0 1 = 0 ∧ mgField (p 0 1) 1 1 = 1) ∧
     (mgField (p 1 1) 0 1 = 1 ∧ mgField (p 1 1) 1 1 = 1) ∧ (mgField (p 0 0) 0 1 = 0 ∧ mgField (p 0 0) 1 1 = 0) ∧ s.peers.nxtTrains = true ∧
     s.peers.prvEn = false ∧ ({ prvTrains := false } : Peers).prvTrains = false ∧ s.peers.nxtUp = false) ∧
    (let r (h : BitVec 8) : MgmtReq := ⟨0, 9#16, 5#8, [0#8, h, 2#8, 0#8, 1#8, 0#8, 4#8, 0#8, 1#8, 0#8, 4#8, 0#8]⟩
     let s := readied
     (r 47).payload.length = 12 ∧ mgField (r 47) 3 1 = 0 ∧ mgField (r 47) 1 1 < 48 ∧ mgField (r 0xFF) 1 1 = 0xFF ∧ mgField (r 47) 2 1 ≤ 2 ∧
     (setReguls s 0 2 [47] 1 4 1 4).isSome = true ∧ (setReguls s 0 2 [47] 65535 4 1 4).isNone = true) ∧
    ((zeros 32).length = 32 ∧ (zeros 0).length = 0 ∧ (0#8 = 0#8) ∧ 8 < (9#8).toNat) := by decide +kernel

theorem witness_CoreMoves :
    (let s (k : Core) : State := readied k
     1 < 96 ∧ leavingDone (s { st := .member }) 1 = false ∧ leavingDone (s { st := .leaving }) 1 = true ∧ Memory.wf (s {}).mem ∧ (s {}).accs = [] ∧
     (coreOf (s { st := .leaving }) 1).st ≠ .scrub ∧ (s {}).clock < (coreOf (s { st := .scrub, until_ := 101 }) 1).until_ ∧
     ((coreOf (s { st := .scrub, until_ := 100, target := some 0 }) 1).st = .scrub ∧ (coreOf (s { st := .scrub, until_ := 100, target := some 0 }) 1).until_ ≤ 100 ∧
       (coreOf (s { st := .scrub, until_ := 100, target := some 0 }) 1).target = some 0 ∧ (fenOf (s {}) 0).formed = true ∧ fenEnding (s {}) 0 = false ∧
       (coreOf (s { st := .scrub, until_ := 100, target := some 0 }) 1).retired = false) ∧
     (coreOf (s { st := .scrub, until_ := 100 }) 1).target = none ∧ (s {}).clock < (coreOf (s { st := .joining, until_ := 101 }) 1).until_ ∧
     ((coreOf (s { st := .joining, until_ := 100 }) 1).st = .joining ∧ (coreOf (s { st := .joining, until_ := 100 }) 1).until_ ≤ 100)) := by
  decide +kernel

theorem witness_DeviceActs :
    (let s (b : BitVec 8) (x : Bool) (m : BitVec 32 := 0) : State :=
       { svc := { bootst := b, slotA := x, slotB := true, trains := x, versionB := 1, minVersion := m } }
     (s 0 true).svc.bootst = 0#8 ∧ ((s 1 true).svc.bootst = 1#8 ∧ imageOk (s 1 true).svc (s 1 true).svc.slotA (s 1 true).svc.versionA = true) ∧
     (imageOk (s 1 true 1).svc (s 1 true 1).svc.slotA (s 1 true 1).svc.versionA = false ∧
       imageOk (s 1 true 1).svc (s 1 true 1).svc.slotB (s 1 true 1).svc.versionB = true) ∧
     imageOk (s 1 true 2).svc (s 1 true 2).svc.slotB (s 1 true 2).svc.versionB = false ∧
     (let b : State := { svc := { bootst := 3, fromB := true } }
      (s 3 true).svc.fromB = false ∧ b.svc.fromB = true ∧ b.svc.evtail - b.svc.evhead ≠ 240#32) ∧ ((s 2 true).svc.bootst = 2#8 ∧ (s 2 true).svc.trains = true) ∧
     (s 2 false).svc.trains = false ∧ ((s 3 true).svc.bootst = 3#8 ∧ Memory.wf (s 3 true).mem)) ∧
    (let s (n : Nat) (r : List Nat) : State := { clock := 4196, cores := [(95, { bankAt := [(15, n)], retained := r })] }
     95 < 96 ∧ 15 < 16 ∧ (coreOf (s 100 []) 95).regions = [] ∧
     (tget 0 (coreOf (s 100 []) 95).bankAt 15 + 4096 ≤ (s 100 []).clock ∧ (coreOf (s 100 []) 95).retained.contains 15 = false) ∧
     (s 101 []).clock < tget 0 (coreOf (s 101 []) 95).bankAt 15 + 4096 ∧ (coreOf (s 100 [15]) 95).retained.contains 15 = true) ∧
    (48 ≤ 48 ∧ ({ clock := 63, svc := { limEnd := 64 } } : State).clock < ({ clock := 63, svc := { limEnd := 64 } } : State).svc.limEnd ∧
      State.reset.svc.limEnd ≤ State.reset.clock) ∧
    ((coreOf ({ cores := [(0, { retired := true })] } : State) 0).retired = true ∧ (coreOf State.reset 0).retired = false) ∧
    (2 ^ 60 - 1 < 2 ^ 60 ∧ 15 < 16 ∧ 8191 < 8192) := by decide +kernel
/-- Errors in the v registers and the big queues of sub-core 3 (R401, log 82). -/
theorem witness_DeviceActs_queues :
    (let s : State := { subs := [(3, { shd := { mf := [⟨0, none⟩, ⟨1, none⟩] } })] }
     3 < 4 ∧ 1 < 2 ∧ 47 < 48 ∧ ((ctxAt s (4 * 0 + 3) 1).mf[1]?).isSome = true ∧ (0 : Nat) ≠ 1) := by decide
/-- A margin below a threshold that the spec leaves open. -/
theorem witness_DeviceActs_margin : ∃ ps : Int, ps < Config.targetPs ∧ ps < Config.emergencyPs := ⟨min Config.targetPs Config.emergencyPs - 1, by omega, by omega⟩

/-- A sequencer at 0x1000 whose first word there is given by its bytes; its turn is next. -/
def running (a b c d : Byte) : State :=
  { accessed with mem := memSplice [] 0x1000 [a, b, c, d]
                  turn := [(0, 0)]
                  subs := [(0, { act := { cid := 1, step := some { lid := 3, item := 0 }, eng := [(0, { pc := 0x1000, stopped := false })] } })] }
/-- ADD s1, s2, s3, with its stop bit. -/
def adding : State := running 0xC0#8 0x20#8 0x04#8 0xC0#8
theorem witness_StepRuns :
    (let s := adding
     let s1 : State := { s with turn := [] }
     let x := engOf (ctxOf s1 0) 0
     s.agenda = [] ∧ s.turn = (0, 0) :: [] ∧ 0 ≤ 1 ∧ engineLive s1 0 = true ∧ engineHeld s1 0 0 = false ∧ swapWaits s1 0 = false ∧ walkerSwaps s1 0 0 = false ∧
     (deliverFault s1 0).isNone = true ∧ x.stopped = false ∧ x.wait = none ∧ x.idle = 0 ∧ x.dly = 0 ∧ (fetchFar (atGroup s1 0 0)).isNone = true ∧
     (fetchHeld (atGroup s1 0 0)).isNone = true ∧
     x.wakeAt ≤ s.clock ∧
     (let s0 := atGroup s1 0 0
      (scratchError s0 0 x.pc 4 = none ∧ badView s0 (curCtx s0).cid (.scratch x.pc) 4 = false ∧ 0xC00420C0 < 2 ^ 32 ∧
       readView s0 (curCtx s0).cid (.scratch x.pc) 4 = leBytes 4 0xC00420C0) ∧ fetchWord s0 x.pc = .word 0xC00420C0) ∧ decodeWord 0 0xC00420C0 = (true, some (.add 1#6 2#6 3#6)) ∧
     groupOk 0 [(x.pc, .add 1#6 2#6 3#6)] = true) ∧
    (let s0 := atGroup { running 0#8 0#8 0#8 0x80#8 with turn := [] } 0 0
     isRecordWord 0 0x80000000 = false ∧ fetchWord s0 0x1000 = .word 0x80000000 ∧ decodeWord 0 0x80000000 = (true, none)) := by decide +kernel
/-- The instruction of that step goes on, and a TRAP's does not. -/
theorem witness_StepRuns_ends :
    (let s2 := beginStep (atGroup { adding with turn := [] } 0 0)
     let s3 : State := { s2 with cur := { s2.cur with next := movePc s2 0x1000 4, addr := 0x1000, pfx := {}, hold := .go } }
     ∃ t, exec (.add 1#6 2#6 3#6) s3 = .next t ∧ t.cur.hold = .go ∧ t.cur.clears = [] ∧ isLoadWord (.add 1#6 2#6 3#6) = false ∧ t.cur.g = 0 ∧
       t.cur.e = 0 ∧ (curCtx t).cid = (curCtx s2).cid ∧ (curCtx t).step = (curCtx s2).step ∧
       groupEnd s3 [(0x1000, .add 1#6 2#6 3#6)] 0x1000 = .none ∧ t.cur.lines = []) ∧
    (let s2 := beginStep (atGroup { running 0x42#8 0#8 0#8 0xF5#8 with turn := [] } 0 0)
     let s3 : State := { s2 with cur := { s2.cur with next := movePc s2 0x1000 4, addr := 0x1000, pfx := {}, hold := .go } }
     decodeWord 0 0xF5000042 = (true, some (.trap 0x42#16)) ∧
     ∃ t c v f q, exec (.trap 0x42#16) s3 = .next t ∧ t.cur.hold = .trap c v f q ∧ groupEnd s3 [(0x1000, .trap 0x42#16)] 0x1000 = .none) :=
  ⟨⟨_, rfl, rfl, rfl, rfl, rfl, rfl, rfl, rfl, rfl, rfl⟩, by decide, _, _, _, _, _, rfl, rfl, rfl⟩
/-- A load of the bytes at 0, whose bank serves another agent's line in the clock, or does not. -/
def losing (busy : List (Nat × Nat × Nat)) : State :=
  let s := running 0x23#8 0x41#8 0x28#8 0xD0#8
  { s with cores := [(0, { st := .member, busy })] }
theorem witness_StepRuns_banks (bs : List (Nat × Nat × Nat)) (h : bs = [] ∨ bs = [(0, 7, 999)]) :
    let s2 := beginStep (atGroup { losing bs with turn := [] } 0 0)
    let s3 : State := { s2 with cur := { s2.cur with next := movePc s2 0x1000 4, addr := 0x1000, pfx := {}, hold := .go } }
    decodeWord 0 0xD0284123 = (true, some (.ldScratch 10#6 4#6 0#1 4#5 2#2 3#4)) ∧
    groupOk 0 [(0x1000, .ldScratch 10#6 4#6 0#1 4#5 2#2 3#4)] = true ∧ isLoadWord (.ldScratch 10#6 4#6 0#1 4#5 2#2 3#4) = true ∧
    ∃ t, exec (.ldScratch 10#6 4#6 0#1 4#5 2#2 3#4) s3 = .next t ∧ t.cur.hold = .go ∧ t.cur.lines = [(0, 0)] ∧
      groupEnd s3 [(0x1000, .ldScratch 10#6 4#6 0#1 4#5 2#2 3#4)] 0x1000 = .none ∧
      (outranked s3 t.cur.lines || bankLost s3 (0, 8, t.cur.lines)) = (bs != []) := by
  rcases h with rfl | rfl
  · exact ⟨by decide, by decide, rfl, _, rfl, rfl, rfl, rfl, rfl⟩
  · exact ⟨by decide, by decide, rfl, _, rfl, rfl, rfl, rfl, rfl⟩

theorem witness_EncodeDecode :
    (recordOf (.beq 1#4 2#4 0x8000#16) = none ∧ (Instr.beq 1#4 2#4 0x8000#16).home ≠ .event ∧ (Instr.beq 1#4 2#4 0x8000#16).inEngine 4 = true ∧
      (Instr.beq 1#4 2#4 0x8000#16).wf = true) ∧
    (let r : Record := ⟨0#4, 2#4, 3#5, 4#5, true, 11#4, 0x80#16, 2#16, 0x88001000#32, 0x0E804000#32⟩
     recordOf (.fcopy r) = some (0x40, r) ∧ (Instr.fcopy r).inEngine 2 = true ∧ (Instr.fcopy r).wf = true) ∧
    (0xFFFFFFFF < 2 ^ 32 ∧ decodeWord 0 0x82000003 = (true, some (.dly 3#16))) := by decide
theorem witness_WordsLeaveMemory :
    (Instr.stScratch 1#6 2#6 0#5 0#2 0#4).home ≠ .event ∧ (accessed.queues.all fun p => p.2.launches.all fun l => l.olmode == 0#2) = true ∧
    ∃ t, exec (.stScratch 7#6 1#6 0#5 0#2 0#4) accessed = .next t := ⟨by decide, rfl, _, rfl⟩

/-- Where the forms of `FormsComplete` complete: stores, vector accesses, ring functions and vector queues. -/
theorem witness_FormsComplete :
    (let s := accessed
     let fits : Nat → Nat → Bool := fun a n => a % n == 0 && decide (scratchError s s.cur.g a n = none) && !shadowOver s (curCtx s).cid [(a, n)] &&
       !noCredit s (curCore s) (.scratch a)
     rdS (curCtx s) (3#6).toNat = ⟨0x58_FFF8, none⟩ ∧ rdS (curCtx s) (7#6).toNat = ⟨0x77, none⟩ ∧ fits 0x58_FFF8 8 = true ∧
     (0x2F_FFF8 % 8 = 0 ∧ stateError s (curCore s) 0x2F_FFF8 8 = false) ∧ (ringAddr s 16#6 0x77).any (fits · 1) = true) ∧
    (let c : Ctx := { eng := [(1, { a := [(0, reg 0x1000), (2, reg 0x2F_F800)] })] }
     let s : State := { accessed with subs := [(0, { act := { c with cid := 1 } })], cur := { e := 1 } }
     rdA (curCtx s) 1 (0#4).toNat = ⟨0x1000, none⟩ ∧ predicate s = none ∧ (vregOf (curCtx s) (1#6).toNat).poison = none ∧
     vscratchError s 0x1000 = none ∧ stepRanges s (curCtx s).step = [] ∧ rdA (curCtx s) 1 (2#4).toNat = ⟨0x2F_F800, none⟩ ∧
     0x2F_F800 % 64 = 0 ∧ stateError s (curCore s) 0x2F_F800 2048 = false) ∧
    (let s := ringed
     let r := ringOf s (curCore s) (16#6).toNat
     heldWord s = none ∧ (s.queues.all fun p => p.2.launches.all fun l => l.olmode == 0#2) = true ∧ ringOk 16#6 r = true ∧ s.accs = [] ∧
     phaseOk (curCore s) r = true ∧
     rdS (curCtx s) (1#6).toNat = ⟨2, none⟩ ∧ (2 : Word).toNat ≤ r.count.toNat ∧ r.claim.toNat + (2 : Word).toNat ≤ r.head.toNat + r.count.toNat ∧
     (2 : Word).toNat < r.head.toNat ∧ (2 : Word).toNat < r.head.toNat + r.count.toNat ∧
     ((2 : Word) ≠ 0#64 ∧ r.head.toNat + (2 : Word).toNat ≤ r.tail.toNat) ∧
     (Memory.wf s.mem ∧ rdS (curCtx s) (4#6).toNat = ⟨5, none⟩ ∧ r.tail.toNat ≤ (5 : Word).toNat ∧ (5 : Word).toNat < r.claim.toNat ∧
       phaseByte s r (5 : Word).toNat ≠ phaseOf r (5 : Word).toNat)) ∧
    (headQ (curCtx (vecs none { q := [(3, [⟨1, none, 100⟩])] })) 3 (vecs none).clock = some ⟨1, none, 100⟩ ∧
      (queueOfCtx (curCtx (vecs none)) 3).length < queueCap (curCtx (vecs none)) 3 ∧
      (curCtx (vecs none { ingress := [⟨7, none⟩] })).ingress = [⟨7, none⟩]) := by decide +kernel

/-- Where the events of a launch complete. -/
theorem witness_FormsComplete_launches :
    (let l := launch .queued
     let s := launched addrs l
     headLaunch s 2 = some l ∧ findLaunch s l.lid = some (2, l) ∧ l.checked = true ∧ l.st = .queued ∧ depMet s (l.dep 0) = true ∧
     depMet s (l.dep 1) = true ∧ prevPassed s l = true ∧ regionsFit s l = true ∧ mayPlace s 0 = true ∧ blocked (queueOf s 2) = false) ∧
    (let l := launch .refused
     headLaunch (launched addrs l) 2 = some l ∧ findLaunch (launched addrs l) l.lid = some (2, l) ∧ l.checked = true ∧ l.st = .refused ∧
     prevCompleted (launched addrs l) l = true) ∧
    (let l := { launch with next := 1 }
     findLaunch (launched addrs l) l.lid = some (2, l) ∧ l.st = .started ∧ finished l = true) ∧
    (let l := { launch with budget := some (0, 0), live := 1 }
     findLaunch (launched addrs l) l.lid = some (2, l) ∧ l.budget = some (0, 0) ∧ l.st = .started ∧
     0 + 1000 * 0 < (launched addrs l).clock ∧ finished l = false) ∧
    (let st : StepCtx := { lid := 3, item := 0, resident := true, lo := 4, hi := 9 }
     let s := { launched with cores := [(0, { st := .leaving })] }
     withdrawable s 0 0 = true ∧ (ctxOf s 0).step = some st ∧ st.lid = launch.lid ∧ findLaunch s launch.lid = some (2, launch)) ∧
    (let l := launch (.ending 1 0x0F 7)
     let s := { accessed with queues := [(2, { owner := some 0, launches := [l] })] }
     findLaunch s l.lid = some (2, l) ∧ completable s 2 = some l ∧ l.st = .ending 1 0x0F 7 ∧
     ((fenOf (olFlush s l) l.fen).ol.out.any (·.1.tag == l.tag)) = false) := by decide +kernel
/-- A copy record, and a push to a fed ring that is stuck. -/
theorem witness_FormsComplete_copy :
    (let l : Launch := { launch with lnr := [2#8, 0#8, 1#8] ++ List.replicate 0x7D 0#8 ++
        [0x00#8, 0x10#8, 0#8, 0#8, 0#8, 0#8, 0#8, 0#8, 0x00#8, 0x20#8, 0#8, 0#8, 0#8, 0#8, 0#8, 0#8, 64#8, 0#8, 0#8, 0#8, 3#8] }
     let s := launched addrs l
     findLaunch s l.lid = some (2, l) ∧ l.isCopy = true ∧ l.st = .started ∧ l.copied = false ∧ copyCursor l l.ncopy l.copyAt = some (0, 0) ∧
     (copyPlace s l (bitAt (l.copyOf 0).2.2.2 0) ((l.copyOf 0).1 + 64 * 0) false).toOption = some (.scratch 0x1000) ∧
     (copyPlace s l (bitAt (l.copyOf 0).2.2.2 1) ((l.copyOf 0).2.1 + 64 * 0) true).toOption = some (.scratch 0x2000) ∧
     poisoned s (.scratch 0x1000) 64 = false ∧ hostRefuses s (.scratch 0x1000) 64 = false ∧ hostRefuses s (.scratch 0x2000) 64 = false ∧
     copyReady s l = true) ∧
    (let w : Stuck := { cap := 16, g := 3, row := 0, num := 10, e := 0, dest := (3, 0, 10) }
     let s := { accessed with subs := [(3, { act := { cid := 1, eng := [(0, { pushTo := some 10 })] } })], cores := [(0, { stall := 256 })] }
     0 < 96 ∧ 256 ≤ (coreOf s 0).stall ∧
     (sortBy stuckLe (((List.range 4).map (4 * 0 + ·)).flatMap fun g => [0, 1, 2, 3, 4].flatMap fun e => stuckOf s g e)).map (·.dest) = [w.dest] ∧
     (dieOf s 0).mere.foldl (fun a (_, b) => a + b) 0 + extBytes w.dest.2.2 ≤ 65536 ∧ tget 0 (dieOf s 0).mere 0 + extBytes w.dest.2.2 ≤ 16384) := by
  decide +kernel

/-! ### Values that the spec works out -/

/-- R65's example: 1 + 2^-8 in bf16, to nearest even and up. -/
theorem test_bf16_add : (let x (m : Nat) := roundF (fmtOf 1) m (FV.add m (decodeF (fmtOf 1) 0x3F80) (decodeF (fmtOf 1) 0x3B80))
    x 0 = 0x3F80 ∧ x 2 = 0x3F81) := by decide +kernel
/-- R72's example: 464.0 and 465.0 to e4m3. -/
theorem test_e4m3_convert : vconvert 0 3 0 false 0x43E80000 = 0x7E ∧ vconvert 0 3 0 false 0x43E88000 = 0x7F ∧
    vconvert 0 3 0 true 0x43E88000 = 0x7E := by decide +kernel
/-- R75's example: a block of magnitude 1,000.0 in e4m3, and its dequantised elements. -/
theorem test_block_scale : (let b := quantBlock 3 0 ([0x447A0000, 0x40400000, 0xBC23D70A] ++ List.replicate 29 0)
    b.1 = 0x80 ∧ b.2.take 3 = [0x7E, 0x3C, 0x83] ∧ dequant 3 0 0 b.1 0x7E = 0x44600000 ∧ dequant 3 0 0 b.1 0x3C = 0x40400000 ∧
    dequant 3 0 0 b.1 0x83 = 0xBC400000) := by decide +kernel
/-- R85's example: a pair that fades under a floor of 2^-96, and its neighbour that does not. -/
theorem test_fade : pairAxpy 0x0F800000 0x3F000000 (0x8F800000, 0) (0, 0) = ((0x80000000, 0), true) ∧
    pairAxpy 0x0F800000 0x3F000000 (0x10000000, 0) (0, 0) = ((0x0F800000, 0), false) := by decide +kernel
/-- R105's example with t5. -/
theorem test_thresholds : threshold 3#16 5#16 = (false, false) ∧ threshold 7#16 5#16 = (true, false) ∧ threshold 0#16 0x4000#16 = (true, true) ∧
    threshold 0#16 0x8001#16 = (true, false) := by decide
/-- R206: the CRC of "123456789". -/
theorem test_crc : crc64 [0x31#8, 0x32#8, 0x33#8, 0x34#8, 0x35#8, 0x36#8, 0x37#8, 0x38#8, 0x39#8] = 0x995DC9BBDF1939FA#64 := by decide +kernel
/-- R158's example of VTOPK: columns 0 to 4 of an f32 row. -/
theorem test_topk : (ranked (fmtOf 0) [0x40000000, 0x7FC00000, 0x40E00000, 0x40000000, 0x80000000] 5).map (·.2) = [2, 0, 3, 4, 1] := by decide +kernel
/-- Table 6.9: two blocks of row 0, and the empty row 1. -/
theorem test_soft_maximum :
    (let a := smaxRow 0 [0x40A00000, 0x40A00000, 0x40A00000, 0x40A00000] 0 0 0
     a.p = [0x3F800000, 0x3F800000, 0x3F800000, 0x3F800000] ∧ a.st = [0x40A00000, 0x40800000, 0x3E800000, 0x40E00000, 1] ∧ a.alpha = 0) ∧
    (let b := smaxRow 0 [0x40C00000, 0xFF800000, 0xFF800000, 0x40C00000] 0x40A00000 0x40800000 1
     b.p = [0x3F800000, 0, 0, 0x3F800000] ∧ b.st = [0x40C00000, 0x40800000, 0x3E800000, 0x41000000, 1] ∧ b.alpha = 0x3F000000) := by decide +kernel
/-- R292's example: head 40, tail 44 and claimed 46 of 8 slots, with phase 6 in slot 4. -/
theorem test_ring_waits :
    (let r : Ring := { kind := 1, ssz := 4, count := 8, base := 0x2000, phase := 0x3000, head := 40, tail := 44, claim := 46 }
     let s := { accessed with mem := [(0x3004, 6#8)] }
     rwaitfMet s r 5 = true ∧ rwaitfMet s r 44 = true ∧ rwaitfMet s r 46 = false ∧ rwaiteMet r 47 = true ∧ rwaiteMet r 48 = false) := by decide
/-- R217's example: a victim that holds [100, 107). -/
theorem test_split :
    (let s : State := { launched with subs := [(0, { act := { cid := 1, step := some { lid := 3, item := 0, resident := true, lo := 9, hi := 9 } } }),
                                               (7, { act := { cid := 2, step := some { lid := 3, item := 1, resident := true, lo := 100, hi := 107 } } })] }
     let t := (splitRange s 7).2
     (splitRange s 7).1 = 3#64 ∧ ((ctxOf t 7).step.map fun x => (x.lo, x.hi)) = some (100, 104) ∧
     ((ctxOf t 0).step.map fun x => (x.lo, x.hi)) = some (104, 107)) := by decide +kernel
/-- R320's worked encoding of CSRW XINV, s10. -/
theorem test_csrw_xinv : decodeWord 0 0xEE285040 = (true, some (.csrw 10#6 0x141#12)) := by decide
/-- A next state with a property. -/
def after (o : Host.Outcome State Fault Refusal) (p : State → Bool) : Bool := match o with | .next t => p t | _ => false
/-- R141: the draw of stream 0 under a seed and a counter of 0. -/
theorem test_rand : after (exec (.rand 1#6 0#6) (at0 {})) (fun t =>
    (curEng t).pipe.map (·.val) == [.word 0xE169C58D6627E8D5#64] && (curCtx t).rndctr == 1#64) = true := by decide +kernel
/-- Table 5.3: the most negative number by −1, and a division by 0. -/
theorem test_division : after (exec (.div 9#6 4#6 5#6) (at0 regs)) (fun t => (curEng t).pipe.map (·.val) == [.word 0x8000000000000000#64]) = true ∧
    after (exec (.remu 9#6 1#6 0#6) (at0 regs)) (fun t => (curEng t).pipe.map (·.val) == [.word 7#64]) = true := by decide +kernel
/-- A word of a step: ADD issues, the next group stands after it, and no register has changed yet. -/
theorem test_step_add : after (step adding) (fun t => (engOf (ctxOf t 0) 0).pc == 0x1004 && (engOf (ctxOf t 0) 0).pipe.length == 1 &&
    (engOf (ctxOf t 0) 0).idle == 1) = true := by decide +kernel
/-- A misaligned load ends its step, with the cause ALIGN in TCAUSE (R122, R330, R344). -/
theorem test_trap_align : after (exec (.ldScratch 9#6 1#6 0#1 0#5 1#2 0#4) (accessed { s := [(1, reg 0x1001)] })) (fun t =>
    t.cur.hold == .trap .align 0#64 0#16 none) = true := by decide +kernel
/-- A store is applied: its bytes are at its home, least significant first (R5, R303). -/
theorem test_store_applied :
    (let q : Access := { id := 5, g := 0, cid := 1, kind := .store, cls := 0, loc := .scratch 0x1000, size := 4, data := 0x99998888 }
     after (exec (.packetApplied 5) { accessed with accs := [q] }) fun t =>
       t.mem == [(0x1000, 0x88#8), (0x1001, 0x88#8), (0x1002, 0x99#8), (0x1003, 0x99#8)] && t.accs == []) = true := by decide +kernel
/-- Boot begins from reset, and its step ends with firmware not yet started (Table 24.4). -/
theorem test_boot : after (step State.reset) (fun t => t.svc.bootst == 1#8) = true := by decide +kernel

end Sys2Proof.Tests
end

section
/-! SUPPORT. Vector registers as elements: what reading a register's elements gives, what a register put together from elements
holds, and the outcome of every elementwise word (R19, R143 to R147). -/

namespace Sys2Proof.Machine
open Sys2Proof

/-! ### Bytes of a number (R5) -/

theorem pow_256 (n : Nat) : 256 ^ n = 2 ^ (8 * n) := by rw [Nat.pow_mul]

@[simp] theorem leBytes_length (n x : Nat) : (leBytes n x).length = n := by
  induction n generalizing x with
  | zero => rfl
  | succ n ih => simp [leBytes, ih]

@[simp] theorem leNat_leBytes (n x : Nat) : leNat (leBytes n x) = x % 256 ^ n := by
  induction n generalizing x with
  | zero => simp [leBytes, leNat, Nat.mod_one]
  | succ n ih => rw [leBytes, leNat, ih, BitVec.toNat_ofNat, Nat.pow_succ' (m := 256), Nat.mod_mul]

theorem leBytes_take (k n x : Nat) : (leBytes n x).take k = leBytes (min k n) x := by
  induction n generalizing k x with
  | zero => simp [leBytes]
  | succ n ih => cases k with
    | zero => simp [leBytes]
    | succ k => simp [leBytes, ih]

theorem leBytes_drop (k n x : Nat) : (leBytes n x).drop k = leBytes (n - k) (x / 256 ^ k) := by
  induction n generalizing k x with
  | zero => simp [leBytes]
  | succ n ih => cases k with
    | zero => simp
    | succ k => simp [leBytes, ih, Nat.pow_succ', Nat.div_div_eq_div_mul]

theorem leNat_lt (bs : List Byte) : leNat bs < 256 ^ bs.length := by
  induction bs with
  | nil => simp [leNat]
  | cons b bs ih =>
    have hb := b.isLt
    rw [leNat, List.length_cons, Nat.pow_succ']
    omega

/-- A word of enough bits holds the bytes unchanged. -/
theorem toNat_ofNat_leNat {bs : List Byte} {k : Nat} (h : 8 * bs.length ≤ k) : (BitVec.ofNat k (leNat bs)).toNat = leNat bs := by
  rw [BitVec.toNat_ofNat, Nat.mod_eq_of_lt]
  exact Nat.lt_of_lt_of_le (leNat_lt bs) (pow_256 bs.length ▸ Nat.pow_le_pow_right (by decide) h)

theorem leNat_append (as bs : List Byte) : leNat (as ++ bs) = leNat as + 256 ^ as.length * leNat bs := by
  induction as with
  | nil => simp [leNat]
  | cons a as ih =>
    rw [List.cons_append, leNat, leNat, ih, List.length_cons, Nat.pow_succ', Nat.mul_add, Nat.mul_assoc, Nat.add_assoc]

/-! ### Lists by place -/

theorem nth_eq_getElem {α : Type} (d : α) {l : List α} {j : Nat} (h : j < l.length) : nth d l j = l[j] := by
  induction l generalizing j with
  | nil => exact absurd h (Nat.not_lt_zero j)
  | cons x l ih => cases j with
    | zero => rfl
    | succ j => exact ih (Nat.lt_of_succ_lt_succ h)

@[simp] theorem chunk_length {α : Type} (n k : Nat) (l : List α) : (chunk n k l).length = k := by
  induction k generalizing l with
  | zero => rfl
  | succ k ih => simp [chunk, ih]

theorem chunk_getElem {α : Type} (n k : Nat) (l : List α) {j : Nat} (h : j < (chunk n k l).length) :
    (chunk n k l)[j] = (l.drop (n * j)).take n := by
  induction k generalizing l j with
  | zero => simp [chunk] at h
  | succ k ih => cases j with
    | zero => simp [chunk]
    | succ j => simp [chunk, ih, Nat.mul_succ, Nat.add_comm]

/-! ### Elements of a register (R19) -/

/-- The elements that a word reads are those of the register's view. -/
theorem nth_velems (w : Nat) (v : VWord) {j : Nat} (h : j < 2048 / w) : nth 0 (velems w v) j = elemAt (8 * w) v j := by
  have hend : w * j + w ≤ 2048 := Nat.mul_succ w j ▸ Nat.le_trans (Nat.mul_le_mul_left w h) (Nat.mul_div_le 2048 w)
  rw [nth_eq_getElem 0 (by simpa [velems, elems] using h)]
  simp only [velems, elems, List.getElem_map, chunk_getElem, vecBytes, leBytes_drop, leBytes_take, leNat_leBytes]
  rw [Nat.min_eq_left (by omega), pow_256, pow_256, elemAt, Nat.mul_assoc]

theorem elemBytes_length (w : Nat) (xs : List Nat) : (elemBytes w xs).length = w * xs.length := by
  induction xs with
  | nil => simp [elemBytes]
  | cons x xs ih =>
    rw [show elemBytes w (x :: xs) = leBytes w x ++ elemBytes w xs from rfl]
    simp [ih, Nat.mul_succ, Nat.add_comm]

theorem leNat_elemBytes_cons (w x : Nat) (xs : List Nat) :
    leNat (elemBytes w (x :: xs)) = x % 256 ^ w + 256 ^ w * leNat (elemBytes w xs) := by
  rw [show elemBytes w (x :: xs) = leBytes w x ++ elemBytes w xs from rfl, leNat_append, leNat_leBytes, leBytes_length]

/-- Element `j` of the number that the bytes of elements spell. -/
theorem leNat_elemBytes_div (w : Nat) (xs : List Nat) (j : Nat) :
    leNat (elemBytes w xs) / 256 ^ (w * j) % 256 ^ w = nth 0 xs j % 256 ^ w := by
  have hpos : 0 < 256 ^ w := Nat.pow_pos (by decide)
  induction xs generalizing j with
  | nil => simp [elemBytes, leNat, nth]
  | cons x xs ih => cases j with
    | zero => simp [leNat_elemBytes_cons, nth]
    | succ j =>
      rw [leNat_elemBytes_cons, Nat.mul_succ, Nat.add_comm (w * j), Nat.pow_add, ← Nat.div_div_eq_div_mul,
        Nat.add_mul_div_left _ _ hpos, Nat.div_eq_of_lt (Nat.mod_lt _ hpos), Nat.zero_add, ih, nth]

/-- A register put together from elements of `w` bytes holds them. -/
theorem elemAt_vofElems (w : Nat) (xs : List Nat) (j : Nat) (hlen : w * xs.length ≤ 2048) (hj : nth 0 xs j < 2 ^ (8 * w)) :
    elemAt (8 * w) (vofElems w xs) j = nth 0 xs j := by
  have hbits : 8 * (elemBytes w xs).length ≤ 16384 := elemBytes_length w xs ▸ Nat.mul_le_mul_left 8 hlen
  have hdiv := leNat_elemBytes_div w xs j
  rw [pow_256, pow_256, ← Nat.mul_assoc, Nat.mod_eq_of_lt hj] at hdiv
  rw [elemAt, vofElems, vecOfBytes, toNat_ofNat_leNat hbits, hdiv]

theorem elemAt_lt (b : Nat) (v : VWord) (j : Nat) : elemAt b v j < 2 ^ b := Nat.mod_lt _ (Nat.two_pow_pos _)

/-! ### Operands and results (R144 to R147) -/

/-- Operands without poison give no trap. -/
theorem worst_of_sound (vs : List Val) (h : ∀ v ∈ vs, v.p = none) : worst vs = none := by
  induction vs with
  | nil => rfl
  | cons v vs ih =>
    have hv := h v (by simp)
    have hvs := ih fun w hw => h w (by simp [hw])
    simp [worst, hv, hvs]

theorem vecClean_mono {s : State} {all some : List (BitVec 6)} (h : VecClean s all) (sub : some ⊆ all) : VecClean s some :=
  ⟨h.1, fun hc n hn => h.2 hc n (sub hn)⟩

/-- A vector word whose consumed operands are sound reads its sources and goes on. -/
theorem vsources_clean {s : State} {src : List (BitVec 6)} (h : VecClean s src) (k : State → List VReg → Option Word → State) :
    vsources s (src.map (·.toNat)) [] k =
      k s (src.map fun n => vregOf (curCtx s) n.toNat) ((predicate s).map (·.w)) := by
  obtain ⟨hk, hsrc⟩ := h
  have sound : worst ((predicate s).toList ++
      (if hasCopies s then ((src.map (·.toNat)).map (vregOf (curCtx s))).map VReg.val64 ++ [] else [])) = none := by
    refine worst_of_sound _ fun v hv => ?_
    rcases List.mem_append.1 hv with hp | hc
    · exact hk v (by simpa using hp)
    · split at hc
      · obtain ⟨n, hn, rfl⟩ : ∃ n ∈ src, (vregOf (curCtx s) n.toNat).val64 = v := by simpa using hc
        exact hsrc ‹_› n hn
      · simp at hc
  rw [vsources, consume, sound, List.map_map]
  rfl

theorem vecOut_congr {s : State} {o : Host.Outcome State Fault Refusal} {lat : Nat} {d : BitVec 6} {b : Nat} {mask : VWord}
    {p : Option Cause} {f g : Nat → Nat} (h : VecOut s o lat d b mask p f) (e : ∀ j, f j = g j) : VecOut s o lat d b mask p g :=
  funext e ▸ h

/-- The outcome of an elementwise word of `w` bytes whose results fit an element. -/
theorem vmap_vecOut {s : State} {src : List (BitVec 6)} (lat : Nat) (d : BitVec 6) (w : Nat) (f : List Nat → Nat)
    (hc : VecClean s src) (hf : ∀ j, f (src.map fun n => elemAt (8 * w) (vregOf (curCtx s) n.toNat).val j) < 2 ^ (8 * w)) :
    VecOut s (.next (vmap s lat d w src f)) lat d (8 * w) (tileMask w ((predicate s).map (·.w)))
      (vtag (src.map fun n => vregOf (curCtx s) n.toNat))
      fun j => f (src.map fun n => elemAt (8 * w) (vregOf (curCtx s) n.toNat).val j) := by
  refine ⟨_, by rw [vmap, vsources_clean hc], fun j hj => ?_⟩
  replace hj : j < 2048 / w := by rwa [← Nat.div_div_eq_div_mul] at hj
  have hget : nth 0 ((List.range (2048 / w)).map fun j =>
        f (((src.map fun n => vregOf (curCtx s) n.toNat).map fun r => velems w r.val).map fun c => nth 0 c j)) j =
      f (src.map fun n => elemAt (8 * w) (vregOf (curCtx s) n.toNat).val j) := by
    rw [nth_eq_getElem 0 (by simpa using hj)]
    simp [Function.comp_def, nth_velems w _ hj]
  rw [elemAt_vofElems _ _ _ (by simpa using Nat.mul_div_le 2048 w) (hget ▸ hf j), hget]

end Sys2Proof.Machine
end

section
/-! SUPPORT. Floating formats: every rounded, copied or sign-changed pattern fits its format, and the floating words of the vector engine
give the elements of Tables 6.3 and 6.4 (R61 to R68, R87, R149, R150). -/

namespace Sys2Proof.Machine
open Sys2Proof

/-! ### Patterns of a format (Table 3.1) -/

/-- The codes of a format fit its width: a magnitude leaves the sign bit free. -/
structure Fmt.Fits (f : Fmt) : Prop where
  width : 0 < f.width
  maxCode : f.maxCode < 2 ^ (f.width - 1)
  inf : ∀ i, f.inf = some i → i < 2 ^ (f.width - 1)
  nan : f.nan < 2 ^ f.width

theorem fmtOf_fits (t : Nat) : (fmtOf t).Fits := by
  unfold fmtOf
  split <;> exact ⟨by decide, by decide, by decide, by decide⟩

theorem fmtOf_bytes {t : Nat} (h : t < 5) : typeBytes t = (fmtOf t).width / 8 ∧ 8 * typeBytes t = (fmtOf t).width := by
  revert t; decide

theorem fmtOf_bits {t : Nat} (h : t < 5) : typeBits t = (fmtOf t).width := by
  revert t; decide

/-- A sign and a magnitude make a pattern. -/
theorem signBit_add_lt {f : Fmt} (hf : f.Fits) (neg : Bool) {c : Nat} (h : c < 2 ^ (f.width - 1)) : signBit f neg + c < 2 ^ f.width := by
  have hw := Nat.two_pow_pred_add_two_pow_pred hf.width
  cases neg <;> simp only [signBit, Bool.false_eq_true, if_true, if_false] <;> omega

theorem overflow_lt {f : Fmt} (hf : f.Fits) (mode : Nat) (sat neg : Bool) : overflow f mode sat neg < 2 ^ f.width := by
  unfold overflow
  split
  · exact signBit_add_lt hf _ hf.maxCode
  · split
    · exact hf.nan
    · refine signBit_add_lt hf _ ?_
      split
      · exact hf.inf _ ‹_›
      · exact hf.maxCode

/-- Rounding gives a pattern of the format, whatever the value. -/
theorem roundS_lt {f : Fmt} (hf : f.Fits) (mode : Nat) (sat : Bool) (v : FV) (sticky : Bool) : roundS f mode sat v sticky < 2 ^ f.width := by
  cases v with
  | nan => exact hf.nan
  | inf neg =>
    simp only [roundS]
    split
    · exact signBit_add_lt hf _ (hf.inf _ ‹_›)
    · split
      · exact signBit_add_lt hf _ hf.maxCode
      · exact hf.nan
  | fin neg m e =>
    simp only [roundS]
    split
    · exact signBit_add_lt hf neg (c := 0) (Nat.two_pow_pos _)
    · split
      · exact overflow_lt hf ..
      · exact signBit_add_lt hf _ (by have := hf.maxCode; omega)

theorem roundF_lt {f : Fmt} (hf : f.Fits) (mode : Nat) (v : FV) : roundF f mode v < 2 ^ f.width := roundS_lt hf ..

theorem minPat_lt {f : Fmt} (hf : f.Fits) {x y : Nat} (hx : x < 2 ^ f.width) (hy : y < 2 ^ f.width) : minPat f x y < 2 ^ f.width := by
  simp only [minPat]
  split
  · exact hf.nan
  · split
    · exact hy
    · exact hx

theorem maxPat_lt {f : Fmt} (hf : f.Fits) {x y : Nat} (hx : x < 2 ^ f.width) (hy : y < 2 ^ f.width) : maxPat f x y < 2 ^ f.width := by
  simp only [maxPat]
  split
  · exact hf.nan
  · split
    · exact hy
    · exact hx

theorem integral_lt {f : Fmt} (hf : f.Fits) (mode : Nat) {x : Nat} (hx : x < 2 ^ f.width) : integral f mode x < 2 ^ f.width := by
  unfold integral
  split
  · exact hf.nan
  · exact hx
  · exact roundS_lt hf ..

/-- Inverting the highest bit adds it, modulo the width. -/
theorem xor_topBit {n x : Nat} (hn : 0 < n) (hx : x < 2 ^ n) : x ^^^ 2 ^ (n - 1) = (x + 2 ^ (n - 1)) % 2 ^ n := by
  refine Nat.eq_of_testBit_eq fun i => ?_
  rw [Nat.testBit_xor, Nat.testBit_two_pow, Nat.testBit_mod_two_pow, Nat.add_comm]
  rcases Nat.lt_trichotomy i (n - 1) with hi | rfl | hi
  · rw [Nat.testBit_two_pow_add_gt hi, decide_eq_false (by omega : ¬ n - 1 = i), decide_eq_true (by omega : i < n), Bool.xor_false,
      Bool.true_and]
  · rw [Nat.testBit_two_pow_add_eq, decide_eq_true rfl, decide_eq_true (by omega : n - 1 < n), Bool.xor_true, Bool.true_and]
  · have hxi : x.testBit i = false := Nat.testBit_lt_two_pow (Nat.lt_of_lt_of_le hx (Nat.pow_le_pow_right (by decide) (by omega)))
    rw [hxi, decide_eq_false (by omega : ¬ n - 1 = i), decide_eq_false (by omega : ¬ i < n), Bool.false_and, Bool.xor_false]

/-! ### Floating words (R149, R150) -/

/-- The outcome of a word of floating type `t`: elements of the format's width, under the predicate's mask of that tile view. -/
abbrev FloatOut (s : State) (o : Host.Outcome State Fault Refusal) (lat : Nat) (d : BitVec 6) (t : BitVec 4) (p : Option Cause)
    (g : Nat → Nat) : Prop :=
  VecOut s o lat d (fmtOf t.toNat).width (tileMask ((fmtOf t.toNat).width / 8) ((predicate s).map (·.w))) p g

/-- A source register of a word that executes. -/
abbrev srcReg (s : State) (n : BitVec 6) : VReg := vregOf (curCtx s) n.toNat

/-- The pattern of element `j` of a source of floating type `t`, and its value. -/
abbrev srcPat (s : State) (t : BitVec 4) (n : BitVec 6) (j : Nat) : Nat := elemAt (fmtOf t.toNat).width (srcReg s n).val j
abbrev srcVal (s : State) (t : BitVec 4) (n : BitVec 6) (j : Nat) : FV := decodeF (fmtOf t.toNat) (srcPat s t n j)

section
variable {s : State} {d a b : BitVec 6} {t : BitVec 4} (ht : t.toNat < 5)
include ht

/-- An elementwise word of a floating type whose results are patterns of the type. -/
theorem vmap_floatOut {src : List (BitVec 6)} (lat : Nat) (f : List Nat → Nat) (hc : VecClean s src)
    (hf : ∀ j, f (src.map fun n => srcPat s t n j) < 2 ^ (fmtOf t.toNat).width) :
    FloatOut s (.next (vmap s lat d (typeBytes t.toNat) src f)) lat d t (vtag (src.map (srcReg s)))
      fun j => f (src.map fun n => srcPat s t n j) := by
  obtain ⟨hb, hn⟩ := fmtOf_bytes ht
  have h := vmap_vecOut lat d (typeBytes t.toNat) f hc (by rwa [hn])
  rw [hn, hb] at h
  rwa [hb]

/-- A word of one operand, whose function is `g` on the patterns of the format. -/
theorem vunary_floatOut (lat : Nat) {f g : Nat → Nat} (hc : VecClean s [a])
    (hfg : ∀ x, x < 2 ^ (fmtOf t.toNat).width → f x = g x ∧ g x < 2 ^ (fmtOf t.toNat).width) :
    FloatOut s (.next (vunary s lat d a t f)) lat d t (srcReg s a).poison fun j => g (srcPat s t a j) := by
  have hat (j : Nat) := hfg (srcPat s t a j) (elemAt_lt _ _ j)
  exact vecOut_congr (vmap_floatOut ht lat (fun | [x] => f x | _ => 0) hc fun j => Nat.lt_of_le_of_lt (Nat.le_of_eq (hat j).1) (hat j).2) fun j => (hat j).1

/-- VABS clears the sign bit. -/
theorem execVabs_floatOut (hc : VecClean s [a]) :
    FloatOut s (execVabs d a t s) 2 d t (srcReg s a).poison fun j => srcPat s t a j % 2 ^ ((fmtOf t.toNat).width - 1) :=
  vunary_floatOut ht 2 hc (g := fun x => x % 2 ^ ((fmtOf t.toNat).width - 1)) fun x hx =>
    ⟨by rw [fmtOf_bits ht], Nat.lt_of_le_of_lt (Nat.mod_le _ _) hx⟩

/-- VNEG inverts the sign bit. -/
theorem execVneg_floatOut (hc : VecClean s [a]) :
    FloatOut s (execVneg d a t s) 2 d t (srcReg s a).poison fun j =>
      (srcPat s t a j + 2 ^ ((fmtOf t.toNat).width - 1)) % 2 ^ (fmtOf t.toNat).width :=
  vunary_floatOut ht 2 hc (g := fun x => (x + 2 ^ ((fmtOf t.toNat).width - 1)) % 2 ^ (fmtOf t.toNat).width) fun x hx =>
    ⟨by rw [fmtOf_bits ht, xor_topBit (fmtOf_fits _).width hx], Nat.mod_lt _ (Nat.two_pow_pos _)⟩

/-- VFLOOR, VCEIL and VRINT give the integral pattern of their mode. -/
theorem vunary_integral_floatOut (mode : Nat) (hc : VecClean s [a]) :
    FloatOut s (.next (vunary s 3 d a t (integral (fmtOf t.toNat) mode))) 3 d t (srcReg s a).poison fun j =>
      integral (fmtOf t.toNat) mode (srcPat s t a j) :=
  vunary_floatOut ht 3 hc fun _ hx => ⟨rfl, integral_lt (fmtOf_fits _) mode hx⟩

/-- A root or transcendental: one rounding of the function's value (R87). -/
theorem vroot_floatOut (f : FV → Near) (hc : VecClean s [a]) :
    FloatOut s (.next (vroot s d a t f)) 8 d t (srcReg s a).poison fun j =>
      roundS (fmtOf t.toNat) (roundMode s) false (f (srcVal s t a j)).1 (f (srcVal s t a j)).2 :=
  vunary_floatOut ht 8 hc fun _ _ => ⟨rfl, roundS_lt (fmtOf_fits _) ..⟩

/-- A word of two operands, given by its function on the patterns of the format. -/
theorem vmap2_floatOut (lat : Nat) (f : Nat → Nat → Nat) (hc : VecClean s [a, b])
    (hf : ∀ x y, x < 2 ^ (fmtOf t.toNat).width → y < 2 ^ (fmtOf t.toNat).width → f x y < 2 ^ (fmtOf t.toNat).width) :
    FloatOut s (.next (vmap s lat d (typeBytes t.toNat) [a, b] fun | [x, y] => f x y | _ => 0)) lat d t
      (meet (srcReg s a).poison (srcReg s b).poison) fun j => f (srcPat s t a j) (srcPat s t b j) :=
  vmap_floatOut ht lat _ hc fun j => hf _ _ (elemAt_lt _ _ j) (elemAt_lt _ _ j)

/-- A word of two operands: one rounding of the exact value. -/
theorem vfloat2_floatOut (f : FV → FV → FV) (hc : VecClean s [a, b]) :
    FloatOut s (.next (vfloat2 s d a b t f)) 4 d t (meet (srcReg s a).poison (srcReg s b).poison) fun j =>
      roundF (fmtOf t.toNat) (roundMode s) (f (srcVal s t a j) (srcVal s t b j)) :=
  vmap2_floatOut ht 4 (fun x y => roundF (fmtOf t.toNat) (roundMode s) (f (decodeF (fmtOf t.toNat) x) (decodeF (fmtOf t.toNat) y))) hc
    fun _ _ _ _ => roundF_lt (fmtOf_fits _) _ _

/-- A fused word: one rounding of the exact value of three operands. -/
theorem vfloat3_floatOut (f : FV → FV → FV → FV) (hc : VecClean s [a, b, d]) :
    FloatOut s (.next (vfloat3 s d a b t f)) 4 d t (meet (meet (srcReg s a).poison (srcReg s b).poison) (srcReg s d).poison) fun j =>
      roundF (fmtOf t.toNat) (roundMode s) (f (srcVal s t a j) (srcVal s t b j) (srcVal s t d j)) := by
  unfold vfloat3
  exact vmap_floatOut ht 4 _ hc fun _ => roundF_lt (fmtOf_fits _) _ _

end

end Sys2Proof.Machine
end

section
/-! SUPPORT. The statements on the vector engine's floating words, settled. -/

namespace Sys2Proof.Machine
open Sys2Proof

/-- Settles O38: each floating word is an elementwise word whose results are patterns of its format, so that the result register holds
them element by element. -/
theorem vectorFloats : Obligations.VectorFloats := by
  intro d a b t s x y z ht hc hx hy hz
  subst hx hy hz
  have hab : VecClean s [a, b] := vecClean_mono hc (by simp)
  have ha : VecClean s [a] := vecClean_mono hc (by simp)
  refine ⟨?vadd, ?vsub, ?vmul, ?vfma, ?vfms, ?vfnma, ?vmin, ?vmax, ?vabs, ?vneg, ?vfloor, ?vceil, ?vrint, ?vsqrt, fun _ => ?f32only⟩
  case vadd | vsub | vmul => exact vfloat2_floatOut ht _ hab
  case vfma | vfms | vfnma => exact vfloat3_floatOut ht _ hc
  case vmin => exact vmap2_floatOut ht 2 (minPat _) hab fun _ _ => minPat_lt (fmtOf_fits _)
  case vmax => exact vmap2_floatOut ht 2 (maxPat _) hab fun _ _ => maxPat_lt (fmtOf_fits _)
  case vabs => exact execVabs_floatOut ht ha
  case vneg => exact execVneg_floatOut ht ha
  case vfloor | vceil | vrint => exact vunary_integral_floatOut ht _ ha
  case vsqrt => exact vroot_floatOut ht vSqrt ha
  case f32only =>
    exact ⟨vroot_floatOut ht vExp2 ha, vroot_floatOut ht vLog2 ha, vroot_floatOut ht vRcp ha, vroot_floatOut ht vRsq ha⟩

end Sys2Proof.Machine
end

section
/-! SUPPORT. Words as numbers modulo 2^64 (R102, Table 4.3), and the half-word that MOVKA and MOVK replace (R102, R117). -/

namespace Sys2Proof.Machine
open Sys2Proof

theorem word_sub_eq_ofInt (x y : Word) : x - y = BitVec.ofInt 64 ((x.toNat : Int) - y.toNat) := by
  simp [Int.sub_eq_add_neg, BitVec.ofInt_add, BitVec.ofInt_neg, BitVec.sub_eq_add_neg]

theorem word_add_mul_eq_ofNat (x y z : Word) : x + y * z = BitVec.ofNat 64 (x.toNat + y.toNat * z.toNat) := by
  simp [BitVec.ofNat_add, BitVec.ofNat_mul]

theorem word_add_signExtend_eq_ofInt (x : Word) (i : BitVec 16) : x + i.signExtend 64 = BitVec.ofInt 64 (x.toNat + i.toInt) := by
  simp [BitVec.ofInt_add, BitVec.signExtend]

theorem word_shiftRight_eq_ofNat (x : Word) (n : Nat) : x >>> n = BitVec.ofNat 64 (x.toNat / 2 ^ n) := by
  rw [← Nat.shiftRight_eq_div_pow, ← BitVec.toNat_ushiftRight, BitVec.ofNat_toNat, BitVec.setWidth_eq]

theorem word_shiftLeft_eq_ofNat (x : Word) (n : Nat) : x <<< n = BitVec.ofNat 64 (x.toNat * 2 ^ n) := by
  rw [← Nat.shiftLeft_eq]
  rfl

/-- MOVLA keeps bits [31:0]. -/
theorem word_and_low32_toNat (x : Word) : (x &&& 0xFFFFFFFF#64).toNat = x.toNat % 2 ^ 32 := by
  rw [BitVec.toNat_and]
  exact Nat.and_two_pow_sub_one_eq_mod x.toNat 32

/-! ### Half-words -/

theorem wideImm_eq_ofNat (h : BitVec 2) (i : BitVec 16) : wideImm h i = BitVec.ofNat 64 (i.toNat * 2 ^ (16 * h.toNat)) := by
  rw [wideImm, word_shiftLeft_eq_ofNat, BitVec.toNat_setWidth_of_le (by decide)]

theorem getLsbD_wideImm (h : BitVec 2) (i : BitVec 16) {j : Nat} (hj : j < 64) :
    (wideImm h i).getLsbD j = (decide (16 * h.toNat ≤ j) && i.getLsbD (j - 16 * h.toNat)) := by
  simp [wideImm, hj, ← decide_not]

/-- Half-word `h` of the result is the immediate, and every other bit is kept. -/
theorem getLsbD_insertImm (x : Word) (h : BitVec 2) (i : BitVec 16) {j : Nat} (hj : j < 64) :
    (insertImm x h i).getLsbD j =
      (if 16 * h.toNat ≤ j ∧ j < 16 * h.toNat + 16 then i.getLsbD (j - 16 * h.toNat) else x.getLsbD j) := by
  have hmask (k : Nat) : (0xFFFF#16).getLsbD k = decide (k < 16) := BitVec.getLsbD_allOnes
  rw [insertImm, BitVec.getLsbD_or, BitVec.getLsbD_and, BitVec.getLsbD_not, getLsbD_wideImm h _ hj, getLsbD_wideImm h _ hj, hmask]
  split
  case isTrue hin =>
    obtain ⟨hlow, hhigh⟩ := hin
    have hk : j - 16 * h.toNat < 16 := by omega
    simp [hlow, hk]
  case isFalse hout =>
    by_cases hlow : 16 * h.toNat ≤ j
    · have hk : 16 ≤ j - 16 * h.toNat := by omega
      simp [hj, Nat.not_lt.2 hk, BitVec.getLsbD_of_ge i _ hk]
    · simp [hj, hlow]

end Sys2Proof.Machine
end

section
/-! SUPPORT. What an address word lands (R102), and the rows of the threshold condition of a token wait (R105, Table 4.4). -/

namespace Sys2Proof.Machine
open Sys2Proof

/-! ### Results of address words (R102) -/

/-- The outcome of a word that lands a value in an a register one clock later. -/
abbrev aResult (s : State) (d : BitVec 4) (w : Word) (p : Option Cause) : Host.Outcome State Fault Refusal :=
  .next (land s 1 (destA s.cur.e d.toNat) ⟨w, p⟩)

/-- An a register of a word that executes. -/
abbrev srcA (s : State) (n : BitVec 4) : Val := rdA (curCtx s) s.cur.e n.toNat

section
variable {s : State} {d a b c : BitVec 4} {f : List Word → Word} {w : Word}

theorem addrOp_no_source (h : f [] = w) : .next (addrOp s d [] f) = aResult s d w none := h ▸ rfl

theorem addrOp_one_source (h : f [(srcA s a).w] = w) : .next (addrOp s d [a] f) = aResult s d w (srcA s a).p := h ▸ rfl

theorem addrOp_two_sources (h : f [(srcA s a).w, (srcA s b).w] = w) :
    .next (addrOp s d [a, b] f) = aResult s d w (meet (srcA s a).p (srcA s b).p) := h ▸ rfl

theorem addrOp_three_sources (h : f [(srcA s a).w, (srcA s b).w, (srcA s c).w] = w) :
    .next (addrOp s d [a, b, c] f) = aResult s d w (meet (meet (srcA s a).p (srcA s b).p) (srcA s c).p) := h ▸ rfl

end

/-! ### Thresholds (R105) -/

/-- The distance that the model decides by is the lead of R105. -/
theorem toNat_sub_eq_lead (c theta : BitVec 16) : (theta - c).toNat = (theta.toNat + 2 ^ 16 - c.toNat) % 2 ^ 16 := by
  bv_omega

section
variable {c theta : BitVec 16}

theorem threshold_of_reached (h : (theta - c).toNat = 0) : threshold c theta = (true, false) := by
  rw [threshold, if_pos h]

theorem threshold_of_ahead (hlow : 1 ≤ (theta - c).toNat) (hhigh : (theta - c).toNat ≤ 16383) : threshold c theta = (false, false) := by
  rw [threshold, if_neg (by omega), if_pos (by omega)]

theorem threshold_of_stale (hlow : 16384 ≤ (theta - c).toNat) (hhigh : (theta - c).toNat ≤ 32768) : threshold c theta = (true, true) := by
  rw [threshold, if_neg (by omega), if_neg (by omega), if_pos hhigh]

theorem threshold_of_passed (hlow : 32769 ≤ (theta - c).toNat) : threshold c theta = (true, false) := by
  rw [threshold, if_neg (by omega), if_neg (by omega), if_neg (by omega)]

end

end Sys2Proof.Machine
end

section
/-! SUPPORT. The statements on address arithmetic and on token thresholds, settled. -/

namespace Sys2Proof.Machine
open Sys2Proof

/-- Settles O7: an address word lands the function of Table 4.3 on its sources with their poison, and that function is the number stated,
modulo 2^64. -/
theorem addressArithmetic : Obligations.AddressArithmetic := by
  intro d a b c l h i n s x y z u v hx hy hz hu hv
  subst hx hy hz hu hv
  refine ⟨?adda, ?suba, ?addma, ?addia, ?andia, ?sllia, ?srlia, ?movia, ⟨_, ?movka, fun _ hj => getLsbD_insertImm _ h i hj⟩, ?moval,
    ⟨_, ?movla, word_and_low32_toNat _⟩⟩
  case adda => exact addrOp_two_sources (BitVec.add_def _ _)
  case suba => exact addrOp_two_sources (word_sub_eq_ofInt _ _)
  case addma => exact addrOp_three_sources (word_add_mul_eq_ofNat _ _ _)
  case addia => exact addrOp_one_source (word_add_signExtend_eq_ofInt _ i)
  case andia => exact addrOp_one_source rfl
  case sllia => exact addrOp_one_source (word_shiftLeft_eq_ofNat _ _)
  case srlia => exact addrOp_one_source (word_shiftRight_eq_ofNat _ _)
  case movia => exact addrOp_no_source (wideImm_eq_ofNat h i)
  case movka => exact addrOp_one_source rfl
  case moval => rfl
  case movla => rfl

/-- Settles O10: the model decides by the lead, and `behind` is 0 with it and else its complement to 2^16. -/
theorem thresholdCondition : Obligations.ThresholdCondition := by
  intro c theta lead behind hlead hbehind
  have hbehind : lead = 0 ∧ behind = 0 ∨ 1 ≤ lead ∧ lead + behind = 2 ^ 16 := by
    have hc := c.isLt
    have htheta := theta.isLt
    omega
  rw [← toNat_sub_eq_lead] at hlead
  subst hlead
  refine ⟨?reached, ?ahead, ?stale, ?passed⟩
  case reached => exact fun h => ⟨by omega, threshold_of_reached h⟩
  case ahead => exact fun hlow hhigh => ⟨by omega, threshold_of_ahead hlow hhigh⟩
  case stale => exact fun hlow hhigh => ⟨by omega, by omega, threshold_of_stale hlow hhigh⟩
  case passed => exact fun hlow => ⟨by omega, by omega, threshold_of_passed hlow⟩

end Sys2Proof.Machine
end
